-- ==== Sys2Proof/Word.lean ====
section
/-! DEFINITION. The word types of the Viori Oatus and their plainest arithmetic. -/
namespace Sys2Proof

/-- One byte of a memory. -/
abbrev Byte := BitVec 8
/-- A 32-bit register value (one lane of a vector register, or a scalar), R16, R23. -/
abbrev W32 := BitVec 32
/-- A 64-bit value: an instruction word, a header, a pointer or a register pair. -/
abbrev W64 := BitVec 64
/-- A mask over the 96 lanes of a group (R22): bit i stands for lane i. -/
abbrev Lanes := BitVec 96

/-- The mask of one lane. -/
def laneBit (i : Nat) : Lanes := BitVec.ofNat 96 (2 ^ i)
/-- All 96 lanes. -/
def allLanes : Lanes := BitVec.ofNat 96 (2 ^ 96 - 1)
/-- The lanes of a mask, in increasing order. -/
def laneList (m : Lanes) : List Nat := (List.range 96).filter fun i => m.getLsbD i
/-- The number of lanes of a mask. -/
def laneCount (m : Lanes) : Nat := (laneList m).length
/-- The mask whose bit i says whether `f i` holds. -/
def lanesOf (f : Nat → Bool) : Lanes :=
  (List.range 96).foldl (fun m i => if f i then m ||| laneBit i else m) 0
/-- The lanes of slice k (R22): lanes 4k to 4k + 3. -/
def sliceLanes (k : Nat) : Lanes := BitVec.ofNat 96 (15 * 2 ^ (4 * k))
/-- Bits [h:l] of a word as an unsigned number (the helper Bits of R81). -/
def bits {n : Nat} (x : BitVec n) (h l : Nat) : Nat := x.toNat / 2 ^ l % 2 ^ (h + 1 - l)

end Sys2Proof
end

