-- ==== Sys2Proof/Syntax/Operand.lean ====
section
/-! DEFINITION. The operand records of the instruction words: guards, register operands, formats F, M and paired. -/
namespace Sys2Proof

/-- The guard of a word: predicate number PRD and negation PN (R61, R81). -/
structure Guard where
  prd : BitVec 3
  pn : Bool
deriving DecidableEq, Repr

/-- A register source: a vector register or a scalar (R61, R63). -/
inductive Src where
  | v (n : BitVec 11)
  | s (n : BitVec 11)
deriving DecidableEq, Repr

/-- The B operand of a format F word: a register or the immediate IMM22 (R61, R75). -/
inductive SrcB where
  | v (n : BitVec 11)
  | s (n : BitVec 11)
  | imm (i : BitVec 22)
deriving DecidableEq, Repr

/-- The operands of a format F word (R61). Under U = 1 both A and B are scalars; an immediate leaves FN = 0 (R62). -/
structure FOp where
  guard : Guard
  uni : Bool
  fs : Bool
  x : BitVec 2
  d : BitVec 11
  a : Src
  b : SrcB
  c : BitVec 11
deriving DecidableEq, Repr

/-- The scope codes of R36. -/
inductive Scope where
  | group | team | cluster | device | system
deriving DecidableEq, Repr

/-- The ordering codes of R67. -/
inductive Ord where
  | plain | relaxed | acquire | release | acqRel | sc
deriving DecidableEq, Repr

/-- The access sizes of R67, in bytes. -/
inductive Size where
  | b1 | b2 | b4 | b8 | b16 | b32
deriving DecidableEq, Repr

/-- What a request from outside does (R192, R470): it reads bytes, writes them, or makes an atomic, a compare and swap or a
reduction on a word of `n` bytes. -/
inductive OutsideOp where
  | read (n : Nat)
  | write (bs : List Byte)
  | atom (aop : Nat) (signed : Bool) (n data : Nat)
  | cas (n cmp swap : Nat)
  | red (aop : Nat) (signed float : Bool) (n data : Nat)
deriving DecidableEq, Repr
/-- A request that a peer refuses, or that is lost as its port goes down (R471), which three numbers name: the `b`th
write-back of core `a`, line `b` of slice `a`'s store cache, part `c` of operation `b` of group `a`, or part `c` of the WAITGE
of fragment `b` of group `a`; or (with no number) the lines for which peers refuse every request from now on. -/
inductive RefusedOp where
  | wb | line | part | wait
  | lines (ls : List Nat)
deriving DecidableEq, Repr

/-- The operands of a format M word (R66). `tag` is bits [57:55]: AOP, HINT, TAG, COND or priority (R68). -/
structure MOp where
  guard : Guard
  uni : Bool
  fs : Bool
  x : BitVec 2
  tag : BitVec 3
  scope : Scope
  ord : Ord
  size : Size
  c : BitVec 11
  a : Src
  d : BitVec 11
deriving DecidableEq, Repr

/-- The pair opcodes of R71. -/
inductive PairOp where
  | nop | iadd | isub | imul | imin | imax | and | or | xor | shl | shr | sar | mov
  | fadd | fsub | fmul | fmin | fmax | hadd2 | hmul2 | hmin2 | hmax2
deriving DecidableEq, Repr

/-- One slot of a paired word (R70). -/
structure Slot where
  op : PairOp
  d : BitVec 11
  a : BitVec 11
  pm : BitVec 3
deriving DecidableEq, Repr

/-- A clause header (R52): `seta` and `setb` name a flag when present. -/
structure Header where
  yld : Bool
  seta : Option (BitVec 4)
  setb : Option (BitVec 4)
  waitmask : BitVec 12
  len : BitVec 4
deriving DecidableEq, Repr

/-- Bytes per lane of an access size (SizeBytes of R81). -/
def Size.bytes : Size → Nat
  | .b1 => 1 | .b2 => 2 | .b4 => 4 | .b8 => 8 | .b16 => 16 | .b32 => 32

/-- The 32-bit registers that the data operand of an access of this size takes (R69). -/
def Size.regs : Size → Nat
  | .b1 => 1 | .b2 => 1 | .b4 => 1 | .b8 => 2 | .b16 => 4 | .b32 => 8

/-- The scope's code (R36). -/
def Scope.code : Scope → BitVec 3
  | .group => 0 | .team => 1 | .cluster => 2 | .device => 3 | .system => 4
/-- The scope of a code; codes 5 to 7 name none (R36). -/
def Scope.ofCode (c : BitVec 3) : Option Scope :=
  if c = 0 then some .group else if c = 1 then some .team else if c = 2 then some .cluster
  else if c = 3 then some .device else if c = 4 then some .system else none
/-- The ordering's code (R67). -/
def Ord.code : Ord → BitVec 3
  | .plain => 0 | .relaxed => 1 | .acquire => 2 | .release => 3 | .acqRel => 4 | .sc => 5
/-- The ordering of a code; 6 and 7 name none (R67). -/
def Ord.ofCode (c : BitVec 3) : Option Ord :=
  if c = 0 then some .plain else if c = 1 then some .relaxed else if c = 2 then some .acquire
  else if c = 3 then some .release else if c = 4 then some .acqRel else if c = 5 then some .sc else none
/-- The size's code (R67). -/
def Size.code : Size → BitVec 3
  | .b1 => 0 | .b2 => 1 | .b4 => 2 | .b8 => 3 | .b16 => 4 | .b32 => 5
/-- The size of a code; 6 and 7 name none (R67). -/
def Size.ofCode (c : BitVec 3) : Option Size :=
  if c = 0 then some .b1 else if c = 1 then some .b2 else if c = 2 then some .b4
  else if c = 3 then some .b8 else if c = 4 then some .b16 else if c = 5 then some .b32 else none

/-- The pair opcode's code (R71). -/
def PairOp.code : PairOp → BitVec 6
  | .nop => 0 | .iadd => 1 | .isub => 2 | .imul => 3 | .imin => 4 | .imax => 5 | .and => 6 | .or => 7
  | .xor => 8 | .shl => 9 | .shr => 10 | .sar => 11 | .mov => 12 | .fadd => 13 | .fsub => 14 | .fmul => 15
  | .fmin => 16 | .fmax => 17 | .hadd2 => 18 | .hmul2 => 19 | .hmin2 => 20 | .hmax2 => 21
/-- Every pair opcode, in the order of its codes (R71). -/
def PairOp.all : List PairOp :=
  [.nop, .iadd, .isub, .imul, .imin, .imax, .and, .or, .xor, .shl, .shr, .sar, .mov,
   .fadd, .fsub, .fmul, .fmin, .fmax, .hadd2, .hmul2, .hmin2, .hmax2]
/-- The pair opcode of a code; 0x16 to 0x3F are reserved (R71). -/
def PairOp.ofCode (c : BitVec 6) : Option PairOp := PairOp.all.find? fun o => o.code == c
/-- Integer class of R71. -/
def PairOp.isInt : PairOp → Bool
  | .iadd | .isub | .imul | .imin | .imax | .and | .or | .xor | .shl | .shr | .sar | .mov => true
  | _ => false

/-- The guard that is always true: p7, not negated (R84). -/
def Guard.always : Guard := { prd := 7, pn := false }
/-- The index that a register source names. -/
def Src.idx : Src → BitVec 11
  | .v n => n
  | .s n => n
/-- A scalar source. -/
def Src.isS : Src → Bool
  | .v _ => false
  | .s _ => true
/-- A scalar B source. -/
def SrcB.isS : SrcB → Bool
  | .s _ => true
  | _ => false
/-- An immediate B source. -/
def SrcB.isImm : SrcB → Bool
  | .imm _ => true
  | _ => false
/-- The immediate, 0 where B is a register. -/
def SrcB.immVal : SrcB → BitVec 22
  | .imm i => i
  | _ => 0

end Sys2Proof
end

