-- ==== Sys2Proof/Syntax.lean ====
section
/-! DEFINITION. The instructions of the Viori Oatus: one constructor for each row of the table of operations and
events. A word carries its operand record; a step of an engine carries the references that say which unit it is of
(gk: group key 32*core + slot; fid: fragment; op, uid: number of an outstanding operation; tk: team key 8*core +
context; cl: cluster; m: management master; e: trigger entry 1024*die + index; q, k: host queue and packet). -/
namespace Sys2Proof

/-- One step of the machine: an instruction word, a clause header, or a step of an engine. -/
inductive Instr where
  /-- CLAUSE_HEADER (R54): A fragment reaches a clause header and, once every flag in WAITMASK is zero, begins issuing the clause's words. -/
  | clauseHeader (h : Header)
  /-- NOP (R126): Does nothing. -/
  | nop (o : FOp)
  /-- BRA (R128): Branches by a signed word offset from the next header, dividing the fragment by lane outcome. -/
  | bra (o : FOp)
  /-- BRX (R128): Branches to a per-lane vector or scalar target pair. -/
  | brx (o : FOp)
  /-- CALL (R128): Writes the link address and branches by an immediate offset. -/
  | call (o : FOp)
  /-- CALLX (R128): Writes the link address and branches to a register target. -/
  | callx (o : FOp)
  /-- RET (R128): Returns to a register target, as BRX. -/
  | ret (o : FOp)
  /-- EXIT (R128): Enabled lanes exit; the others continue at the next header. -/
  | exit (o : FOp)
  /-- REGANG (R98): The fragment waits at REGANG and releases its slice's youngest deferred entry. -/
  | regang (o : FOp)
  /-- REGANG_RESOLVE (R98): When every live fragment waits at a REGANG, fragments at the same word fuse and all proceed. -/
  | regangResolve (gk : Nat)
  /-- REGROUP (R104): A group asks to fuse with a team partner, or gets pD false at once. -/
  | regroup (o : FOp)
  /-- REGROUP_FUSE (R104): Two arrived groups are paired; the second group's live lanes move into the first, which then proceeds while the second retires. -/
  | regroupFuse (tk : Nat)
  /-- REGROUP_LONE_RELEASE (R105): An arrived group with no partner is released alone with pD false once all other live groups of its team are exited or waiting. -/
  | regroupLoneRelease (gk : Nat)
  /-- ELECT (R130): Writes true to pD in the lowest Enabled lane only. -/
  | elect (o : FOp)
  /-- CLAIM (R131): Grows the group's register budget from the team reserve and the core pool, or fails. -/
  | claim (o : FOp)
  /-- GIVEBACK (R131): Waits for the group's flags to drain, then shrinks the budget and returns the registers. -/
  | giveback (o : FOp)
  /-- BARARV (R132): Arrives at a team barrier. -/
  | bararv (o : FOp)
  /-- BARWT (R132): Waits until the barrier has passed. -/
  | barwt (o : FOp)
  /-- BARSYN (R132): Arrives at a barrier, then waits until it has passed. -/
  | barsyn (o : FOp)
  /-- BARRIER_WAIT_RETURN (R107): A fragment waiting at a barrier finds it passed and returns with an acquire at TEAM scope. -/
  | barrierWaitReturn (gk fid : Nat)
  /-- YIELD (R133): Makes the fragment ineligible at the next selection if another is eligible. -/
  | yield (o : FOp)
  /-- SLEEP (R133): Makes the fragment ineligible for n reference cycles. -/
  | sleep (o : FOp)
  /-- SLEEP_EXPIRE (R133): A SLEEP's cycle count runs out and the fragment becomes eligible again. -/
  | sleepExpire (gk fid : Nat)
  /-- WAITF (R133): Waits until every named flag is zero. -/
  | waitf (o : FOp)
  /-- RDSR (R134): Reads a special register into vector or scalar registers. -/
  | rdsr (o : FOp)
  /-- WRSR (R134): Writes a special register under its field and privilege rules. -/
  | wrsr (o : FOp)
  /-- TRAP (R135): Raises SWTRAP with the immediate in SR.EINFO. -/
  | trap (o : FOp)
  /-- TRET_RESUME (R119): Ends the handler and continues at SR.EPC; counts a retry in a task group. -/
  | tretResume (o : FOp)
  /-- TRET_SKIP (R119): Ends the handler and continues after SR.EPC; ends a task as skipped. -/
  | tretSkip (o : FOp)
  /-- TRET_KILL (R119): Ends the handler and the unit with KillUnit. -/
  | tretKill (o : FOp)
  /-- CAUSECLR (R135): Clears the named bits of SR.CAUSE. -/
  | causeclr (o : FOp)
  /-- TMASK (R135): Returns the old SR.TMASK and writes, sets or clears its writable bits. -/
  | tmask (o : FOp)
  /-- UIMASK (R135): Clears or sets SR.UIEN. -/
  | uimask (o : FOp)
  /-- URET (R113): Ends an active user interrupt and resumes the held fragments. -/
  | uret (o : FOp)
  /-- BKPT (R135): Raises BKPT, or halts the unit when a debugger has claimed the partition. -/
  | bkpt (o : FOp)
  /-- IADD (R203): Integer add, optionally saturating. -/
  | iadd (o : FOp)
  /-- ISUB (R203): Integer subtract, optionally saturating. -/
  | isub (o : FOp)
  /-- IADDX (R203): 32-bit add with carry in and carry out through predicates. -/
  | iaddx (o : FOp)
  /-- ISUBX (R203): 32-bit subtract with borrow through predicates. -/
  | isubx (o : FOp)
  /-- IMUL (R203): Low bits of an integer product. -/
  | imul (o : FOp)
  /-- IMULH (R203): High bits of an integer product. -/
  | imulh (o : FOp)
  /-- IMULW (R203): 64-bit product of two 32-bit operands. -/
  | imulw (o : FOp)
  /-- IMAD (R203): Integer multiply-add, wrapping. -/
  | imad (o : FOp)
  /-- IMADW (R203): Widening multiply-add into 64 bits. -/
  | imadw (o : FOp)
  /-- IMIN (R203): Integer minimum. -/
  | imin (o : FOp)
  /-- IMAX (R203): Integer maximum. -/
  | imax (o : FOp)
  /-- IABS (R203): Integer absolute value. -/
  | iabs (o : FOp)
  /-- ISAD (R203): Sum of absolute difference and addend. -/
  | isad (o : FOp)
  /-- IDOT4 (R204): Dot product of four 8-bit elements plus addend. -/
  | idot4 (o : FOp)
  /-- IDOT2 (R204): Dot product of two 16-bit elements plus addend. -/
  | idot2 (o : FOp)
  /-- AND (R203): Bitwise AND. -/
  | and (o : FOp)
  /-- OR (R203): Bitwise OR. -/
  | or (o : FOp)
  /-- XOR (R203): Bitwise XOR. -/
  | xor (o : FOp)
  /-- LUT3 (R205): Three-input bitwise lookup table using the destination's old value. -/
  | lut3 (o : FOp)
  /-- SHL (R203): Logical shift left. -/
  | shl (o : FOp)
  /-- SHR (R203): Logical shift right. -/
  | shr (o : FOp)
  /-- SAR (R203): Arithmetic shift right. -/
  | sar (o : FOp)
  /-- SHF (R203): Funnel shift of a 64-bit pair. -/
  | shf (o : FOp)
  /-- BFE (R205): Bit-field extract. -/
  | bfe (o : FOp)
  /-- BFI (R205): Bit-field insert. -/
  | bfi (o : FOp)
  /-- POPC (R203): Population count. -/
  | popc (o : FOp)
  /-- CLZ (R203): Count leading zeros. -/
  | clz (o : FOp)
  /-- CTZ (R203): Count trailing zeros. -/
  | ctz (o : FOp)
  /-- BREV (R203): Bit reverse. -/
  | brev (o : FOp)
  /-- BSEL (R205): Byte select from A and the old destination. -/
  | bsel (o : FOp)
  /-- ICMP (R206): Integer compare into a predicate, with optional combine. -/
  | icmp (o : FOp)
  /-- SEL (R206): Selects A or B by a predicate. -/
  | sel (o : FOp)
  /-- MOV (R207): Register move. -/
  | mov (o : FOp)
  /-- MOVI (R207): Writes a sign-extended immediate. -/
  | movi (o : FOp)
  /-- MOVHI (R207): Writes an immediate into bits [31:10], keeping the low bits. -/
  | movhi (o : FOp)
  /-- PLOP (R207): Predicate logic by truth table. -/
  | plop (o : FOp)
  /-- P2S (R207): Packs a predicate into three scalars, possibly the activity mask. -/
  | p2s (o : FOp)
  /-- S2P (R207): Unpacks scalar bits into a predicate. -/
  | s2p (o : FOp)
  /-- FADD (R211): FP32 add. -/
  | fadd (o : FOp)
  /-- FSUB (R211): FP32 subtract. -/
  | fsub (o : FOp)
  /-- FMUL (R211): FP32 multiply. -/
  | fmul (o : FOp)
  /-- FFMA (R211): FP32 fused multiply-add. -/
  | ffma (o : FOp)
  /-- FMIN (R212): FP32 minimum. -/
  | fmin (o : FOp)
  /-- FMAX (R212): FP32 maximum. -/
  | fmax (o : FOp)
  /-- FCMP (R213): FP32 compare into a predicate. -/
  | fcmp (o : FOp)
  /-- FRND (R214): Rounds FP32 to an integral value. -/
  | frnd (o : FOp)
  /-- FCLASS (R214): Classifies an FP32 value into a mask. -/
  | fclass (o : FOp)
  /-- FCPYS (R214): Copies a sign onto a magnitude. -/
  | fcpys (o : FOp)
  /-- FSCALE (R214): Scales FP32 by a power of two. -/
  | fscale (o : FOp)
  /-- HADD2 (R211): Packed FP16 or BF16 add. -/
  | hadd2 (o : FOp)
  /-- HSUB2 (R211): Packed subtract. -/
  | hsub2 (o : FOp)
  /-- HMUL2 (R211): Packed multiply. -/
  | hmul2 (o : FOp)
  /-- HFMA2 (R211): Packed fused multiply-add. -/
  | hfma2 (o : FOp)
  /-- HMIN2 (R212): Packed minimum. -/
  | hmin2 (o : FOp)
  /-- HMAX2 (R212): Packed maximum. -/
  | hmax2 (o : FOp)
  /-- HCMP2 (R213): Packed compare into two predicates. -/
  | hcmp2 (o : FOp)
  /-- DADD (R211): FP64 add. -/
  | dadd (o : FOp)
  /-- DSUB (R211): FP64 subtract. -/
  | dsub (o : FOp)
  /-- DMUL (R211): FP64 multiply. -/
  | dmul (o : FOp)
  /-- DFMA (R211): FP64 fused multiply-add. -/
  | dfma (o : FOp)
  /-- DMIN (R212): FP64 minimum. -/
  | dmin (o : FOp)
  /-- DMAX (R212): FP64 maximum. -/
  | dmax (o : FOp)
  /-- DCMP (R213): FP64 compare into a predicate. -/
  | dcmp (o : FOp)
  /-- LPERM (R218): Lane permute by index, rotation, reversal or XOR within segments. -/
  | lperm (o : FOp)
  /-- PQRY (R219): Queries a predicate across Enabled lanes. -/
  | pqry (o : FOp)
  /-- PEER (R220): Finds the lowest lane with an equal value and the count of such lanes. -/
  | peer (o : FOp)
  /-- FOLD (R221): Reduces values across each segment's Enabled lanes. -/
  | fold (o : FOp)
  /-- SCAN (R221): Prefix scan across each segment's Enabled lanes. -/
  | scan (o : FOp)
  /-- COMPACT (R222): Packs the Enabled lanes' values into the lowest member lanes. -/
  | compact (o : FOp)
  /-- BCAST (R223): Broadcasts one lane's value to every Enabled lane. -/
  | bcast (o : FOp)
  /-- PAIRED_WORD (R224): Two pair-slot operations executed together on both vector pipes. -/
  | pairedWord (s0 s1 : Slot)
  /-- RCP (R244): Reciprocal. -/
  | rcp (o : FOp)
  /-- RSQ (R244): Reciprocal square root. -/
  | rsq (o : FOp)
  /-- SQRT (R244): Square root. -/
  | sqrt (o : FOp)
  /-- EXP2 (R244): Base-2 exponential. -/
  | exp2 (o : FOp)
  /-- LOG2 (R244): Base-2 logarithm. -/
  | log2 (o : FOp)
  /-- SIN (R244): Sine. -/
  | sin (o : FOp)
  /-- COS (R244): Cosine. -/
  | cos (o : FOp)
  /-- TANH (R244): Hyperbolic tangent. -/
  | tanh (o : FOp)
  /-- ERF (R244): Error function. -/
  | erf (o : FOp)
  /-- F2I (R249): Float to integer, saturating. -/
  | f2i (o : FOp)
  /-- I2F (R250): Integer to float. -/
  | i2f (o : FOp)
  /-- F2F (R251): Float format conversion. -/
  | f2f (o : FOp)
  /-- CVPK2 (R252): Converts two FP32 values into packed 16-bit halves. -/
  | cvpk2 (o : FOp)
  /-- CVPK4 (R252): Converts four values into packed narrow elements. -/
  | cvpk4 (o : FOp)
  /-- UNPK (R253): Unpacks packed elements into wider formats. -/
  | unpk (o : FOp)
  /-- BFPQ (R254): Quantizes each 32-lane block to block floating point. -/
  | bfpq (o : FOp)
  /-- BFPX (R255): Expands a block floating-point element to FP32. -/
  | bfpx (o : FOp)
  /-- E2MXD (R256): Decodes eight E2M1X elements to FP16 using a side list. -/
  | e2mxd (o : FOp)
  /-- FC_WORD_COMPLETE (R240): A function or conversion word finishes its latency, writes its destinations and flags, and its completion flag loses 1. -/
  | fcWordComplete (gk op : Nat) (lanes : Lanes)
  /-- MMAH (R278): Sends an FP16/BF16 matrix multiply-accumulate request. -/
  | mmah (o : FOp)
  /-- MMAQ8 (R278): Sends an FP8 matrix pass request. -/
  | mmaq8 (o : FOp)
  /-- MMAQ6 (R278): Sends an FP6 matrix pass request. -/
  | mmaq6 (o : FOp)
  /-- MMAQ4 (R278): Sends an FP4 matrix pass request. -/
  | mmaq4 (o : FOp)
  /-- MMAI8 (R278): Sends an INT8 matrix pass request. -/
  | mmai8 (o : FOp)
  /-- MMABFP (R278): Sends a block floating-point matrix pass request. -/
  | mmabfp (o : FOp)
  /-- MSCA (R279): Sends a request that adds a scaled partial sum into an accumulator. -/
  | msca (o : FOp)
  /-- MACCLD (R280): Sends a request that loads an accumulator slab from registers. -/
  | maccld (o : FOp)
  /-- MACCLD_SCRATCH (R280): Sends a request that loads a whole accumulator from a scratchpad tile. -/
  | maccldScratch (o : FOp)
  /-- MACCST (R280): Sends a request that copies an accumulator slab to registers. -/
  | maccst (o : FOp)
  /-- MACCST_SCRATCH (R280): Sends a request that writes an accumulator to scratchpad. -/
  | maccstScratch (o : FOp)
  /-- MACCZ (R280): Sends a request that zeroes the masked accumulators. -/
  | maccz (o : FOp)
  /-- MFENCE (R281): Waits for named flags and vector writes, then sets FENCED. -/
  | mfence (o : FOp)
  /-- MWAIT (R282): Waits for the covered matrix requests and reports their marks. -/
  | mwait (o : FOp)
  /-- MWAIT_COMPLETE (R282): Every covered request has retired; MWAIT writes its report, records causes and clears its flag. -/
  | mwaitComplete (gk op : Nat)
  /-- MXSTAT (R283): Reads matrix engine status into a scalar. -/
  | mxstat (o : FOp)
  /-- MATRIX_REQUEST_ACCEPT (R262): A matrix request takes a reservation-table entry, claiming the array if free, and an MMA's flag loses 1. -/
  | matrixRequestAccept (cl rq : Nat)
  /-- MATRIX_REQUEST_START (R264): The arbiter starts one ready request on its array. -/
  | matrixRequestStart (core : Nat)
  /-- MATRIX_REQUEST_RETIRE (R265): A request retires after its occupancy, writing its accumulators and freeing its entry. -/
  | matrixRequestRetire (cl rq : Nat)
  /-- RELAY_TOKEN_MOVE (R274): A free token advances one ring position every 12 cycles and may be captured there. -/
  | relayTokenMove (die tok : Nat)
  /-- TOKEN_RELEASE_PASSES (R274): An array releases its token after its 1024th pass since capture. -/
  | tokenReleasePasses (core : Nat)
  /-- TOKEN_RELEASE_IDLE (R274): An array releases its token after 64 cycles without an accepted pass. -/
  | tokenReleaseIdle (core : Nat)
  /-- LDL (R151): Loads from core scratchpad. -/
  | ldl (o : MOp)
  /-- STL (R151): Stores to core scratchpad and sets the rotation tag. -/
  | stl (o : MOp)
  /-- LDC (R151): Loads from cluster scratchpad. -/
  | ldc (o : MOp)
  /-- STC (R151): Stores to cluster scratchpad. -/
  | stc (o : MOp)
  /-- ATOML (R152): Atomic on core scratchpad. -/
  | atoml (o : MOp)
  /-- ATOMC (R152): Atomic on cluster scratchpad. -/
  | atomc (o : MOp)
  /-- CASL (R153): Compare-and-swap on scratchpad. -/
  | casl (o : MOp)
  /-- WAITA (R154): Waits until each lane's scratchpad word meets its condition. -/
  | waita (o : MOp)
  /-- WAITA_SATISFIED (R155): A re-read after a write to the watched granule satisfies the last waiting lane; WAITA writes D and proceeds. -/
  | waitaSatisfied (gk fid : Nat)
  /-- WAITA_REPOLL (R155): A lane without a watch is read again every 256 cycles. -/
  | waitaRepoll (gk fid : Nat)
  /-- LOCAL_ACCESS_COMPLETE (R151): A local load or store word completes at its banks and its flag loses 1. -/
  | localAccessComplete (gk op : Nat) (parts : List Nat) (lanes : Lanes)
  /-- LDG (R175): Loads from global space, L1- or home-served. -/
  | ldg (o : MOp)
  /-- STG (R176): Stores to global space. -/
  | stg (o : MOp)
  /-- LDS (R175): Loads from store space. -/
  | lds (o : MOp)
  /-- STS (R176): Stores to store space. -/
  | sts (o : MOp)
  /-- ATOMG (R177): Atomic at the line's home bank unit. -/
  | atomg (o : MOp)
  /-- REDG (R178): Reduction applied at the home bank unit, no return. -/
  | redg (o : MOp)
  /-- CASG (R177): Compare-and-swap at the home bank unit. -/
  | casg (o : MOp)
  /-- FENCE (R179): Orders the group's memory accesses without an access. -/
  | fence (o : MOp)
  /-- WAITGE (R180): Waits until each lane's word is at least its comparand. -/
  | waitge (o : MOp)
  /-- WAITGE_SATISFIED (R180): A re-read after a write to the watched line satisfies the last waiting lane; WAITGE writes D and proceeds. -/
  | waitgeSatisfied (gk fid : Nat)
  /-- WAITGE_REPOLL (R180): A lane without a watch is read again every 1024 cycles. -/
  | waitgeRepoll (gk fid : Nat)
  /-- PREF (R181): Prefetches lines into L1 or the store cache. -/
  | pref (o : MOp)
  /-- WBL1 (R182): Writes back the named L1 lines. -/
  | wbl1 (o : MOp)
  /-- WBL1_ALL (R182): Writes back every L1 line of the ASID. -/
  | wbl1All (o : MOp)
  /-- INVL1 (R182): Writes back and invalidates the named L1 lines. -/
  | invl1 (o : MOp)
  /-- INVL1_ALL (R182): Writes back and invalidates every L1 line of the ASID. -/
  | invl1All (o : MOp)
  /-- GLOBAL_ACCESS_COMPLETE (R175): A global or store-space load, store, atomic or write-back word completes and its flag loses 1. -/
  | globalAccessComplete (gk op : Nat) (lanes : Lanes)
  /-- HOME_ACCESS (R326): A request reaches its line's home slice and is served in arrival order, testing watches, contracts and counters. -/
  | homeAccess (gk op part : Nat)
  /-- WRITE_BACK_ARRIVE (R330): A write-back enters a slice's buffers and is applied to its line as one application. -/
  | writeBackArrive (core k : Nat)
  /-- MISS_FILL (R329): A fill from the line's tier completes a miss-table entry and releases its waiters. -/
  | missFill (slice line : Nat)
  /-- PIN (R342): Requests a residency contract over a global range. -/
  | pin (o : MOp)
  /-- UNPIN (R345): Ends the tenant's contract at a base. -/
  | unpin (o : MOp)
  /-- KVINS (R352): Inserts a 4 KiB block under a key into a key-value reserve. -/
  | kvins (o : MOp)
  /-- KVINS_SWITCH (R352): After the fill, the block takes the key in reserve order and KVINS completes. -/
  | kvinsSwitch (gk op : Nat)
  /-- KVLOOK (R354): Looks up a key in a reserve. -/
  | kvlook (o : MOp)
  /-- KVDROP (R354): Frees the block holding a key. -/
  | kvdrop (o : MOp)
  /-- XPOSE (R355): Transposes a store-space tile at a home slice. -/
  | xpose (o : MOp)
  /-- STQRY (R357): Reports a snapshot of the tenant's store state. -/
  | stqry (o : MOp)
  /-- STORE_INSTR_COMPLETE (R340): A store instruction's result reaches its scalars and its flag loses 1. -/
  | storeInstrComplete (gk op : Nat)
  /-- LAYER_ACTIVE (R337): A LAYERPWR write requests a layer to become ACTIVE. -/
  | layerActive (m die layer : Nat)
  /-- LAYER_RETENTION (R337): A LAYERPWR write puts a layer into RETENTION. -/
  | layerRetention (m die layer : Nat)
  /-- LAYER_OFF (R338): A LAYERPWR write begins the ordered drain that turns a layer OFF. -/
  | layerOff (m die layer : Nat)
  /-- LAYER_TRANSITION_DONE (R337): A layer transition's time elapses and the layer reaches its target state. -/
  | layerTransitionDone (die layer : Nat)
  /-- IREGION_WRITE (R327): A write to an interleave region register, refused if it breaks the rules. -/
  | iregionWrite (m n : Nat) (val : BitVec 128)
  /-- ARMAC (R387): Arms a trigger entry from an arm block. -/
  | armac (o : FOp)
  /-- DISARM (R388): Reports and frees a trigger entry. -/
  | disarm (o : FOp)
  /-- ACRD (R388): Reports a trigger entry without changing it. -/
  | acrd (o : FOp)
  /-- TASKQ (R389): Pushes a task record into a task queue. -/
  | taskq (o : FOp)
  /-- TRIGGER_INSTR_COMPLETE (R387): A trigger instruction's result reaches its scalars and its flag loses 1. -/
  | triggerInstrComplete (gk op : Nat)
  /-- COUNT_SEND (R370): A slice sends its unsent byte count when it reaches 256 or 128 cycles after its first byte. -/
  | countSend (slice entry : Nat)
  /-- COUNT_ARRIVE (R370): A sent count is applied to the entry at its counter-home slice. -/
  | countArrive (k : Nat)
  /-- BARRIER_ADD_ACTION (R374): A fired entry adds its addend to the barrier word. -/
  | barrierAddAction (e : Nat)
  /-- TASK_PUSH_ACTION (R375): A fired entry pushes its task record, or stays FIRING while the queue is full. -/
  | taskPushAction (e : Nat)
  /-- DEFERRED_PUSH (R375): A FIRING entry pushes its record once a queue slot frees. -/
  | deferredPush (e : Nat)
  /-- USER_INTERRUPT_ACTION (R376): A fired entry raises a user interrupt in its arming group. -/
  | userInterruptAction (e : Nat)
  /-- TASK_DISPATCH (R382): A dispatcher checks and places one head task record on a core as a task group. -/
  | taskDispatch (die : Nat)
  /-- LEAP (R416): Lanes depart to an immediate target with an explicit live set. -/
  | leap (o : FOp)
  /-- LEAP_REG (R416): Lanes depart to a register target with an explicit live set. -/
  | leapReg (o : FOp)
  /-- SEND (R418): Carries up to 256 bytes into receiver rings of consumer cores. -/
  | send (o : FOp)
  /-- SEND_DELIVER (R418): A consumer's leap unit accepts or refuses a SEND message once its ring has room. -/
  | sendDeliver (gk op core : Nat)
  /-- SEGREP (R420): Adds a core of the grid to a segment's replicas. -/
  | segrep (o : FOp)
  /-- DEPARTURE (R402): A fragment due to depart, its flags drained, releases, reserves record space and ships its leap record. -/
  | departure (gk fid : Nat)
  /-- RECORD_FORWARD (R408): A record reaching a core that no longer holds its segment is sent to another replica. -/
  | recordForward (core k : Nat)
  /-- ARRIVAL_ADMIT (R409): The head record of an arrival queue is admitted as a new group. -/
  | arrivalAdmit (core : Nat)
  /-- LAUNCH_RECORD (R395): The front end places the next group's launch record once its queue has a slot. -/
  | launchRecord (grid : Nat)
  /-- DEPTH_HINT (R407): Every 256 cycles each leap unit sends its depth to every leap unit of the grid. -/
  | depthHint (core : Nat)
  /-- MAP_UPDATE (R407): A leap unit updates its copy of the segment map after a change. -/
  | mapUpdate (core : Nat)
  /-- REPIN_LOAD (R420): An emptied core loads its new segment and joins its list. -/
  | repinLoad (core : Nat)
  /-- RING_NOTIFY (R290): The copy engine reads PROD after a write to its granule and decides what to take. -/
  | ringNotify (tk : Nat)
  /-- COPY_TAKE (R291): The engine takes one ring entry, makes take-time checks and advances CONS. -/
  | copyTake (tk : Nat)
  /-- COPY (R301): Copies rows between spaces, placing tagged scratchpad tiles. -/
  | copy (cl uid : Nat)
  /-- MCAST (R301): Copies rows into several parts of the cluster scratchpad. -/
  | mcast (cl uid : Nat)
  /-- WINDOW (R302): Gathers one convolution tap with padding. -/
  | window (cl uid : Nat)
  /-- SPX (R303): Expands 2:4 sparse rows to dense. -/
  | spx (cl uid : Nat)
  /-- GATHER (R304): Gathers rows by index. -/
  | gather (cl uid : Nat)
  /-- SCATTER (R304): Scatters rows by index. -/
  | scatter (cl uid : Nat)
  /-- FILL (R305): Fills rows with an 8-byte pattern. -/
  | fill (cl uid : Nat)
  /-- XPOSEQ (R306): Hands a store-space transpose to a slice unit. -/
  | xposeq (cl uid : Nat)
  /-- COPY_FENCE (R307): After earlier commands finish, performs completion actions. -/
  | copyFence (cl uid : Nat)
  /-- NOTIFY (R307): Performs completion actions at take. -/
  | notify (cl uid : Nat)
  /-- COPY_DELIVERED (R309): A command's payload is applied; its counter add, value write and user interrupt run. -/
  | copyDelivered (cl uid : Nat)
  /-- WHOLE_APPLY (R314): When every share of a WHOLE payload has arrived, all shares are applied together. -/
  | wholeApply (cl uid : Nat)
  /-- USER_INTERRUPT_DELIVER (R110): A pending interrupt is delivered at a fragment's boundary and the fragment jumps to SR.UIVEC. -/
  | userInterruptDeliver (gk fid : Nat)
  /-- DEFERRED_TRAP_DELIVER (R116): A recorded deferrable cause is delivered at a boundary to the handler. -/
  | deferredTrapDeliver (gk fid : Nat)
  /-- KILL_UNIT_DRAINED (R118): The killed unit's operations have drained; the error record is written and resources freed. -/
  | killUnitDrained (u : Nat)
  /-- WAIT_TIMEOUT (R451): A wait outlasts its partition's wait limit and TIMEOUT is recorded. -/
  | waitTimeout (gk fid : Nat)
  /-- SWAP_OUT (R108): A group waiting past SR.SWAPT with flags zero is written to the swap area and leaves its slot. -/
  | swapOut (gk : Nat)
  /-- SWAP_IN (R108): A wake event or interrupt re-admits a swapped group once room exists. -/
  | swapIn (core uid : Nat)
  /-- GROUP_RETIRE (R129): A group with no member lanes and all flags zero retires, ending a task with status and successor writes. -/
  | groupRetire (gk : Nat)
  /-- TEAM_COMPLETE (R293): All groups retired and all ring commands finished; the team completes and frees its resources. -/
  | teamComplete (tk : Nat)
  /-- GRID_COMPLETE (R167): The last team of a grid completes, with a SYSTEM release and the LAUNCH completion word. -/
  | gridComplete (grid : Nat)
  /-- PREEMPT_CAPTURE (R120): A unit being pre-empted has drained and its context image is written and its resources freed. -/
  | preemptCapture (u : Nat)
  /-- OWNER_CLAIM (R431): Makes the writer owner when none exists. -/
  | ownerClaim (m : Nat)
  /-- OWNER_OFFER (R431): The owner offers ownership to another master. -/
  | ownerOffer (m target : Nat)
  /-- OWNER_ACCEPT (R431): The offered master takes ownership. -/
  | ownerAccept (m : Nat)
  /-- OWNER_RELEASE (R431): The owner gives up ownership. -/
  | ownerRelease (m : Nat)
  /-- OWNER_RENEW (R431): The owner restarts its lease. -/
  | ownerRenew (m : Nat)
  /-- LEASE_EXPIRE (R431): The owner's lease runs out; ownership is cleared and a kind 8 record written. -/
  | leaseExpire
  /-- REGISTER_WRITE (R432): A write to a management register with no behaviour of its own, discarded from a non-owner. -/
  | registerWrite (m addr : Nat) (val : W64)
  /-- TCFG_WRITE (R436): Binds, rebinds or unbinds a tenant, or is refused. -/
  | tcfgWrite (m n : Nat) (val : BitVec 256)
  /-- PARTCFG_WRITE (R439): Configures, forms or dissolves a partition, or is refused with a code. -/
  | partcfgWrite (m n : Nat) (val : BitVec 128)
  /-- QCFG_WRITE (R442): Configures a host queue; setting VALID resets its indices. -/
  | qcfgWrite (m n : Nat) (val : BitVec 256)
  /-- QTAIL (R442): A doorbell write publishes packets or is discarded. -/
  | qtail (q : Nat) (val : W32)
  /-- PACKET_TAKE (R443): Each front-end cycle takes at most one published packet by weighted class rotation. -/
  | packetTake
  /-- LAUNCH (R448): Checks and accepts a grid into its partition's admission list. -/
  | launch (q k : Nat)
  /-- RESUME (R450): A LAUNCH with RESUME re-enters parked units from their images. -/
  | resume (q k : Nat)
  /-- TEAM_ADMIT (R448): The first grid whose next team fits admits that team onto a core. -/
  | teamAdmit (part : Nat)
  /-- TASKBIND (R447): Binds a task queue to the tenant of the host queue. -/
  | taskbind (q k : Nat)
  /-- TASKBIND_UNBIND (R446): Unbinds a task queue, or is refused. -/
  | taskbindUnbind (q k : Nat)
  /-- ARM (R447): Arms a trigger entry from a host packet. -/
  | arm (q k : Nat)
  /-- COPY_PACKET (R447): Moves bytes at SYSTEM scope, then adds to a counter. -/
  | copyPacket (q k : Nat)
  /-- WAIT (R447): Holds later packets of the queue until a word reaches a value. -/
  | wait (q k : Nat)
  /-- WAIT_SATISFIED (R447): A write brings the waited word to its value and the WAIT completes. -/
  | waitSatisfied (q k : Nat)
  /-- WAIT_LIMIT (R447): A WAIT's LIMITUS elapses and it completes with STATUS 4. -/
  | waitLimit (q k : Nat)
  /-- SIGNAL (R447): Writes or adds at an address and sends an MSI-X message. -/
  | signal (q k : Nat)
  /-- PREEMPT_REQUEUE (R449): Captures units, keeps their images and re-enters them. -/
  | preemptRequeue (q k : Nat)
  /-- PREEMPT_PARK (R449): Captures units and parks them until a RESUME. -/
  | preemptPark (q k : Nat)
  /-- PREEMPT_DISCARD (R449): Ends units as by KillUnit without images. -/
  | preemptDiscard (q k : Nat)
  /-- PAGE_WALK (R454): A TLB miss walks the page tables, returning a translation or a fault. -/
  | pageWalk (core asid vpage : Nat)
  /-- TLBINV_ALL (R457): Starts an invalidation of every ASID's translations. -/
  | tlbinvAll (m : Nat)
  /-- TLBINV_ASID (R457): Starts an invalidation of one ASID. -/
  | tlbinvAsid (m asid : Nat)
  /-- TLBINV_RANGE (R457): Starts an invalidation of one ASID's page range. -/
  | tlbinvRange (m asid va pages : Nat)
  /-- TLBINV_DONE (R457): The invalidation has dropped translations, drained accesses and flushed L1 lines. -/
  | tlbinvDone
  /-- MIGCMD (R459): Starts a page migration in a free slot, or refuses it. -/
  | migcmd (m : Nat) (val : BitVec 384)
  /-- MIGRATION_COPY_PASS (R460): A migration pass copies the lines marked since the last pass. -/
  | migrationCopyPass (slot : Nat)
  /-- MIGRATION_FINAL_PASS (R460): Holds accesses, rewrites the leaf, invalidates, recalls and moves state to DST, then releases. -/
  | migrationFinalPass (slot : Nat)
  /-- MIGRATION_UNMAPPED (R462): A page unmapped mid-migration ends the migration with code 5. -/
  | migrationUnmapped (slot : Nat)
  /-- BIASFLIP_TO_HOST (R467): Starts a flip of pages to host bias. -/
  | biasflipToHost (m : Nat) (val : W64)
  /-- BIASFLIP_TO_DEVICE (R467): Starts a flip to device bias, back-invalidating host copies. -/
  | biasflipToDevice (m : Nat) (val : W64)
  /-- BIASFLIP_DONE (R467): A bias flip finishes and held accesses proceed. -/
  | biasflipDone
  /-- CXL_MEM_ACCESS (R192): A host CXL.mem access is applied at the line's home slice. -/
  | cxlMemAccess (addr : Nat) (data : Option (List Byte))
  /-- RINK_REQUEST (R470): A peer request arrives, is checked against its export aperture and applied or refused. -/
  | rinkRequest (port off key : Nat) (op : OutsideOp)
  /-- RINK_REFUSAL (R471): A refused or lost peer request is treated as an uncorrectable error at the requester. -/
  | rinkRefusal (r : RefusedOp) (a b c : Nat)
  /-- FLIT_REPLAY (R468): A flit failing its CRC is replayed; 16 failures take the port down. -/
  | flitReplay (port : Nat)
  /-- LINK_TRAIN (R464): The host link trains, possibly down to fewer lanes or lower speed. -/
  | linkTrain (lanes speed : Nat)
  /-- PACKAGE_RESET (R473): The boot ROM verifies the firmware slot and runs it or enters recovery. -/
  | packageReset
  /-- RECOVERGO (R474): Verifies the recovery image and writes it and resets, or sets CODE 5. -/
  | recovergo
  /-- FWUPDATE (R474): Starts verification and staging of a firmware image from HBM. -/
  | fwupdate (m : Nat) (val : BitVec 128)
  /-- FWUPDATE_DONE (R474): The firmware update finishes writing the slot or fails. -/
  | fwupdateDone (ok : Bool)
  /-- ATTREQ (R476): Starts a signed attestation report with a nonce. -/
  | attreq (m : Nat) (val : BitVec 320)
  /-- ATTREQ_DONE (R476): The attestation report is complete in the ATTREP window. -/
  | attreqDone
  /-- MEASEXT (R475): The owner extends MEAS4 to MEAS7 with a digest. -/
  | measext (m : Nat) (val : BitVec 576)
  /-- SCRUB (R478): Patrol scrubbing reads and corrects words, logging uncorrectable ones in DEVLOG. -/
  | scrub (addr : Nat)
  /-- BOND_CHECK (R480): Every 1 ms canary bonds are measured and drift is flagged. -/
  | bondCheck (slice layer : Nat) (drift : Bool)
  /-- BONDREPAIR (R481): Starts remapping a drifted region's bonds, or is discarded. -/
  | bondrepair (m : Nat) (val : W32)
  /-- BONDREPAIR_DONE (R481): The repair finishes and sets REPAIR 2 or 3. -/
  | bondrepairDone (ok : Bool)
  /-- DEBUG_CLAIM (R482): Claims a partition for the debugger. -/
  | debugClaim (m part : Nat)
  /-- DEBUG_RELEASE (R482): Releases the debugger's claim. -/
  | debugRelease (m : Nat)
  /-- DEBUG_RESUME (R482): Resumes a unit halted at BKPT. -/
  | debugResume (m gridid unit : Nat)
  /-- DEBUG_RELEASE_TO_HANDLER (R433): Releases a halted unit to its handler with BKPT delivered. -/
  | debugReleaseToHandler (m gridid unit : Nat)
  /-- DBGRD (R483): Starts a debug read of store memory. -/
  | dbgrd (m : Nat) (val : W64)
  /-- DBGRD_DONE (R483): The debug read returns DBGDATA and its status. -/
  | dbgrdDone
  /-- CLOCK_STEP_DOWN (R485): Power above PWRLIMIT or a hot sensor steps a die's clock down. -/
  | clockStepDown (die : Nat)
  /-- CLOCK_STEP_UP (R485): After 10 ms below both limits a die steps up. -/
  | clockStepUp (die : Nat)
  /-- THERMAL_TRIP (R485): A sensor above 105 °C holds its die at 1.5 GHz and dissolves reservations there. -/
  | thermalTrip (die : Nat)
  /-- TRIP_HOLD_EXPIRE (R485): The 100 ms trip hold ends. -/
  | tripHoldExpire (die : Nat)
  /-- THERMAL_CRITICAL (R485): A sensor above 115 °C halts every partition and removes power. -/
  | thermalCritical (die : Nat)
  /-- MXSTAT_COMPLETE (R283): Four cycles after issue MXSTAT samples the status, writes sD and its flag loses 1. -/
  | mxstatComplete (gk op : Nat)
  /-- SEGREP_COMPLETE (R420): The SEGREP is applied at the segment map in map order, its status is written and its flag loses 1. -/
  | segrepComplete (gk op : Nat)
  /-- CXL_CACHE_SNOOP (R192): A host snoop over CXL.cache arrives for a host-tier line held in the store's cache partition and is resolved at its home slice. -/
  | cxlCacheSnoop (addr : Nat) (taken : Option (List Byte))
  /-- POWER_FAILURE (R474): Package power fails, interrupting any operation such as a firmware slot write. -/
  | powerFailure
  /-- COPY_PACKET_DONE (R447): A host COPY packet's bytes have all been applied, its counter add is made and its completion word is written. -/
  | copyPacketDone (q k : Nat)
deriving DecidableEq, Repr

end Sys2Proof
end

