-- ==== Sys2Proof/Machine/Legal.lean ====
section
/-! DEFINITION. Static legality of the words (R52-R78 and the entries' tables): what each field of each word may
hold. The conditions that depend on the state (R55, R56, R80, R132, R135, R268-R271) are checked at issue. -/
namespace Sys2Proof

/-- What an entry lets a register field of a format F word name. -/
inductive Fld where
  /-- the field is zero -/
  | none
  /-- a register of `k` 32-bit registers, vector or scalar as SA, SB and U say (R64) -/
  | reg (k : Nat)
  /-- a vector register of `k` 32-bit registers -/
  | vec (k : Nat)
  /-- a scalar, a multiple of `m`, at most `max` -/
  | sca (m max : Nat)
  /-- a vector register, a multiple of 8, or a descriptor pair of scalars (R276) -/
  | vecDesc
  /-- a predicate of at most `max`; under U = 1 a scalar (R206), which a bound below 7 bounds too (R208, HCMP2) -/
  | pred (max : Nat)
  /-- an accumulator (R63) -/
  | acc
  /-- a barrier number (R126) -/
  | bar
  /-- a special register number (R111) -/
  | sr
  /-- a control field that names no register (CV, R247) -/
  | raw
deriving DecidableEq, Repr

/-- What an entry lets the C/FN field hold. -/
inductive CFld where
  /-- FN, with ones in the bits that the entry defines -/
  | fn (mask : Nat)
  /-- the third source, `k` 32-bit registers -/
  | reg (k : Nat)
  /-- a scalar source -/
  | sca (m max : Nat)
deriving DecidableEq, Repr

/-- The entry of a format F word: its fields and permissions (R62, R77). `imm` is none where IB = 1 is not allowed;
`immMust` where it is required. `extra` holds the entry's further conditions. -/
structure Shape where
  d : Fld := .none
  a : Fld := .none
  b : Fld := .none
  c : CFld := .fn 0
  imm : Option Nat := none
  immMust : Bool := false
  x : List Nat := [0]
  u : Bool := false
  guarded : Bool := true
  longLat : Bool := false
  extra : Bool := true
deriving DecidableEq, Repr

/-- Is a vector or scalar operand of `k` registers named at `n` aligned and, for a scalar, in range (R63, R64)? -/
def operandOk (scalar : Bool) (k n : Nat) : Bool := n % k == 0 && (!scalar || n + k ≤ 128)

/-- R62-R64: does the field `n`, read as a scalar when `s`, meet its entry? -/
def Fld.ok (f : Fld) (uni s : Bool) (n : Nat) : Bool :=
  match f with
  | .none => n == 0 && s == uni
  | .reg k => operandOk s k n
  | .vec k => !s && operandOk false k n
  | .sca m max => s && n % m == 0 && n ≤ max
  | .vecDesc => if s then operandOk true 2 n else n % 8 == 0
  | .pred max => if uni && max == 7 then n ≤ 127 else (uni || !s) && n ≤ max
  | .acc => !s && n ≤ 15
  | .bar => !s && n ≤ 15
  | .sr => !s && n ≤ 26
  | .raw => !s

/-- The D field has no scalar bit: it names scalars under U = 1 and where its entry says so. -/
def Fld.okD (f : Fld) (uni : Bool) (n : Nat) : Bool :=
  match f with
  | .none => n == 0
  | .sca m max => n % m == 0 && n ≤ max
  | .reg k => operandOk uni k n
  | f => f.ok uni uni n

/-- R62-R64: does the C/FN field meet its entry? -/
def CFld.ok (f : CFld) (uni : Bool) (n : Nat) : Bool :=
  match f with
  | .fn mask => n &&& mask == n
  | .reg k => operandOk uni k n
  | .sca m max => n % m == 0 && n ≤ max

/-- The vector registers that a field names, as first index and count; checked against the budget (R63). -/
def Fld.refs (f : Fld) (s : Bool) (n : Nat) : List (Nat × Nat) :=
  if s then [] else
  match f with
  | .reg k => [(n, k)]
  | .vec k => [(n, k)]
  | .vecDesc => [(n, 8)]
  | _ => []

/-- The vector registers that the C field names. -/
def CFld.refs (f : CFld) (uni : Bool) (n : Nat) : List (Nat × Nat) :=
  match f with
  | .reg k => if uni then [] else [(n, k)]
  | _ => []

/-- R62, R78: the whole static check of a format F word. -/
def Shape.ok (sh : Shape) (o : FOp) : Bool :=
  sh.d.okD o.uni o.d.toNat && sh.a.ok o.uni o.a.isS o.a.idx.toNat
  && (match o.b with
      | .imm i => (match sh.imm with
                   | some max => i.toNat ≤ max && o.c == 0
                   | none => false)
      | .v n => !sh.immMust && sh.b.ok o.uni false n.toNat && sh.c.ok o.uni o.c.toNat
      | .s n => !sh.immMust && sh.b.ok o.uni true n.toNat && sh.c.ok o.uni o.c.toNat)
  && sh.x.contains o.x.toNat && (sh.longLat || !o.fs)
  && (!o.uni || (sh.u && o.guard == Guard.always && o.a.isS && (o.b.isS || o.b.isImm)))
  && (sh.guarded || o.guard == Guard.always) && sh.extra

/-- The vector operands of a format F word (R63). -/
def Shape.refs (sh : Shape) (o : FOp) : List (Nat × Nat) :=
  sh.d.refs o.uni o.d.toNat ++ sh.a.refs o.a.isS o.a.idx.toNat
  ++ (match o.b with
      | .v n => sh.b.refs false n.toNat
      | _ => [])
  ++ (match o.b with
      | .imm _ => []
      | _ => sh.c.refs o.uni o.c.toNat)

/-- Any 22-bit immediate. -/
def immAny : Option Nat := some (2 ^ 22 - 1)
/-- Registers of an operand of R65's types: two for the 64-bit types. -/
def FOp.w (o : FOp) : Nat := if 2 ≤ o.x.toNat then 2 else 1
/-- Is the integer type of X signed (R65)? -/
def FOp.signed (o : FOp) : Bool := o.x.toNat % 2 == 0
/-- Width in bits of the integer type of X (R65). -/
def FOp.wbits (o : FOp) : Nat := 32 * o.w
/-- Registers of an operand where X = 01 selects 64 bits (R217, R243). -/
def FOp.wx (o : FOp) : Nat := if o.x = 1 then 2 else 1
/-- The FN field (R62). -/
def FOp.fn (o : FOp) : Nat := o.c.toNat
/-- The CV field of a conversion (R247). -/
def FOp.cv (o : FOp) : Nat :=
  match o.b with
  | .v n => n.toNat
  | .s n => n.toNat
  | .imm i => i.toNat
/-- CV[2:0]: rounding code (R236). -/
def FOp.rnd (o : FOp) : Nat := o.cv % 8
/-- CV[6:3]: source format (R235). -/
def FOp.sf (o : FOp) : Nat := o.cv / 8 % 16
/-- CV[10:7]: destination format (R235). -/
def FOp.df (o : FOp) : Nat := o.cv / 128 % 16
/-- Is special register `n` 64 bits wide (R111)? -/
def sr64 (n : Nat) : Bool := [10, 19, 20, 21, 23, 24].contains n
/-- The special registers marked RO in R111. -/
def srReadOnly (n : Nat) : Bool := n ≤ 12 || [16, 18, 21, 22, 25].contains n
/-- 32-bit registers of one element of a floating format code: two for FP64 (R235). -/
def fmtRegs (f : Nat) : Nat := if f = 1 then 2 else 1
/-- The link field of CALL and CALLX (R126). -/
def linkFld (o : FOp) : Fld := if o.x = 0 then .vec 2 else .sca 2 126

/-- Two-source integer entry with an optional immediate (R202). -/
def shInt (o : FOp) (xs : List Nat) (mask : Nat) : Shape :=
  { d := .reg o.w, a := .reg o.w, b := .reg o.w, c := .fn mask, imm := immAny, x := xs, u := true }
/-- Integer entry whose B is one 32-bit register (shifts, BFE, R202). -/
def shShift (o : FOp) (xs : List Nat) : Shape :=
  { d := .reg o.w, a := .reg o.w, b := .reg 1, imm := immAny, x := xs, u := true }
/-- One-source integer entry (R202). -/
def shUn (kd ka : Nat) (xs : List Nat) : Shape := { d := .reg kd, a := .reg ka, x := xs, u := true }
/-- Three-source entry: no immediate (R62). -/
def shTri (kd ka kb kc : Nat) (xs : List Nat) : Shape :=
  { d := .reg kd, a := .reg ka, b := .reg kb, c := .reg kc, x := xs, u := true }
/-- Two-source floating entry of `k` registers (R208). -/
def shFp (k mask immMax : Nat) (xs : List Nat) (extra : Bool := true) : Shape :=
  { d := .reg k, a := .reg k, b := .reg k, c := .fn mask, imm := some immMax, x := xs, u := true, extra := extra }
/-- R206: the combine fields of ICMP, FCMP and DCMP. -/
def combineOk (o : FOp) : Bool :=
  (!o.uni || o.fn / 16 % 4 == 0) && (o.fn / 16 % 4 != 0 || o.fn / 64 % 8 == 0)
/-- Compare entry of `k` registers with conditions up to `maxCond` (R202, R208). -/
def shCmp (o : FOp) (k maxCond : Nat) (xs : List Nat) : Shape :=
  { d := .pred 7, a := .reg k, b := .reg k, c := .fn 0x1FF, imm := immAny, x := xs, u := true,
    extra := o.fn % 16 ≤ maxCond && combineOk o }
/-- R209: a rounding override is 0 to 4. -/
def rndOk (o : FOp) : Bool := o.fn / 16 % 8 ≤ 4
/-- Function entry (R243). -/
def shFunc (o : FOp) (fp64 : Bool) (mask : Nat) : Shape :=
  { d := .vec o.wx, a := .reg o.wx, c := .fn mask, x := if fp64 then [0, 1] else [0], longLat := true,
    extra := o.fn % 8 ≤ 4 }
/-- Conversion entry (R247, R248): C names the random bits when RND = 5. -/
def shConv (o : FOp) (d a : Fld) (xs : List Nat) (extra : Bool) : Shape :=
  { d := d, a := a, b := .raw, c := if o.rnd = 5 then .reg 1 else .fn 0, x := xs, longLat := true,
    extra := extra && o.rnd ≤ 5 }
/-- MMA entry (R276, R278): FB and FA at most the given codes; a wide pass describes B by a descriptor. -/
def shMma (o : FOp) (codes : Nat) : Shape :=
  { d := .acc, a := .vecDesc, b := .vecDesc, c := .fn 0x7FF, longLat := true,
    extra := o.fn / 256 ≤ codes && o.fn / 16 % 16 ≤ codes && (o.fn / 8 % 2 == 0 || o.b.isS) }
/-- Is a format code a 4-bit format (R235)? -/
def fmt4 (f : Nat) : Bool := f == 8 || f == 12

/-- A format F word: its opcode (R76), operands and entry. -/
structure FWord where
  opc : Nat
  op : FOp
  sh : Shape
deriving DecidableEq, Repr

/-- The format F entries of R126, R202, R208, R217, R243, R247, R276, R386, R416, R417 and R420. -/
def Instr.fword : Instr → Option FWord
  | .nop o => some ⟨0x00, o, {}⟩
  | .bra o => some ⟨0x01, o, { imm := immAny, immMust := true }⟩
  | .brx o => some ⟨0x02, o, { a := .reg 2 }⟩
  | .call o => some ⟨0x03, o, { d := linkFld o, imm := immAny, immMust := true, x := [0, 1] }⟩
  | .callx o => some ⟨0x04, o, { d := linkFld o, a := .reg 2, x := [0, 1] }⟩
  | .ret o => some ⟨0x05, o, { a := .reg 2 }⟩
  | .exit o => some ⟨0x06, o, {}⟩
  | .regang o => some ⟨0x07, o, { guarded := false }⟩
  | .regroup o => some ⟨0x08, o,
      { d := .pred 7, a := .vec 1, b := .vec 1, guarded := false,
        extra := o.a.idx.toNat ≤ o.cv }⟩
  | .elect o => some ⟨0x09, o, { d := .pred 7 }⟩
  | .claim o => some ⟨0x0A, o,
      { d := .pred 7, b := .sca 1 127, imm := some 256,
        extra := !o.b.isImm || o.cv != 0 }⟩
  | .giveback o => some ⟨0x0B, o,
      { d := .pred 7, b := .sca 1 127, imm := some 256,
        extra := !o.b.isImm || o.cv != 0 }⟩
  | .bararv o => some ⟨0x0C, o, { d := .bar, b := .sca 1 127, imm := some 16 }⟩
  | .barwt o => some ⟨0x0D, o, { d := .bar }⟩
  | .barsyn o => some ⟨0x0E, o, { d := .bar, b := .sca 1 127, imm := some 16 }⟩
  | .yield o => some ⟨0x0F, o, {}⟩
  | .sleep o => some ⟨0x10, o, { b := .sca 1 127, imm := immAny }⟩
  | .waitf o => some ⟨0x11, o, { imm := some 0xFFF, immMust := true }⟩
  | .rdsr o => some ⟨0x12, o,
      { d := let k := if sr64 o.a.idx.toNat then 2 else 1
             if o.x = 0 then .vec k else .sca k 127
        a := .sr, x := [0, 1], extra := o.x = 0 || 2 ≤ o.a.idx.toNat }⟩
  | .wrsr o => some ⟨0x13, o,
      { d := .sr
        a := if o.b.isImm then .none else .sca (if sr64 o.d.toNat then 2 else 1) 127
        imm := immAny, extra := !srReadOnly o.d.toNat }⟩
  | .trap o => some ⟨0x14, o, { imm := immAny, immMust := true }⟩
  | .tretResume o => some ⟨0x15, o, { imm := some 0, immMust := true, guarded := false }⟩
  | .tretSkip o => some ⟨0x15, o, { imm := some 1, immMust := true, guarded := false, extra := o.cv == 1 }⟩
  | .tretKill o => some ⟨0x15, o, { imm := some 2, immMust := true, guarded := false, extra := o.cv == 2 }⟩
  | .causeclr o => some ⟨0x16, o, { b := .sca 1 127, imm := some 0xFFFFF }⟩
  | .tmask o => some ⟨0x17, o, { d := .sca 1 127, b := .sca 1 127, imm := immAny, x := [0, 1, 2] }⟩
  | .uimask o => some ⟨0x18, o, { imm := some 1, immMust := true }⟩
  | .uret o => some ⟨0x19, o, { guarded := false }⟩
  | .bkpt o => some ⟨0x1A, o, { imm := immAny, immMust := true }⟩
  | .iadd o => some ⟨0x20, o, shInt o [0, 1, 2, 3] 1⟩
  | .isub o => some ⟨0x21, o, shInt o [0, 1, 2, 3] 1⟩
  | .iaddx o => some ⟨0x22, o, shInt o [0, 1] 0x3F⟩
  | .isubx o => some ⟨0x23, o, shInt o [0, 1] 0x3F⟩
  | .imul o => some ⟨0x24, o, shInt o [0, 1, 2, 3] 0⟩
  | .imulh o => some ⟨0x25, o, shInt o [0, 1, 2, 3] 0⟩
  | .imulw o => some ⟨0x26, o, { shInt o [0, 1] 0 with d := .reg 2 }⟩
  | .imad o => some ⟨0x27, o, shTri o.w o.w o.w o.w [0, 1, 2, 3]⟩
  | .imadw o => some ⟨0x28, o, shTri 2 1 1 2 [0, 1]⟩
  | .imin o => some ⟨0x29, o, shInt o [0, 1, 2, 3] 0⟩
  | .imax o => some ⟨0x2A, o, shInt o [0, 1, 2, 3] 0⟩
  | .iabs o => some ⟨0x2B, o, shUn o.w o.w [0, 2]⟩
  | .isad o => some ⟨0x2C, o, shTri 1 1 1 1 [0, 1]⟩
  | .idot4 o => some ⟨0x2D, o, shTri 1 1 1 1 [0, 1, 2, 3]⟩
  | .idot2 o => some ⟨0x2E, o, shTri 1 1 1 1 [0, 1, 2, 3]⟩
  | .and o => some ⟨0x2F, o, shInt o [1, 3] 0⟩
  | .or o => some ⟨0x30, o, shInt o [1, 3] 0⟩
  | .xor o => some ⟨0x31, o, shInt o [1, 3] 0⟩
  | .lut3 o => some ⟨0x32, o, { shInt o [1, 3] 0xFF with imm := none }⟩
  | .shl o => some ⟨0x33, o, shShift o [1, 3]⟩
  | .shr o => some ⟨0x34, o, shShift o [1, 3]⟩
  | .sar o => some ⟨0x35, o, shShift o [0, 2]⟩
  | .shf o => some ⟨0x36, o, shTri 1 1 1 1 [0, 1]⟩
  | .bfe o => some ⟨0x37, o, shShift o [0, 1, 2, 3]⟩
  | .bfi o => some ⟨0x38, o, shTri o.w o.w 1 o.w [1, 3]⟩
  | .popc o => some ⟨0x39, o, shUn 1 o.w [1, 3]⟩
  | .clz o => some ⟨0x3A, o, shUn 1 o.w [1, 3]⟩
  | .ctz o => some ⟨0x3B, o, shUn 1 o.w [1, 3]⟩
  | .brev o => some ⟨0x3C, o, shUn o.w o.w [1, 3]⟩
  | .bsel o => some ⟨0x3D, o, shShift o [1]⟩
  | .icmp o => some ⟨0x3E, o, shCmp o o.w 5 [0, 1, 2, 3]⟩
  | .sel o => some ⟨0x3F, o, shInt o [1, 3] 0xF⟩
  | .mov o => some ⟨0x40, o, shUn o.w o.w [1, 3]⟩
  | .movi o => some ⟨0x41, o, { d := .reg 1, imm := immAny, immMust := true, u := true }⟩
  | .movhi o => some ⟨0x42, o, { d := .reg 1, imm := immAny, immMust := true, u := true }⟩
  | .plop o => some ⟨0x43, o, { d := .pred 7, a := .pred 7, b := .pred 7, c := .fn 0xF, u := true }⟩
  | .p2s o => some ⟨0x44, o, { d := .sca 1 125, a := .pred 7 }⟩
  | .s2p o => some ⟨0x45, o, { d := .pred 7, a := .sca 1 125 }⟩
  | .fadd o => some ⟨0x50, o, shFp 1 0x7F (2 ^ 22 - 1) [0] (rndOk o)⟩
  | .fsub o => some ⟨0x51, o, shFp 1 0x7F (2 ^ 22 - 1) [0] (rndOk o)⟩
  | .fmul o => some ⟨0x52, o, shFp 1 0x7F (2 ^ 22 - 1) [0] (rndOk o)⟩
  | .ffma o => some ⟨0x53, o, shTri 1 1 1 1 [0, 1, 2, 3]⟩
  | .fmin o => some ⟨0x54, o, shFp 1 0xF (2 ^ 22 - 1) [0]⟩
  | .fmax o => some ⟨0x55, o, shFp 1 0xF (2 ^ 22 - 1) [0]⟩
  | .fcmp o => some ⟨0x56, o, shCmp o 1 7 [0]⟩
  | .frnd o => some ⟨0x57, o, { d := .reg 1, a := .reg 1, c := .fn 7, u := true, extra := o.fn ≤ 5 }⟩
  | .fclass o => some ⟨0x58, o, shUn 1 1 [0]⟩
  | .fcpys o => some ⟨0x59, o, shFp 1 0 (2 ^ 22 - 1) [0]⟩
  | .fscale o => some ⟨0x5A, o, shFp 1 0 (2 ^ 22 - 1) [0]⟩
  | .hadd2 o => some ⟨0x5B, o, shFp 1 0x7F 0xFFFF [0, 1] (rndOk o)⟩
  | .hsub2 o => some ⟨0x5C, o, shFp 1 0x7F 0xFFFF [0, 1] (rndOk o)⟩
  | .hmul2 o => some ⟨0x5D, o, shFp 1 0x7F 0xFFFF [0, 1] (rndOk o)⟩
  | .hfma2 o => some ⟨0x5E, o, shTri 1 1 1 1 [0, 1, 2, 3]⟩
  | .hmin2 o => some ⟨0x5F, o, shFp 1 0xF 0xFFFF [0, 1]⟩
  | .hmax2 o => some ⟨0x60, o, shFp 1 0xF 0xFFFF [0, 1]⟩
  | .hcmp2 o => some ⟨0x61, o, { shFp 1 0x7 0xFFFF [0, 1] with d := .pred 5 }⟩
  | .dadd o => some ⟨0x62, o, shFp 2 0x7F (2 ^ 22 - 1) [0] (rndOk o)⟩
  | .dsub o => some ⟨0x63, o, shFp 2 0x7F (2 ^ 22 - 1) [0] (rndOk o)⟩
  | .dmul o => some ⟨0x64, o, shFp 2 0x7F (2 ^ 22 - 1) [0] (rndOk o)⟩
  | .dfma o => some ⟨0x65, o, shTri 2 2 2 2 [0, 1, 2, 3]⟩
  | .dmin o => some ⟨0x66, o, shFp 2 0xF (2 ^ 22 - 1) [0]⟩
  | .dmax o => some ⟨0x67, o, shFp 2 0xF (2 ^ 22 - 1) [0]⟩
  | .dcmp o => some ⟨0x68, o, shCmp o 2 7 [0]⟩
  | .lperm o => some ⟨0x70, o,
      { d := .vec o.wx, a := .vec o.wx, b := if o.fn % 4 = 2 then .none else .reg 1, c := .fn 0x1F,
        imm := immAny, x := [0, 1], extra := o.fn / 4 % 8 ≤ 5 }⟩
  | .pqry o => some ⟨0x71, o,
      { d := if o.fn = 3 then .sca 1 127 else .pred 7, a := .pred 7, c := .fn 7, extra := o.fn ≤ 4 }⟩
  | .peer o => some ⟨0x72, o, { d := .vec 2, a := .vec o.wx, x := [0, 1] }⟩
  | .fold o => some ⟨0x73, o,
      { d := .vec o.w, a := .vec o.w, c := .fn 0x3F, x := [0, 1, 2, 3],
        extra := o.fn % 8 ≤ 6 && o.fn / 8 % 8 ≤ 5 && (o.fn % 8 != 6 || o.x == 0) }⟩
  | .scan o => some ⟨0x74, o,
      { d := .vec o.w, a := .vec o.w, c := .fn 0x7F, x := [0, 1, 2, 3],
        extra := o.fn % 8 ≤ 6 && o.fn / 8 % 8 ≤ 5 && (o.fn % 8 != 6 || o.x == 0) }⟩
  | .compact o => some ⟨0x75, o, { d := .vec o.wx, a := .vec o.wx, x := [0, 1] }⟩
  | .bcast o => some ⟨0x76, o,
      { d := .vec o.wx, a := .vec o.wx, b := if o.fn = 1 then .none else .sca 1 127, c := .fn 1,
        imm := immAny, x := [0, 1] }⟩
  | .rcp o => some ⟨0x80, o, shFunc o true 0⟩
  | .rsq o => some ⟨0x81, o, shFunc o true 0⟩
  | .sqrt o => some ⟨0x82, o, shFunc o true 7⟩
  | .exp2 o => some ⟨0x83, o, shFunc o false 0⟩
  | .log2 o => some ⟨0x84, o, shFunc o false 0⟩
  | .sin o => some ⟨0x85, o, shFunc o false 0⟩
  | .cos o => some ⟨0x86, o, shFunc o false 0⟩
  | .tanh o => some ⟨0x87, o, shFunc o false 0⟩
  | .erf o => some ⟨0x88, o, shFunc o false 0⟩
  | .f2i o => some ⟨0x89, o, shConv o (.vec o.w) (.reg (fmtRegs o.sf)) [0, 1, 2, 3] (o.sf ≤ 3 && o.df == 0)⟩
  | .i2f o => some ⟨0x8A, o, shConv o (.vec (fmtRegs o.df)) (.reg o.w) [0, 1, 2, 3] (o.df ≤ 3 && o.sf == 0)⟩
  | .f2f o => some ⟨0x8B, o, shConv o (.vec (fmtRegs o.df)) (.reg (fmtRegs o.sf)) [0, 1]
      (o.sf ≤ 9 && o.df ≤ 9 && o.sf != o.df)⟩
  | .cvpk2 o => some ⟨0x8C, o, shConv o (.vec 1) (.vec 2) [0, 1] (o.sf == 0 && (o.df == 2 || o.df == 3))⟩
  | .cvpk4 o => some ⟨0x8D, o, shConv o (.vec 1) (.vec (if o.sf = 0 then 4 else 2)) [0, 1, 2, 3]
      ((o.sf == 0 || o.sf == 2 || o.sf == 3) && 4 ≤ o.df && o.df ≤ 12 && (o.x.toNat < 2 || fmt4 o.df))⟩
  | .unpk o => some ⟨0x8E, o, shConv o
      (.vec (if o.sf = 2 ∨ o.sf = 3 then (if o.df = 0 then 2 else 1) else (if o.df = 0 then 4 else 2)))
      (.vec 1) [0, 2]
      (2 ≤ o.sf && o.sf ≤ 12 && (o.df == 0 || o.df == 2 || o.df == 3) && o.sf != o.df && (o.x == 0 || fmt4 o.sf))⟩
  | .bfpq o => some ⟨0x8F, o, shConv o (.vec 2) (.vec 1) [0] (o.sf == 0 && o.df ≤ 6)⟩
  | .bfpx o => some ⟨0x90, o, shConv o (.vec 1) (.reg 2) [0] (o.sf == 0 && o.df ≤ 6)⟩
  | .e2mxd o => some ⟨0x91, o, { d := .vec 4, a := .vec 1, b := .none, c := .reg 2, longLat := true }⟩
  | .mmah o => some ⟨0xA0, o, shMma o 1⟩
  | .mmaq8 o => some ⟨0xA1, o, shMma o 1⟩
  | .mmaq6 o => some ⟨0xA2, o, shMma o 1⟩
  | .mmaq4 o => some ⟨0xA3, o, shMma o 0⟩
  | .mmai8 o => some ⟨0xA4, o, shMma o 1⟩
  | .mmabfp o => some ⟨0xA5, o,
      { d := .acc, a := .vecDesc, b := .vecDesc, c := .fn 0x3FF, longLat := true,
        extra := o.fn / 128 % 8 ≤ 6 && o.fn / 16 % 8 ≤ 6 && (o.fn / 8 % 2 == 0 || o.b.isS) }⟩
  | .msca o => some ⟨0xA6, o, { d := .acc, a := .vec 1, b := .acc, c := .fn 0xD, x := [0, 1], longLat := true }⟩
  | .maccld o => some ⟨0xA7, o, { d := .acc, a := .vec 8, c := .fn 0xF, longLat := true }⟩
  | .maccldScratch o => some ⟨0xA7, o, { d := .acc, a := .sca 2 126, c := .fn 8, longLat := true }⟩
  | .maccst o => some ⟨0xA8, o, { d := .vec 8, a := .acc, c := .fn 0xF, longLat := true }⟩
  | .maccstScratch o => some ⟨0xA8, o, { d := .sca 2 126, a := .acc, c := .fn 8, x := [1], longLat := true }⟩
  | .maccz o => some ⟨0xA9, o, { b := .sca 1 127, imm := some 0x1FFFF, longLat := true }⟩
  | .mfence o => some ⟨0xAA, o, { imm := some 0xFFF }⟩
  | .mwait o => some ⟨0xAB, o, { d := .sca 1 124, b := .sca 1 127, imm := some 0xFFFF, longLat := true }⟩
  | .mxstat o => some ⟨0xAC, o, { d := .sca 1 124, imm := some 3, immMust := true, longLat := true }⟩
  | .armac o => some ⟨0xD8, o, { d := .sca 2 126, a := .sca 2 126, longLat := true }⟩
  | .disarm o => some ⟨0xD9, o, { d := .sca 4 124, a := .sca 1 127, longLat := true }⟩
  | .acrd o => some ⟨0xDA, o, { d := .sca 4 124, a := .sca 1 127, longLat := true }⟩
  | .taskq o => some ⟨0xDB, o,
      { d := .sca 1 124, a := .sca 2 126, b := .sca 1 127, imm := some 1023, longLat := true }⟩
  | .leap o => some ⟨0xE0, o, { a := .sca 4 124, imm := immAny, immMust := true }⟩
  | .leapReg o => some ⟨0xE0, o, { a := .sca 4 124, b := .reg 2 }⟩
  | .send o => some ⟨0xE1, o, { d := .sca 1 124, a := .sca 2 126, c := .sca 2 126, longLat := true }⟩
  | .segrep o => some ⟨0xE2, o,
      { d := .sca 1 124, a := .sca 1 127, b := .sca 1 127, imm := some 191, longLat := true }⟩
  | _ => none

/-- What an entry lets the D or C field of a format M word hold. -/
inductive MFld where
  /-- the field is zero -/
  | none
  /-- a signed offset in SIZE units (R69): any value -/
  | off
  /-- the data operand: `k` 32-bit registers, vector, or scalar under U = 1 -/
  | data (k : Nat)
  /-- a scalar, a multiple of `m`, at most `max` -/
  | sca (m max : Nat)
deriving DecidableEq, Repr

/-- How a format M word names its pointer. -/
inductive MBase where
  /-- a vector or scalar pair -/
  | pair
  /-- a scalar pair -/
  | scalar
  /-- no pointer: A = 0 and AS = 0 -/
  | none
deriving DecidableEq, Repr

/-- The entry of a format M word. -/
structure MShape where
  d : MFld := .none
  c : MFld := .none
  base : MBase := .pair
  sizes : List Size := [.b1]
  ords : List Ord := [.plain]
  maxTag : Nat := 0
  x : List Nat := [0]
  u : Bool := false
  longLat : Bool := true
  extra : Bool := true
deriving DecidableEq, Repr

/-- R63, R64: does the D or C field of a format M word meet its entry? -/
def MFld.ok (f : MFld) (uni : Bool) (n : Nat) : Bool :=
  match f with
  | .none => n == 0
  | .off => true
  | .data k => operandOk uni k n
  | .sca m max => n % m == 0 && n ≤ max

/-- R66-R69, R78: the whole static check of a format M word. -/
def MShape.ok (sh : MShape) (o : MOp) : Bool :=
  sh.d.ok o.uni o.d.toNat && sh.c.ok o.uni o.c.toNat
  && (match sh.base, o.a with
      | .pair, .v n => !o.uni && n.toNat % 2 == 0
      | .pair, .s n => operandOk true 2 n.toNat
      | .scalar, .s n => operandOk true 2 n.toNat
      | .none, .v n => n == 0
      | _, _ => false)
  && sh.sizes.contains o.size && sh.ords.contains o.ord && o.tag.toNat ≤ sh.maxTag
  && (o.ord != .plain || o.scope == .group) && sh.x.contains o.x.toNat
  && (!o.uni || (sh.u && o.guard == Guard.always)) && (sh.longLat || !o.fs) && sh.extra

/-- The vector operands of a format M word (R63). -/
def MShape.refs (sh : MShape) (o : MOp) : List (Nat × Nat) :=
  (match o.a, sh.base with
   | .v n, .pair => [(n.toNat, 2)]
   | _, _ => [])
  ++ (if o.uni then [] else
      (match sh.d with
       | .data k => [(o.d.toNat, k)]
       | _ => [])
      ++ (match sh.c with
          | .data k => [(o.c.toNat, k)]
          | _ => []))

/-- Every access size. -/
def allSizes : List Size := [.b1, .b2, .b4, .b8, .b16, .b32]
/-- X of a load: sign extension only of 1 and 2 bytes (R69). -/
def loadX (o : MOp) : List Nat := if o.size = .b1 ∨ o.size = .b2 then [0, 1] else [0]
/-- Load entry (R149, R171). -/
def mLoad (o : MOp) (maxHint : Nat) : MShape :=
  { d := .data o.size.regs, c := .off, sizes := allSizes, ords := [.plain, .relaxed, .acquire],
    maxTag := maxHint, x := loadX o, u := true }
/-- Store entry (R149, R171). -/
def mStore (o : MOp) (maxTag : Nat) : MShape :=
  { d := .off, c := .data o.size.regs, sizes := allSizes, ords := [.plain, .relaxed, .release],
    maxTag := maxTag, u := true }
/-- The ORD codes of atomics (R67). -/
def atomOrds : List Ord := [.relaxed, .acquire, .release, .acqRel]
/-- Atomic entry (R149-R151, R171, R172): X[0] signed min and max, X[1] no return. -/
def mAtom (o : MOp) : MShape :=
  { d := if 2 ≤ o.x.toNat then .none else .data o.size.regs, c := .data o.size.regs, sizes := [.b4, .b8],
    ords := atomOrds, maxTag := 7, x := [0, 1, 2, 3], u := true,
    extra := o.x.toNat % 2 == 0 || o.tag == 1 || o.tag == 2 }
/-- Compare-and-swap entry (R149, R150, R171, R172). -/
def mCas (o : MOp) : MShape :=
  { d := .data o.size.regs, c := .data (2 * o.size.regs), sizes := [.b4, .b8], ords := atomOrds, u := true }
/-- Waiting entry: WAITA and WAITGE (R149, R171). -/
def mWait (o : MOp) (maxCond : Nat) : MShape :=
  { d := .data o.size.regs, c := .data o.size.regs, sizes := [.b4, .b8], ords := [.relaxed, .acquire],
    maxTag := maxCond, longLat := false }

/-- A format M word: its opcode (R76), operands and entry. -/
structure MWord where
  opc : Nat
  op : MOp
  sh : MShape
deriving DecidableEq, Repr

/-- The format M entries of R149, R171 and R339. -/
def Instr.mword : Instr → Option MWord
  | .ldl o => some ⟨0xB0, o, mLoad o 0⟩
  | .stl o => some ⟨0xB1, o, mStore o 7⟩
  | .ldc o => some ⟨0xB2, o, mLoad o 0⟩
  | .stc o => some ⟨0xB3, o, mStore o 0⟩
  | .atoml o => some ⟨0xB4, o, mAtom o⟩
  | .atomc o => some ⟨0xB5, o, mAtom o⟩
  | .casl o => some ⟨0xB6, o, mCas o⟩
  | .waita o => some ⟨0xB7, o, mWait o 4⟩
  | .ldg o => some ⟨0xC0, o, mLoad o 3⟩
  | .stg o => some ⟨0xC1, o, mStore o 3⟩
  | .lds o => some ⟨0xC2, o, mLoad o 0⟩
  | .sts o => some ⟨0xC3, o, mStore o 0⟩
  | .atomg o => some ⟨0xC4, o, mAtom o⟩
  | .redg o => some ⟨0xC5, o,
      { c := .data o.size.regs, sizes := [.b4, .b8], ords := [.relaxed, .release], maxTag := 7, x := [0, 1, 2],
        u := true, extra := o.x.toNat < 2 || o.tag.toNat ≤ 2 }⟩
  | .casg o => some ⟨0xC6, o, mCas o⟩
  | .fence o => some ⟨0xC7, o,
      { base := .none, ords := [.acquire, .release, .acqRel, .sc], longLat := false }⟩
  | .waitge o => some ⟨0xC8, o, mWait o 0⟩
  | .pref o => some ⟨0xC9, o, { c := .off, maxTag := 3, longLat := false }⟩
  | .wbl1 o => some ⟨0xCA, o, { c := .off }⟩
  | .wbl1All o => some ⟨0xCA, o, { base := .none, x := [1] }⟩
  | .invl1 o => some ⟨0xCB, o, { c := .off }⟩
  | .invl1All o => some ⟨0xCB, o, { base := .none, x := [1] }⟩
  | .pin o => some ⟨0xD0, o, { d := .sca 1 124, base := .scalar, c := .sca 4 124 }⟩
  | .unpin o => some ⟨0xD1, o, { d := .sca 1 124, base := .scalar }⟩
  | .kvins o => some ⟨0xD2, o,
      { d := .sca 4 120, base := .scalar, c := .sca 2 126, maxTag := 3, x := [0, 1, 2, 3] }⟩
  | .kvlook o => some ⟨0xD3, o, { d := .sca 4 120, base := .none, c := .sca 2 126, x := [0, 1, 2, 3] }⟩
  | .kvdrop o => some ⟨0xD4, o, { d := .sca 4 120, base := .none, c := .sca 2 126, x := [0, 1, 2, 3] }⟩
  | .xpose o => some ⟨0xD5, o,
      { d := .sca 1 124, base := .scalar, c := .sca 4 124, sizes := [.b1, .b2, .b4, .b8] }⟩
  | .stqry o => some ⟨0xD6, o, { d := .sca 4 120, base := .scalar, c := .sca 1 127 }⟩
  | _ => none

/-- R72: is one slot of a paired word legal? -/
def Slot.ok (s : Slot) : Bool :=
  if s.op = .nop then s.d == 0 && s.a == 0 && s.pm == 0
  else (!s.pm.getLsbD 2 || s.a.toNat ≤ 127)
    && (!s.op.isInt || (!s.pm.getLsbD 1 && (!s.pm.getLsbD 0 || s.op == .imin || s.op == .imax)))

/-- R73: is a paired word legal? -/
def pairOk (s0 s1 : Slot) : Bool :=
  s0.ok && s1.ok
  && (s0.op == .nop || s1.op == .nop
      || (s0.d.toNat % 4 != s1.d.toNat % 4
          && (s0.pm.getLsbD 2 || s1.pm.getLsbD 2 || s0.a.toNat % 4 != s1.a.toNat % 4)))

/-- The vector operands of one slot (R74). -/
def Slot.refs (s : Slot) : List (Nat × Nat) :=
  if s.op = .nop then [] else (s.d.toNat, 1) :: (if s.pm.getLsbD 2 then [] else [(s.a.toNat, 1)])

/-- R53: is a header legal? -/
def Header.ok (h : Header) : Bool :=
  h.len != 0 && (match h.seta with | some f => f.toNat ≤ 11 | none => true)
  && (match h.setb with | some f => f.toNat ≤ 11 | none => true)

end Sys2Proof
end

