-- ==== Sys2Proof/WellFormed.lean ====
section
/-! DEFINITION. Well-formed instructions: those whose words R53, R72, R73 and R78 call legal. -/
namespace Sys2Proof

/-- A well-formed instruction. A step of an engine has no word, and no static condition. -/
def Instr.wf (i : Instr) : Bool :=
  match i with
  | .clauseHeader h => h.ok
  | .pairedWord s0 s1 => pairOk s0 s1
  | i =>
    match i.fword with
    | some f => f.sh.ok f.op
    | none =>
      match i.mword with
      | some m => m.sh.ok m.op
      | none => true

end Sys2Proof
end

