-- ==== Sys2Proof/Decode.lean ====
section
/-! DEFINITION. Decoding: from the words of R52, R61, R66 and R70 to instructions, total, rejecting by name; and the
encoder, written from the same tables. -/
namespace Sys2Proof

/-- Why a word or a header is no instruction: each raises ILLEGAL (R53, R78). -/
inductive Reject where
  /-- an opcode that R76 marks reserved, or 0xFF -/
  | reservedOpcode (opc : Nat)
  /-- an assigned opcode with a field that its entry does not allow -/
  | badOperands (opc : Nat)
  /-- a paired word that breaks R72 or R73 -/
  | badPair
  /-- a header that breaks R53 -/
  | badHeader
  /-- fewer than eight bytes -/
  | short
deriving DecidableEq, Repr

/-- The rows of R76 in format F, opcode and constructor (part 0). -/
def fRows0 : List (Nat × (FOp → Instr)) :=
  [(0x00, .nop), (0x01, .bra), (0x02, .brx), (0x03, .call), (0x04, .callx), (0x05, .ret),
   (0x06, .exit), (0x07, .regang), (0x08, .regroup), (0x09, .elect), (0x0A, .claim), (0x0B, .giveback),
   (0x0C, .bararv), (0x0D, .barwt), (0x0E, .barsyn), (0x0F, .yield), (0x10, .sleep), (0x11, .waitf),
   (0x12, .rdsr), (0x13, .wrsr), (0x14, .trap), (0x15, .tretResume), (0x15, .tretSkip), (0x15, .tretKill),
   (0x16, .causeclr), (0x17, .tmask), (0x18, .uimask), (0x19, .uret), (0x1A, .bkpt), (0x20, .iadd),
   (0x21, .isub), (0x22, .iaddx)]
/-- The rows of R76 in format F, opcode and constructor (part 1). -/
def fRows1 : List (Nat × (FOp → Instr)) :=
  [(0x23, .isubx), (0x24, .imul), (0x25, .imulh), (0x26, .imulw), (0x27, .imad), (0x28, .imadw),
   (0x29, .imin), (0x2A, .imax), (0x2B, .iabs), (0x2C, .isad), (0x2D, .idot4), (0x2E, .idot2),
   (0x2F, .and), (0x30, .or), (0x31, .xor), (0x32, .lut3), (0x33, .shl), (0x34, .shr),
   (0x35, .sar), (0x36, .shf), (0x37, .bfe), (0x38, .bfi), (0x39, .popc), (0x3A, .clz),
   (0x3B, .ctz), (0x3C, .brev), (0x3D, .bsel), (0x3E, .icmp), (0x3F, .sel), (0x40, .mov),
   (0x41, .movi), (0x42, .movhi)]
/-- The rows of R76 in format F, opcode and constructor (part 2). -/
def fRows2 : List (Nat × (FOp → Instr)) :=
  [(0x43, .plop), (0x44, .p2s), (0x45, .s2p), (0x50, .fadd), (0x51, .fsub), (0x52, .fmul),
   (0x53, .ffma), (0x54, .fmin), (0x55, .fmax), (0x56, .fcmp), (0x57, .frnd), (0x58, .fclass),
   (0x59, .fcpys), (0x5A, .fscale), (0x5B, .hadd2), (0x5C, .hsub2), (0x5D, .hmul2), (0x5E, .hfma2),
   (0x5F, .hmin2), (0x60, .hmax2), (0x61, .hcmp2), (0x62, .dadd), (0x63, .dsub), (0x64, .dmul),
   (0x65, .dfma), (0x66, .dmin), (0x67, .dmax), (0x68, .dcmp), (0x70, .lperm), (0x71, .pqry),
   (0x72, .peer), (0x73, .fold)]
/-- The rows of R76 in format F, opcode and constructor (part 3). -/
def fRows3 : List (Nat × (FOp → Instr)) :=
  [(0x74, .scan), (0x75, .compact), (0x76, .bcast), (0x80, .rcp), (0x81, .rsq), (0x82, .sqrt),
   (0x83, .exp2), (0x84, .log2), (0x85, .sin), (0x86, .cos), (0x87, .tanh), (0x88, .erf),
   (0x89, .f2i), (0x8A, .i2f), (0x8B, .f2f), (0x8C, .cvpk2), (0x8D, .cvpk4), (0x8E, .unpk),
   (0x8F, .bfpq), (0x90, .bfpx), (0x91, .e2mxd), (0xA0, .mmah), (0xA1, .mmaq8), (0xA2, .mmaq6),
   (0xA3, .mmaq4), (0xA4, .mmai8), (0xA5, .mmabfp), (0xA6, .msca), (0xA7, .maccld), (0xA7, .maccldScratch),
   (0xA8, .maccst), (0xA8, .maccstScratch)]
/-- The rows of R76 in format F, opcode and constructor (part 4). -/
def fRows4 : List (Nat × (FOp → Instr)) :=
  [(0xA9, .maccz), (0xAA, .mfence), (0xAB, .mwait), (0xAC, .mxstat), (0xD8, .armac), (0xD9, .disarm),
   (0xDA, .acrd), (0xDB, .taskq), (0xE0, .leap), (0xE0, .leapReg), (0xE1, .send), (0xE2, .segrep)]
/-- The rows of R76 in format F, opcode and constructor. -/
def fRows : List (Nat × (FOp → Instr)) := fRows0 ++ fRows1 ++ fRows2 ++ fRows3 ++ fRows4

/-- The rows of R76 in format M, opcode and constructor (part 0). -/
def mRows0 : List (Nat × (MOp → Instr)) :=
  [(0xB0, .ldl), (0xB1, .stl), (0xB2, .ldc), (0xB3, .stc), (0xB4, .atoml), (0xB5, .atomc),
   (0xB6, .casl), (0xB7, .waita), (0xC0, .ldg), (0xC1, .stg), (0xC2, .lds), (0xC3, .sts),
   (0xC4, .atomg), (0xC5, .redg), (0xC6, .casg), (0xC7, .fence), (0xC8, .waitge), (0xC9, .pref),
   (0xCA, .wbl1), (0xCA, .wbl1All), (0xCB, .invl1), (0xCB, .invl1All), (0xD0, .pin), (0xD1, .unpin),
   (0xD2, .kvins), (0xD3, .kvlook), (0xD4, .kvdrop), (0xD5, .xpose), (0xD6, .stqry)]
/-- The rows of R76 in format M, opcode and constructor. -/
def mRows : List (Nat × (MOp → Instr)) := mRows0

/-- The fields of a format F word (R61). Under U = 1 the register operands are scalars. None where IB = 1 meets
SB = 1, or U = 1 meets SA = 1 or SB = 1 (R62). -/
def fieldsF (w : W64) : Option FOp :=
  let u := w.getLsbD 61
  let ib := w.getLsbD 59
  let sb := w.getLsbD 58
  let sa := w.getLsbD 57
  if (ib && sb) || (u && (sa || sb)) then none
  else some
    { guard := { prd := w.extractLsb' 9 3, pn := w.getLsbD 12 }
      uni := u
      fs := w.getLsbD 60
      x := w.extractLsb' 62 2
      d := w.extractLsb' 13 11
      a := if sa || u then .s (w.extractLsb' 24 11) else .v (w.extractLsb' 24 11)
      b := if ib then .imm (w.extractLsb' 35 22)
           else if sb || u then .s (w.extractLsb' 35 11) else .v (w.extractLsb' 35 11)
      c := if ib then 0 else w.extractLsb' 46 11 }

/-- The fields of a format M word (R66). None where bit 59 is set or SIZE, ORD or SCOPE is no code. -/
def fieldsM (w : W64) : Option MOp :=
  if w.getLsbD 59 then none
  else
    match Size.ofCode (w.extractLsb' 46 3), Ord.ofCode (w.extractLsb' 49 3), Scope.ofCode (w.extractLsb' 52 3) with
    | some size, some ord, some scope => some
        { guard := { prd := w.extractLsb' 9 3, pn := w.getLsbD 12 }
          uni := w.getLsbD 61
          fs := w.getLsbD 60
          x := w.extractLsb' 62 2
          tag := w.extractLsb' 55 3
          scope := scope
          ord := ord
          size := size
          c := w.extractLsb' 35 11
          a := if w.getLsbD 58 then .s (w.extractLsb' 24 11) else .v (w.extractLsb' 24 11)
          d := w.extractLsb' 13 11 }
    | _, _, _ => none

/-- The well-formed rows of an opcode, from its operands: rows that share an opcode differ in what they allow. -/
def pick {α : Type} (rows : List (Nat × (α → Instr))) (opc : Nat) (o : α) : Option Instr :=
  ((rows.filter fun r => r.1 == opc).map fun r => r.2 o).find? fun i => i.wf

/-- Does R76 give the opcode to format M (R60)? -/
def isFormatM (opc : Nat) : Bool := 0xB0 ≤ opc && opc ≤ 0xD7

/-- A full word (R60, R76, R78). -/
def decodeFull (w : W64) : Except Reject Instr :=
  let opc := (w.extractLsb' 1 8).toNat
  let known := if isFormatM opc then mRows.any fun r => r.1 == opc else fRows.any fun r => r.1 == opc
  let got := if isFormatM opc then (fieldsM w).bind (pick mRows opc) else (fieldsF w).bind (pick fRows opc)
  match got with
  | some i => .ok i
  | none => .error (if known then .badOperands opc else .reservedOpcode opc)

/-- A paired word (R70, R73). -/
def decodePair (w : W64) : Except Reject Instr :=
  match PairOp.ofCode (w.extractLsb' 1 6), PairOp.ofCode (w.extractLsb' 32 6) with
  | some p0, some p1 =>
    let s0 : Slot := { op := p0, d := w.extractLsb' 7 11, a := w.extractLsb' 18 11, pm := w.extractLsb' 29 3 }
    let s1 : Slot := { op := p1, d := w.extractLsb' 38 11, a := w.extractLsb' 49 11, pm := w.extractLsb' 60 3 }
    if !w.getLsbD 63 && pairOk s0 s1 then .ok (.pairedWord s0 s1) else .error .badPair
  | _, _ => .error .badPair

/-- An instruction word (R60): bit 0 selects paired or full. -/
def decodeWord (w : W64) : Except Reject Instr := if w.getLsbD 0 then decodePair w else decodeFull w

/-- A clause header (R52, R53). -/
def decodeHeader (w : W64) : Except Reject Header :=
  let ea := w.getLsbD 20
  let eb := w.getLsbD 25
  let h : Header :=
    { yld := w.getLsbD 26
      seta := if ea then some (w.extractLsb' 16 4) else none
      setb := if eb then some (w.extractLsb' 21 4) else none
      waitmask := w.extractLsb' 4 12
      len := w.extractLsb' 0 4 }
  if w.extractLsb' 56 8 == 0xC7 && w.extractLsb' 27 29 == 0 && (ea || w.extractLsb' 16 4 == 0)
    && (eb || w.extractLsb' 21 4 == 0) && h.ok then .ok h else .error .badHeader

/-- The little-endian value of bytes, lowest address first (R7). -/
def leNat : List Byte → Nat
  | [] => 0
  | b :: bs => b.toNat + 256 * leNat bs

/-- The `n` bytes of a value, lowest address first (R7). -/
def leBytes : Nat → Nat → List Byte
  | 0, _ => []
  | n + 1, v => BitVec.ofNat 8 v :: leBytes n (v / 256)

/-- Decode the first word of a byte sequence; answers the instruction and the bytes after it. -/
def decode (bs : List Byte) : Except Reject (Instr × List Byte) :=
  if bs.length < 8 then .error .short
  else
    match decodeWord (BitVec.ofNat 64 (leNat (bs.take 8))) with
    | .ok i => .ok (i, bs.drop 8)
    | .error e => .error e

/-- The instruction of a table row's word: an instruction word, or a clause header (every word is 64 bits, R51). -/
def decodeTableWord (nbits w : Nat) : Option Instr :=
  if nbits ≤ 64 then
    match decode (leBytes 8 w) with
    | .ok (i, _) => some i
    | .error _ =>
      match decodeHeader (BitVec.ofNat 64 w) with
      | .ok h => some (.clauseHeader h)
      | .error _ => none
  else none

/-- One bit as a word. -/
def bit1 (b : Bool) : BitVec 1 := if b then 1 else 0

/-- The 22 bits [56:35] of a format F word: IMM22, or C/FN and B (R61). -/
def bField (o : FOp) : BitVec 22 :=
  match o.b with
  | .imm i => i
  | .v n => o.c ++ n
  | .s n => o.c ++ n

/-- The word of a format F instruction (R61). Under U = 1, SA and SB are 0 (R62). -/
def encodeF (opc : Nat) (o : FOp) : W64 :=
  o.x ++ bit1 o.uni ++ bit1 o.fs ++ bit1 o.b.isImm ++ bit1 (o.b.isS && !o.uni) ++ bit1 (o.a.isS && !o.uni)
  ++ bField o ++ o.a.idx ++ o.d ++ bit1 o.guard.pn ++ o.guard.prd ++ BitVec.ofNat 8 opc ++ bit1 false

/-- The word of a format M instruction (R66). -/
def encodeM (opc : Nat) (o : MOp) : W64 :=
  o.x ++ bit1 o.uni ++ bit1 o.fs ++ bit1 false ++ bit1 o.a.isS ++ o.tag ++ o.scope.code ++ o.ord.code
  ++ o.size.code ++ o.c ++ o.a.idx ++ o.d ++ bit1 o.guard.pn ++ o.guard.prd ++ BitVec.ofNat 8 opc ++ bit1 false

/-- The word of a pair of slots (R70). -/
def encodePair (s0 s1 : Slot) : W64 :=
  bit1 false ++ s1.pm ++ s1.a ++ s1.d ++ s1.op.code ++ s0.pm ++ s0.a ++ s0.d ++ s0.op.code ++ bit1 true

/-- The word of a clause header (R52). -/
def encodeHeader (h : Header) : W64 :=
  (0xC7 : BitVec 8) ++ (0 : BitVec 29) ++ bit1 h.yld ++ bit1 h.setb.isSome ++ h.setb.getD 0 ++ bit1 h.seta.isSome
  ++ h.seta.getD 0 ++ h.waitmask ++ h.len

/-- The word of an instruction; a step of an engine has none. -/
def encode (i : Instr) : Option W64 :=
  match i with
  | .clauseHeader h => some (encodeHeader h)
  | .pairedWord s0 s1 => some (encodePair s0 s1)
  | i =>
    match i.fword with
    | some f => some (encodeF f.opc f.op)
    | none => i.mword.map fun m => encodeM m.opc m.op

end Sys2Proof
end

