-- ==== Sys2Proof/Machine/Crypto.lean ====
section
/-! DEFINITION. SHA-512 and RSASSA-PSS, which the manual names (R472-R476) and leaves to their own standards (FIPS 180-4 and
RFC 8017; PRESUMED, log 10). Words are numbers below 2^64, and a digest of 64 bytes is kept so that its lowest byte is the
first. -/
namespace Sys2Proof.Machine

/-! ## SHA-512 -/

/-- A word rotated to the right. -/
def rotr (x n : Nat) : Nat := x / 2 ^ n + x * 2 ^ (64 - n) % 2 ^ 64
/-- The complement of a word. -/
def notW (x : Nat) : Nat := 2 ^ 64 - 1 - x
/-- The largest number of `b` bits and more whose power `e` is at most `n`, found from its highest bit down. -/
def rootFrom (e n r : Nat) : Nat → Nat
  | 0 => r
  | b + 1 => rootFrom e n (if (r + 2 ^ b) ^ e ≤ n then r + 2 ^ b else r) b
/-- The first 64 fraction bits of the `e`-th root of a number below 512. -/
def rootBits (e p : Nat) : Nat := rootFrom e (p * 2 ^ (64 * e)) 0 70 % 2 ^ 64
/-- The primes below 410, the first 80. -/
def shaPrimes : List Nat := (List.range 410).filter fun p => 2 ≤ p ∧ ((List.range 21).all fun d => d < 2 || p ≤ d || p % d ≠ 0)
/-- The round constants are fractions of the cube roots of those primes. -/
def shaK : List Nat := shaPrimes.map (rootBits 3)
/-- The initial hash value is fractions of the square roots of the first eight. -/
def shaH : List Nat := (shaPrimes.take 8).map (rootBits 2)
/-- The number of big-endian bytes. -/
def beNat (bs : List Byte) : Nat := bs.foldl (fun n b => 256 * n + b.toNat) 0
/-- The big-endian bytes of a number. -/
def beBytes (n x : Nat) : List Byte := (leBytes n x).reverse
/-- A message with its padding: a one bit, zeros, and its length in bits in 16 bytes. -/
def shaPad (bs : List Byte) : List Byte :=
  bs ++ [0x80] ++ List.replicate ((239 - bs.length % 128) % 128) 0 ++ beBytes 16 (8 * bs.length)
/-- The next word of the message schedule; the list holds the last 16 words, the latest first. -/
def shaNext (w : List Nat) : Nat :=
  let a := w.getD 14 0
  let b := w.getD 1 0
  ((rotr a 1 ^^^ rotr a 8 ^^^ (a / 2 ^ 7)) + (rotr b 19 ^^^ rotr b 61 ^^^ (b / 2 ^ 6)) + w.getD 6 0 + w.getD 15 0) % 2 ^ 64
/-- The working variables of a round. -/
structure ShaVars where
  a : Nat
  b : Nat
  c : Nat
  d : Nat
  e : Nat
  f : Nat
  g : Nat
  h : Nat
/-- One round with the sum of its constant and its schedule word. -/
def ShaVars.round (v : ShaVars) (kw : Nat) : ShaVars :=
  let t1 := v.h + (rotr v.e 14 ^^^ rotr v.e 18 ^^^ rotr v.e 41) + ((v.e &&& v.f) ^^^ (notW v.e &&& v.g)) + kw
  let t2 := (rotr v.a 28 ^^^ rotr v.a 34 ^^^ rotr v.a 39) + ((v.a &&& v.b) ^^^ (v.a &&& v.c) ^^^ (v.b &&& v.c))
  { a := (t1 + t2) % 2 ^ 64, b := v.a, c := v.b, d := v.c, e := (v.d + t1) % 2 ^ 64, f := v.e, g := v.f, h := v.g }
/-- The rounds, with the words that the schedule still holds, oldest last. -/
def shaRounds : List Nat → List Nat → ShaVars → ShaVars
  | [], _, v => v
  | k :: ks, w, v => shaRounds ks ((shaNext w :: w).take 16) (v.round (k + w.getD 15 0))
/-- The variables of a hash value, and back. -/
def shaVars (h : List Nat) : ShaVars :=
  { a := h.getD 0 0, b := h.getD 1 0, c := h.getD 2 0, d := h.getD 3 0, e := h.getD 4 0, f := h.getD 5 0, g := h.getD 6 0
    h := h.getD 7 0 }
/-- The variables as a list. -/
def ShaVars.list (v : ShaVars) : List Nat := [v.a, v.b, v.c, v.d, v.e, v.f, v.g, v.h]
/-- One block of 128 bytes. -/
def shaBlock (h : List Nat) (bs : List Byte) : List Nat :=
  let w := (List.range 16).map fun i => beNat ((bs.drop (8 * (15 - i))).take 8)
  (h.zip (shaRounds shaK w (shaVars h)).list).map fun x => (x.1 + x.2) % 2 ^ 64
/-- SHA-512: the 64 bytes of a digest. -/
def shaBytes (bs : List Byte) : List Byte :=
  let m := shaPad bs
  ((List.range (m.length / 128)).foldl (fun h i => shaBlock h ((m.drop (128 * i)).take 128)) shaH).flatMap fun x => beBytes 8 x
/-- SHA-512, as a value whose lowest byte is the first. -/
def sha512 (bs : List Byte) : BitVec 512 := BitVec.ofNat 512 (leNat (shaBytes bs))

/-! ## RSASSA-PSS with RSA-4096, SHA-512, MGF1 with SHA-512 and a salt of 64 bytes -/

/-- A power modulo a number, by the bits of the exponent from the highest of `n`. -/
def powMod (b e m : Nat) : Nat → Nat
  | 0 => 1 % m
  | n + 1 =>
    let r := powMod b (e / 2) m n
    if e % 2 = 1 then r * r % m * b % m else r * r % m
/-- MGF1: `n` bytes from a seed. -/
def mgf1 (seed : List Byte) (n : Nat) : List Byte :=
  (((List.range ((n + 63) / 64)).flatMap fun i => shaBytes (seed ++ beBytes 4 i))).take n
/-- The bytes of one list exclusive-or those of another. -/
def xorBytes (xs ys : List Byte) : List Byte := (xs.zip ys).map fun x => x.1 ^^^ x.2
/-- A list of bytes without the highest bit of the first. -/
def clearTop (bs : List Byte) : List Byte :=
  match bs with
  | [] => []
  | b :: r => (b &&& 0x7F) :: r
/-- The digest that ends an encoded message: of eight zeros, the message's digest and the salt. -/
def pssHash (msg salt : List Byte) : List Byte := shaBytes (List.replicate 8 0 ++ shaBytes msg ++ salt)
/-- The encoding of a message, 512 bytes of 4095 bits. -/
def pssEncode (msg salt : List Byte) : List Byte :=
  let h := pssHash msg salt
  clearTop (xorBytes (List.replicate 382 0 ++ [1] ++ salt) (mgf1 h 447)) ++ h ++ [0xBC]
/-- Does an encoded message belong to a message? -/
def pssOk (msg em : List Byte) : Bool :=
  let h := (em.drop 447).take 64
  let db := clearTop (xorBytes (em.take 447) (mgf1 h 447))
  em.length == 512 && em.drop 511 == [0xBC] && (em.getD 0 0).toNat < 128 && db.take 383 == List.replicate 382 0 ++ [1]
    && pssHash msg (db.drop 383) == h
/-- Is a signature of 512 bytes one of a message by the key with a modulus and a public exponent? -/
def sigOk (n e : Nat) (msg sig : List Byte) : Bool :=
  beNat sig < n && pssOk msg (beBytes 512 (powMod (beNat sig) e n 4096))
/-- The signature of a message by the key with a modulus and a private exponent: 512 bytes. -/
def pssSign (n d : Nat) (salt msg : List Byte) : List Byte := beBytes 512 (powMod (beNat (pssEncode msg salt)) d n 4096)

end Sys2Proof.Machine
end

