-- ==== Sys2Proof/Machine/Fp.lean ====
section
/-! DEFINITION. Number formats (R228-R238), exact values, and the one rounding operation Round (R82, R83, R236,
R237). Everything is computed on exact integers: a finite value is a sign, a natural number and a power of two. -/
namespace Sys2Proof.Machine

/-- The floating flags of R83: bit 0 invalid, 1 divide by zero, 2 overflow, 3 underflow, 4 inexact. -/
abbrev FFlags := BitVec 5

/-- Flag bits of R83. -/
def flInvalid : FFlags := 1
/-- Divide by zero (R83). -/
def flDivZero : FFlags := 2
/-- Overflow (R83). -/
def flOverflow : FFlags := 4
/-- Underflow (R83). -/
def flUnderflow : FFlags := 8
/-- Inexact (R83). -/
def flInexact : FFlags := 16

/-- A rounding mode (R82); stochastic rounding carries the 32 random bits. -/
inductive Rm where
  | rne | rtz | rdn | rup | rna
  | sr (rnd : Nat)
deriving DecidableEq, Repr

/-- Which codes of a format are not numbers (R229). -/
inductive Special where
  /-- all-ones exponent: infinities and NaNs -/
  | ieee
  /-- E4M3: only the all-ones code is a NaN -/
  | nanOnly
  /-- every code is a number -/
  | none
deriving DecidableEq, Repr

/-- A floating element format (R228, R229). -/
structure Fmt where
  ebits : Nat
  mbits : Nat
  special : Special
deriving DecidableEq, Repr

/-- The exponent bias of a format (R229): 2^(E-1) - 1 in every format of the table. -/
def Fmt.bias (f : Fmt) : Int := (2 : Int) ^ (f.ebits - 1) - 1
/-- Bits of an element. -/
def Fmt.width (f : Fmt) : Nat := 1 + f.ebits + f.mbits
def fp64 : Fmt := ⟨11, 52, .ieee⟩
def fp32 : Fmt := ⟨8, 23, .ieee⟩
def fp16 : Fmt := ⟨5, 10, .ieee⟩
def bf16 : Fmt := ⟨8, 7, .ieee⟩
def e5m2 : Fmt := ⟨5, 2, .ieee⟩
def e4m3 : Fmt := ⟨4, 3, .nanOnly⟩
def e3m2 : Fmt := ⟨3, 2, .none⟩
def e2m3 : Fmt := ⟨2, 3, .none⟩
def e2m1 : Fmt := ⟨2, 1, .none⟩

/-- The positive code of the largest finite value (R229). -/
def Fmt.maxCode (f : Fmt) : Nat :=
  match f.special with
  | .ieee => (2 ^ f.ebits - 1) * 2 ^ f.mbits - 1
  | .nanOnly => 2 ^ (f.ebits + f.mbits) - 2
  | .none => 2 ^ (f.ebits + f.mbits) - 1
/-- The code of +infinity, in a format that has one. -/
def Fmt.infCode (f : Fmt) : Nat := (2 ^ f.ebits - 1) * 2 ^ f.mbits
/-- The canonical quiet NaN (R210, R230); a format without NaNs has none and answers 0. -/
def Fmt.nanCode (f : Fmt) : Nat :=
  match f.special with
  | .ieee => f.infCode + 2 ^ (f.mbits - 1)
  | .nanOnly => 2 ^ (f.ebits + f.mbits) - 1
  | .none => 0
/-- The sign bit of a format, as a number. -/
def Fmt.signBit (f : Fmt) (neg : Bool) : Nat := if neg then 2 ^ (f.ebits + f.mbits) else 0

/-- The value of an element: a NaN, an infinity, or (-1)^neg * m * 2^e. -/
inductive FVal where
  | nan (signalling : Bool)
  | inf (neg : Bool)
  | fin (neg : Bool) (m : Nat) (e : Int)
deriving DecidableEq, Repr

/-- Is the value a NaN? -/
def FVal.isNan : FVal → Bool
  | .nan _ => true
  | _ => false
/-- Is the value a signalling NaN? -/
def FVal.isSnan : FVal → Bool
  | .nan s => s
  | _ => false
/-- The sign of a value. -/
def FVal.sign : FVal → Bool
  | .nan _ => false
  | .inf n => n
  | .fin n _ _ => n
/-- Is the value a zero? -/
def FVal.isZero : FVal → Bool
  | .fin _ m _ => m == 0
  | _ => false
/-- The value with its sign changed. -/
def FVal.neg : FVal → FVal
  | .nan s => .nan s
  | .inf n => .inf !n
  | .fin n m e => .fin (!n) m e

/-- The value of a code (R228-R230). -/
def Fmt.decode (f : Fmt) (code : Nat) : FVal :=
  let mag := code % 2 ^ (f.ebits + f.mbits)
  let neg := code / 2 ^ (f.ebits + f.mbits) % 2 == 1
  let e := mag / 2 ^ f.mbits
  let m := mag % 2 ^ f.mbits
  if f.special = .ieee ∧ e = 2 ^ f.ebits - 1 then
    if m = 0 then .inf neg else .nan (m < 2 ^ (f.mbits - 1))
  else if f.special = .nanOnly ∧ mag = 2 ^ (f.ebits + f.mbits) - 1 then .nan false
  else if e = 0 then .fin neg m (1 - f.bias - f.mbits)
  else .fin neg (2 ^ f.mbits + m) ((e : Int) - f.bias - f.mbits)

/-- The number of bits of a natural number. -/
def bitLen (m : Nat) : Nat := if m = 0 then 0 else Nat.log2 m + 1

/-- Round m / 2^shift to an integer. `sticky` says that the true value exceeds m by less than one unit. The second
answer says whether the result differs from the value. A shift far beyond m's bits is cut to 64 bits: the value is
then below half of one unit either way, and below 2^-32 of one unit. -/
def roundShift (rm : Rm) (neg : Bool) (m : Nat) (shift : Nat) (sticky : Bool) : Nat × Bool :=
  let far := shift > bitLen m + 64
  let m' := if far && m != 0 then 1 else m
  let s := if far then 64 else shift
  let q := m' / 2 ^ s
  let r := m' % 2 ^ s
  let inexact := r != 0 || sticky
  let up : Bool :=
    match rm with
    | .rne => 2 * r > 2 ^ s || (2 * r == 2 ^ s && (sticky || q % 2 == 1))
    | .rna => 2 * r ≥ 2 ^ s && inexact
    | .rtz => false
    | .rdn => neg && inexact
    | .rup => !neg && inexact
    | .sr rnd => 2 ^ 32 * r / 2 ^ s + rnd ≥ 2 ^ 32 && inexact
  (if up then q + 1 else q, inexact)

/-- A result and its flags. -/
structure FRes where
  code : Nat
  fl : FFlags
deriving DecidableEq, Repr

/-- Does overflow give infinity under this mode (R82)? -/
def ovfInf (rm : Rm) (neg : Bool) : Bool :=
  match rm with
  | .rne => true
  | .rna => true
  | .sr _ => true
  | .rtz => false
  | .rdn => neg
  | .rup => !neg

/-- The code that overflow gives (R82, R237): `sat` is the SAT bit. -/
def Fmt.ovfCode (f : Fmt) (rm : Rm) (neg sat : Bool) : Nat :=
  if sat || !ovfInf rm neg then f.signBit neg + f.maxCode
  else
    match f.special with
    | .ieee => f.signBit neg + f.infCode
    | .nanOnly => f.nanCode
    | .none => f.signBit neg + f.maxCode

/-- Round of R82 with the flags of R83 and the overflow results of R237, of the value (-1)^neg * m * 2^e (plus less
than one unit of m where `sticky`). -/
def Fmt.round (f : Fmt) (rm : Rm) (sat : Bool) (neg : Bool) (m : Nat) (e : Int) (sticky : Bool := false) : FRes :=
  if m = 0 ∧ !sticky then ⟨f.signBit neg, 0⟩
  else
    let top : Int := e + bitLen m - 1
    let t : Int := max top (1 - f.bias) - f.mbits
    let (q, inexact) :=
      if t ≤ e then (m * 2 ^ (e - t).toNat, sticky) else roundShift rm neg m (t - e).toNat sticky
    let code : Int := if q < 2 ^ f.mbits then q else (t + f.mbits + f.bias) * 2 ^ f.mbits + (q - 2 ^ f.mbits : Nat)
    if code > f.maxCode then ⟨f.ovfCode rm neg sat, flOverflow ||| flInexact⟩
    else
      let tiny := q < 2 ^ f.mbits
      ⟨f.signBit neg + code.toNat,
       (if inexact then flInexact else 0) ||| (if tiny && inexact then flUnderflow else 0)⟩

/-- The canonical NaN with the given flags. -/
def Fmt.nanRes (f : Fmt) (fl : FFlags) : FRes := ⟨f.nanCode, fl⟩

/-- FTZ on the result of an FP32 operation (R82, R211): a nonzero subnormal becomes a zero of its sign, raising
underflow and inexact. Other formats are never flushed. DESIGN CHOICE (log 42): LOG2, SIN and COS raise the two flags as well,
though R246 lists a flush under EXP2 alone. -/
def ftzRes (f : Fmt) (ftz : Bool) (r : FRes) : FRes :=
  if f = fp32 ∧ ftz ∧ r.code % 2 ^ 31 < 2 ^ 23 ∧ r.code % 2 ^ 31 ≠ 0 then
    ⟨r.code / 2 ^ 31 % 2 * 2 ^ 31, r.fl ||| flUnderflow ||| flInexact⟩
  else r

/-- FTZ on an FP32 operand (R82): a subnormal reads as a zero of its sign, with no flag. -/
def ftzIn (f : Fmt) (ftz : Bool) (code : Nat) : Nat :=
  if f = fp32 ∧ ftz ∧ code % 2 ^ 31 < 2 ^ 23 then code / 2 ^ 31 % 2 * 2 ^ 31 else code

/-- Invalid if an operand is a signalling NaN (R210). -/
def snanFlag (vs : List FVal) : FFlags := if vs.any FVal.isSnan then flInvalid else 0

/-- The exact sum of two finite values: sign, magnitude, exponent. A zero sum of unlike signs is +0, under RDN -0;
of like signs it keeps the sign (R211). -/
def finAdd (rm : Rm) (n1 : Bool) (m1 : Nat) (e1 : Int) (n2 : Bool) (m2 : Nat) (e2 : Int) : Bool × Nat × Int :=
  let e := min e1 e2
  let a := m1 * 2 ^ (e1 - e).toNat
  let b := m2 * 2 ^ (e2 - e).toNat
  if n1 = n2 then (n1, a + b, e)
  else if a = b then (rm == .rdn, 0, e)
  else if b < a then (n1, a - b, e) else (n2, b - a, e)

/-- The sum of two finite values where an operand that is zero does not widen the other's exponent range. -/
def finSum (rm : Rm) (n1 : Bool) (m1 : Nat) (e1 : Int) (n2 : Bool) (m2 : Nat) (e2 : Int) : Bool × Nat × Int :=
  if m1 = 0 ∧ m2 ≠ 0 then (n2, m2, e2)
  else if m2 = 0 ∧ m1 ≠ 0 then (n1, m1, e1)
  else finAdd rm n1 m1 e1 n2 m2 e2

/-- Round(a + b) with the special cases of R211. -/
def fAddV (f : Fmt) (rm : Rm) (a b : FVal) : FRes :=
  match a, b with
  | .nan _, _ => f.nanRes (snanFlag [a, b])
  | _, .nan _ => f.nanRes (snanFlag [a, b])
  | .inf n1, .inf n2 => if n1 = n2 then ⟨f.signBit n1 + f.infCode, 0⟩ else f.nanRes flInvalid
  | .inf n, .fin _ _ _ => ⟨f.signBit n + f.infCode, 0⟩
  | .fin _ _ _, .inf n => ⟨f.signBit n + f.infCode, 0⟩
  | .fin n1 m1 e1, .fin n2 m2 e2 =>
    let (n, m, e) := finSum rm n1 m1 e1 n2 m2 e2
    f.round rm false n m e

/-- Round(a * b) with the special cases of R211. -/
def fMulV (f : Fmt) (rm : Rm) (a b : FVal) : FRes :=
  match a, b with
  | .nan _, _ => f.nanRes (snanFlag [a, b])
  | _, .nan _ => f.nanRes (snanFlag [a, b])
  | .inf n1, .inf n2 => ⟨f.signBit (n1 != n2) + f.infCode, 0⟩
  | .inf n1, .fin n2 m _ => if m = 0 then f.nanRes flInvalid else ⟨f.signBit (n1 != n2) + f.infCode, 0⟩
  | .fin n1 m _, .inf n2 => if m = 0 then f.nanRes flInvalid else ⟨f.signBit (n1 != n2) + f.infCode, 0⟩
  | .fin n1 m1 e1, .fin n2 m2 e2 => f.round rm false (n1 != n2) (m1 * m2) (e1 + e2)

/-- The exact product of two values that are not NaN, none where it is 0 * infinity. -/
def prodV (a b : FVal) : Option FVal :=
  match a, b with
  | .inf n1, .inf n2 => some (.inf (n1 != n2))
  | .inf n1, .fin n2 m _ => if m = 0 then none else some (.inf (n1 != n2))
  | .fin n1 m _, .inf n2 => if m = 0 then none else some (.inf (n1 != n2))
  | .fin n1 m1 e1, .fin n2 m2 e2 => some (.fin (n1 != n2) (m1 * m2) (e1 + e2))
  | _, _ => some (.nan false)

/-- Round(±(a*b) ± c) with one rounding (R211). 0 * infinity is invalid even when c is a quiet NaN. -/
def fFmaV (f : Fmt) (rm : Rm) (negP negC : Bool) (a b c : FVal) : FRes :=
  if a.isNan || b.isNan then f.nanRes (snanFlag [a, b, c])
  else
    match prodV a b with
    | none => f.nanRes flInvalid
    | some p => fAddV f rm (if negP then p.neg else p) (if negC then c.neg else c)

/-- The order of two values that are not NaN: less, equal or greater; the zeros are equal. -/
def cmpV (a b : FVal) : Ordering :=
  let key : FVal → Int × Nat × Int := fun v =>
    match v with
    | .nan _ => (0, 0, 0)
    | .inf n => (if n then -2 else 2, 0, 0)
    | .fin n m e => (if m = 0 then 0 else if n then -1 else 1, m, e)
  let (s1, m1, e1) := key a
  let (s2, m2, e2) := key b
  if s1 < s2 then .lt
  else if s2 < s1 then .gt
  else if s1 = 1 ∨ s1 = -1 then
    let e := min e1 e2
    let x := m1 * 2 ^ (e1 - e).toNat
    let y := m2 * 2 ^ (e2 - e).toNat
    if x = y then .eq else if (x < y) = (s1 = 1) then .lt else .gt
  else .eq

/-- FMIN and FMAX of R212, on codes: -0 is below +0, one NaN gives the other operand. -/
def fMinMax (f : Fmt) (wantMax : Bool) (a b : Nat) : FRes :=
  let va := f.decode a
  let vb := f.decode b
  let fl := snanFlag [va, vb]
  if va.isNan && vb.isNan then f.nanRes fl
  else if va.isNan then ⟨b, fl⟩
  else if vb.isNan then ⟨a, fl⟩
  else
    let aLess :=
      match cmpV va vb with
      | .lt => true
      | .gt => false
      | .eq => va.sign && !vb.sign
    ⟨if aLess != wantMax then a else b, 0⟩

/-- The eight conditions of R213 and the invalid flag each raises. -/
def fCond (code : Nat) (a b : FVal) : Bool × FFlags :=
  let un := a.isNan || b.isNan
  let sn := snanFlag [a, b]
  let qn : FFlags := if un then flInvalid else 0
  let c := cmpV a b
  match code with
  | 0 => (!un && c == .eq, sn)
  | 1 => (un || c != .eq, sn)
  | 2 => (!un && c == .lt, qn)
  | 3 => (!un && c != .gt, qn)
  | 4 => (!un && c == .gt, qn)
  | 5 => (!un && c != .lt, qn)
  | 6 => (!un, sn)
  | _ => (un, sn)

/-- A finite value rounded to an integer: magnitude and inexactness. -/
def roundIntMag (rm : Rm) (neg : Bool) (m : Nat) (e : Int) : Nat × Bool :=
  if 0 ≤ e then (m * 2 ^ e.toNat, false) else roundShift rm neg m (-e).toNat false

/-- FRND of R214, on FP32: integral values, sign of a zero kept, never inexact. -/
def fRound (rm : Rm) (a : Nat) : FRes :=
  match fp32.decode a with
  | .nan s => fp32.nanRes (if s then flInvalid else 0)
  | .inf n => ⟨fp32.signBit n + fp32.infCode, 0⟩
  | .fin n m e =>
    let (q, _) := roundIntMag rm n m e
    ⟨(fp32.round .rne false n q 0).code, 0⟩

/-- FCLASS of R214: the mask, read from the bits as stored. -/
def fClass (a : Nat) : Nat :=
  match fp32.decode a with
  | .nan s => if s then 2 ^ 8 else 2 ^ 9
  | .inf n => if n then 2 ^ 0 else 2 ^ 7
  | .fin n m _ =>
    if m = 0 then (if n then 2 ^ 3 else 2 ^ 4)
    else if m < 2 ^ 23 then (if n then 2 ^ 2 else 2 ^ 5)
    else (if n then 2 ^ 1 else 2 ^ 6)

/-- FSCALE of R214: Round(a * 2^b, FP32). -/
def fScale (rm : Rm) (a : Nat) (b : Int) : FRes :=
  match fp32.decode a with
  | .nan s => fp32.nanRes (if s then flInvalid else 0)
  | .inf n => ⟨fp32.signBit n + fp32.infCode, 0⟩
  | .fin n m e => fp32.round rm false n m (if m = 0 then 0 else e + b)

/-- FPMODE.RM (R111): 0 RNE, 1 RTZ, 2 RDN, 3 RUP. -/
def rmOfMode (n : Nat) : Rm :=
  match n % 4 with
  | 0 => .rne
  | 1 => .rtz
  | 2 => .rdn
  | _ => .rup

/-- A rounding override field (R209, R214, R243): 0 SR.FPMODE.RM, 1 RNE, 2 RTZ, 3 RDN, 4 RUP, 5 RNA. -/
def rmOverride (field mode : Nat) : Rm :=
  match field with
  | 0 => rmOfMode mode
  | 1 => .rne
  | 2 => .rtz
  | 3 => .rdn
  | 4 => .rup
  | _ => .rna

/-- The RND field of a conversion (R236); `rnd` is the random word rotated for the element. -/
def rmOfRnd (field rnd : Nat) : Rm :=
  match field with
  | 0 => .rne
  | 1 => .rtz
  | 2 => .rdn
  | 3 => .rup
  | 4 => .rna
  | _ => .sr rnd

end Sys2Proof.Machine
end

