-- ==== Sys2Proof/Syntax/Turn.lean ====
section
/-! DEFINITION. Turns: which unit of the machine acts next (log 1). -/
namespace Sys2Proof.Machine

/-- Who acts in a turn: a core's sequencer issues one word, or an engine takes a step. `dt` cycles of the reference
clock pass before it (log 1, log 3). -/
inductive Act where
  | issue (core : Nat)
  | event (i : Instr)
deriving DecidableEq, Repr, Inhabited

/-- One turn (log 1). -/
structure Turn where
  dt : Nat
  act : Act
deriving DecidableEq, Repr, Inhabited

end Sys2Proof.Machine
end

