-- ==== Sys2Proof/Config.lean ====
section
/-! DEFINITION. Values that the manual leaves open. Each is an opaque constant: nothing can be proved about its value,
so a statement that holds of the model holds whatever it is. -/
namespace Sys2Proof.Config

/-- A vector register that nothing has written (R9, R103, R104, R383, R410): by the group's, the register unit's and
the lane's seed, register and lane (log 6). -/
opaque freeVreg : Nat → Nat → Nat → Nat → Nat → BitVec 32
/-- A scalar of a team group at launch that the launch does not write (R142), by seed and number (log 7). -/
opaque freeScalar : Nat → Nat → BitVec 32
/-- A predicate at launch, by seed and number (log 7). -/
opaque freePred : Nat → Nat → BitVec 96
/-- An undefined 32-bit value that an operation leaves in a register or an accumulator (R9), by use and index. -/
opaque freeWord : Nat → Nat → BitVec 32
/-- An undefined byte that an operation leaves in memory (R148, R300, R406), by use and index. -/
opaque freeByte : Nat → Nat → BitVec 8
/-- The device's result of RSQ, EXP2, LOG2, SIN, COS, TANH or ERF (R245, R246), by opcode, width, operand and FTZ:
one fixed result each; `Func` keeps it only inside its bound (log 11). -/
opaque funcResult : Nat → Nat → Nat → Bool → Nat
/-- The vendor's public key, which the boot ROM verifies images by (R473): modulus and exponent (log 10). -/
opaque vendorKey : Nat × Nat
/-- The part's identity key (R475): modulus and private exponent (log 10). -/
opaque idKey : Nat × Nat
/-- The salt of a signature by the identity key (R476), by use (log 10). -/
opaque salt : Nat → BitVec 512
/-- The digest of the boot ROM (R475) (log 10). -/
opaque romDigest : BitVec 512
/-- The digest of the fuse state (R475), by the fused minimum SVN and BIN (log 10). -/
opaque fuseDigest : Nat → Nat → BitVec 512
/-- The certificate of the identity key, as the IDCERT window returns it (R475) (log 10). -/
opaque idCert : List (BitVec 8)

/-- Which unit acts, in a turn that the schedule does not name (log 1), by the number of the turn. -/
opaque turn : Nat → Machine.Turn
/-- A choice that the manual leaves to the implementation, such as which entry a full TLB replaces (R456), by use. -/
opaque freeIndex : Nat → Nat

end Sys2Proof.Config
end

