-- ==== Sys2Proof/Machine/Table.lean ====
section
/-! DEFINITION. Tables: finite maps from numbers to values as sorted lists, and memories as lists of bytes in one
canonical form (keys strictly rising, no byte equal to what an unlisted address reads as). -/
namespace Sys2Proof.Machine

/-- A finite map from numbers, as a list with strictly rising keys. -/
abbrev Tab (α : Type) := List (Nat × α)

/-- The entry of a key, if there is one. -/
def Tab.find {α : Type} : Tab α → Nat → Option α
  | [], _ => none
  | (k', v) :: r, k => if k' = k then some v else Tab.find r k

/-- The entry of a key, or a default. -/
def Tab.get {α : Type} (d : α) (t : Tab α) (k : Nat) : α := (Tab.find t k).getD d

/-- Set the entry of a key, keeping the keys rising. -/
def Tab.put {α : Type} : Tab α → Nat → α → Tab α
  | [], k, v => [(k, v)]
  | (k', v') :: r, k, v =>
    if k < k' then (k, v) :: (k', v') :: r
    else if k = k' then (k, v) :: r
    else (k', v') :: Tab.put r k v

/-- Remove the entry of a key. -/
def Tab.del {α : Type} : Tab α → Nat → Tab α
  | [], _ => []
  | (k', v') :: r, k => if k' = k then r else (k', v') :: Tab.del r k

/-- Set the entry of a key, listing nothing that equals the default. -/
def Tab.set {α : Type} [DecidableEq α] (d : α) (t : Tab α) (k : Nat) (v : α) : Tab α :=
  if v = d then Tab.del t k else Tab.put t k v

/-- The keys rise strictly from above `b`. -/
def Tab.above {α : Type} (b : Nat) : Tab α → Bool
  | [] => true
  | (k, _) :: r => decide (b ≤ k) && Tab.above (k + 1) r

/-- The keys rise strictly. -/
def Tab.wf {α : Type} (t : Tab α) : Bool := Tab.above 0 t

/-- Change the entry of a key, where there is one. -/
def Tab.upd {α : Type} (t : Tab α) (k : Nat) (f : α → α) : Tab α :=
  match Tab.find t k with
  | some v => Tab.put t k (f v)
  | none => t

/-- A memory: bytes by address in one canonical form. -/
abbrev Memory := List Host.Cell

/-- What an address that a memory does not list reads as (log 5). -/
def Memory.empty : Byte := 0
/-- The byte at an address. -/
def Memory.read (m : Memory) (a : Nat) : Byte := Tab.get Memory.empty m a
/-- Write one byte, keeping the canonical form. -/
def Memory.write (m : Memory) (a : Nat) (b : Byte) : Memory := Tab.set Memory.empty m a b
/-- The canonical form: addresses strictly rising, no listed byte equal to what an unlisted address reads as. -/
def Memory.wf (m : Memory) : Bool := Tab.wf m && m.all fun c => c.2 != Memory.empty
/-- `n` bytes from an address, lowest first. -/
def Memory.readN (m : Memory) (a n : Nat) : List Byte := (List.range n).map fun i => Memory.read m (a + i)
/-- Write bytes from an address, lowest first. -/
def Memory.writeN (m : Memory) (a : Nat) : List Byte → Memory
  | [] => m
  | b :: bs => Memory.writeN (Memory.write m a b) (a + 1) bs

end Sys2Proof.Machine
end

