-- ==== Sys2Proof/Machine/State.lean ====
section
/-! DEFINITION. The state of the machine: everything the manual gives the Viori Oatus, as plain data, and its value
after reset. One record per kind of unit; the numbers that key the tables are given at each field of `State`. -/
namespace Sys2Proof.Machine

/-- Why the machine stops. -/
inductive Fault where
  /-- raised by step: a turn taken while the package has no power (R474, R485); safe, for no part then acts -/
  | noPower
deriving DecidableEq, Repr

/-- Why an instruction has no meaning. -/
inductive Refusal where
  /-- raised by exec for an instruction that is not modelled; safe. No arm of this model raises it. -/
  | notModelled (mnemonic : String)
deriving DecidableEq, Repr

/-! ## Memory accesses under way (04, 05) -/

/-- What one access of at most 8 bytes does (R151-R153, R175-R178, R182). -/
inductive AccKind where
  | load
  | store
  /-- atomic of R152: operation code, signed, and whether it returns -/
  | atom (aop : Nat) (signed ret : Bool)
  | cas
  /-- reduction of R178: operation code, signed, float -/
  | red (aop : Nat) (signed float : Bool)
  /-- write-back of a named L1 line (R182), with invalidation -/
  | wb (inval : Bool)
deriving DecidableEq, Repr

/-- One single-copy atomic unit of a word's access (R184): at most 8 bytes of one lane. Lane 96 is the scalar
access of U = 1. `addr` is the scratchpad key or the home address; `va` the pointer as issued. -/
structure Part where
  lane : Nat
  addr : Nat
  va : W64
  n : Nat
  reg : Nat
  data : W64
  swap : W64
  done : Bool
  written : Bool
  got : W64
  err : Bool
deriving DecidableEq, Repr

/-- A memory word under way. `release` lists the write-backs its release action still waits for, once begun (R165). -/
structure MemOp where
  isLocal : Bool
  kind : AccKind
  size : Size
  signExt : Bool
  uni : Bool
  d : Nat
  ord : Ord
  scope : Scope
  hint : Nat
  tag : Nat
  homeServed : Bool
  cond : Nat
  release : Option (List Nat)
  parts : List Part
  /-- the word read a register with an uncorrectable error: what it writes to registers is undefined (R479) -/
  spoil : Bool := false
  /-- WAITA: the page of a lane has stopped permitting its read while the fragment could not trap: SPACE is due for that
  address and lane (R155) -/
  denied : Option (W64 × Nat) := none
deriving DecidableEq, Repr

/-! ## Sequencer state (03) -/

/-- What a fragment waits for (R54, R56, R98, R104, R107, R133, R154, R180, R281, R401). -/
inductive Wait where
  | none
  /-- at a header, on WAITMASK -/
  | header
  /-- the next word would take flag `n` from 63 to 64 -/
  | flagFull (n : Nat)
  /-- WAITF on the flags of a mask -/
  | flags (mask : Nat)
  /-- MFENCE on the flags of a mask (R281) -/
  | mfence (mask : Nat)
  /-- GIVEBACK: every flag zero -/
  | allFlags
  | regang
  /-- at REGROUP, with its predicate and its first and last vector -/
  | regroup (d a b : Nat)
  /-- a matrix request that is not yet accepted (R262) -/
  | accept (rq : Nat)
  /-- BARARV or BARSYN, until the group's earlier accesses are performed (R107) -/
  | performs
  /-- halted at BKPT for a debugger, with the word's IMM22 (R482) -/
  | bkpt (imm : Nat)
  | barrier (b : Nat)
  | sleep (till : Nat)
  | waita (m : MemOp)
  | waitge (m : MemOp)
  /-- a FENCE that has not completed, with the write-backs its release action waits for, once begun -/
  | fence (release : Option (List Nat))
  /-- a word held by a FENCE (R179) or a departure (R402) of the group -/
  | fenceHold
  /-- due to depart from its segment: target, live set (R401) -/
  | depart (target : Nat) (live : Option (List W32))
deriving DecidableEq, Repr

/-- A fragment (R93, R125). `word` = 0 means at the header; `hw` is the header in force, absent until it is fetched
again after a return into the clause (R58). `heldTrap` and `heldUi` hold it during a handler (R113, R116). -/
structure Frag where
  id : Nat
  hdr : Nat
  word : Nat
  hw : Option Header
  members : Lanes
  mask : Lanes
  wait : Wait
  since : Nat
  age : Nat
  paused : Bool
  heldTrap : Bool
  heldUi : Bool
deriving DecidableEq, Repr

/-- A deferred entry of a slice (R96, R97, R125). -/
structure Deferred where
  slice : Nat
  lanes : Lanes
  hdr : Nat
  order : Nat
  heldTrap : Bool
  heldUi : Bool
deriving DecidableEq, Repr

/-- The SR.EADDR and DETAIL values of a cause's latest recording (R117). -/
structure CauseRec where
  eaddr : W64
  detail : Nat
deriving DecidableEq, Repr

/-- The registers of a group (R23). `v` lists vector registers by 96*n + lane; an unlisted one is a free value named
by the seeds (log 6). `sFree`, `pFree`: unlisted scalars and predicates are free values (log 7), else zero. -/
structure Regs where
  v : Tab W32
  vSeed : Nat
  uSeed : Tab Nat
  lSeed : Tab Nat
  s : Tab W32
  sFree : Bool
  p : Tab Lanes
  pFree : Bool
  /-- words that show an uncorrectable error (R477): vectors by 96*n + lane, scalars by 2^20 + n, predicate n's lanes 32k to
  32k + 31 by 2^21 + 4*n + k -/
  bad : List Nat := []
deriving DecidableEq, Repr

/-- The trap and user-interrupt registers of a group (R58, R110-R119). -/
structure TrapSt where
  cause : W32
  tmask : W32
  plevel : Nat
  epc : W64
  epcHdr : Nat
  epcHw : Bool
  hvec : W64
  eaddr : W64
  einfo : W32
  savedMask : Lanes
  savedLevel : Nat
  info : Tab CauseRec
  uivec : W64
  uiepc : W64
  uiepcHdr : Nat
  uiepcHw : Bool
  uisrc : W32
  uien : Bool
  uiact : Bool
  uipend : Bool
deriving DecidableEq, Repr

/-- The three kinds of unit (R118, R120). -/
inductive UnitRef where
  | team (tk : Nat)
  /-- a task group, by its number `uid` -/
  | task (uid : Nat)
  | slalom (grid : Nat)
deriving DecidableEq, Repr

/-- How a group ends when it retires (R119, R384, R437). -/
inductive Ending where
  | normal
  | skipped
deriving DecidableEq, Repr

/-- What an outstanding long-latency operation still does (R56, R57). -/
inductive OpKind where
  /-- function-and-conversion word (R240-R242): register writes by 96*n + lane still to be made, flags, SR.FPMODE as read at issue -/
  | fc (writes : Tab W32) (fl : BitVec 5) (fpmode : W32)
  | mem (m : MemOp)
  /-- a matrix request, by its number in the cluster's list, until its flag falls (R262, R265) -/
  | request (rq : Nat)
  /-- MWAIT (R282): destination scalar, accumulator mask, requests covered -/
  | mwait (d : Nat) (mask : Nat) (covers : List Nat)
  /-- MXSTAT (R283): destination scalar, selector, issue time -/
  | mxstat (d sel issued : Nat)
  /-- a store instruction's or a trigger instruction's scalar results (R340, R387-R389), decided and not yet
  written; `acq`: it acquires at DEVICE scope when it completes (R354) -/
  | scalars (writes : List (Nat × W32)) (acq : Bool)
  /-- KVINS until its switch (R352): destination, reserve, block once one is marked filling, whether a key was evicted
  for it, priority, key, source pointer, and the source's home addresses as runs of bytes -/
  | kvins (d reserve : Nat) (block : Option Nat) (ev : Bool) (prio : Nat) (key src : W64) (runs : List (Nat × Nat))
  /-- XPOSE (R355): source and destination pointers, shape -/
  | xpose (d : Nat) (src dst : W64) (es rows cols spitch dpitch : Nat)
  /-- SEND (R418): destination, consumers still to be served (a remote one adds 1000), ring offset, length, pointer, the
  payload's bytes as runs of scratchpad keys or home addresses, the payload once it has been read, status so far -/
  | send (d : Nat) (todo : List Nat) (off len : Nat) (src : W64) (isScr : Bool) (runs : List (Nat × Nat))
      (payload : Option (List Byte)) (status : Nat)
  /-- SEGREP (R420): destination, segment, core -/
  | segrep (d seg core : Nat)
deriving DecidableEq, Repr

/-- One outstanding operation of a group: its number, the flag it holds, what it does, and the fragment that issued it
(R81). -/
structure Op where
  id : Nat
  flag : Nat
  kind : OpKind
  frag : Nat := 0
  /-- the word read a register with an uncorrectable error (R479) -/
  spoil : Bool := false
deriving DecidableEq, Repr

/-- What a task group's end needs (R123). -/
structure TaskInfo where
  queue : Nat
  succ32 : Bool
  succ : W64
  statAddr : W64
  retries : Nat
  /-- the code object (R122) -/
  code : W64
deriving DecidableEq, Repr

/-- A group (R23, R111): its registers, fragments and state; the key of the table is 32*core + slot. -/
structure Group where
  uid : Nat
  unit : UnitRef
  grid : Nat
  role : Nat
  gnum : Nat
  /-- linear team or group ID (R26, R395); a task's queue number -/
  lin : Nat
  tx : Nat
  ty : Nat
  tz : Nat
  asid : Nat
  tenant : Nat
  part : Nat
  prio : Nat
  budget : Nat
  task : Option TaskInfo
  swapt : Nat
  fpmode : W32
  fpflags : W32
  regs : Regs
  trap : TrapSt
  flags : Tab Nat
  flagErr : Tab CauseRec
  frags : List Frag
  deferred : List Deferred
  nextFrag : Nat
  nextOrder : Nat
  exited : Lanes
  arrgen : Tab Nat
  guardRep : Option Nat
  fenced : Bool
  arrivedAt : Option Nat
  ops : List Op
  ending : Ending
  halted : Bool
  /-- has it issued a matrix instruction since its team's dispatch (R122)? -/
  usedMx : Bool := false
  /-- has it met the first two conditions of R108, so that it issues nothing more before it is swapped out? -/
  draining : Bool := false
deriving DecidableEq, Repr

/-- A team barrier (R106): expected count, arrived groups, generation. -/
structure Barrier where
  expect : Nat
  arrived : BitVec 16
  gen : W32
deriving DecidableEq, Repr

/-- The error state of a command ring (R290, R319). -/
structure RingState where
  off : Nat
  entries : Nat
  cons : W32
  erridx : W32
  /-- PROD as the engine last read it, and whether that left a RING error -/
  prod : W32
  bad : Bool
  /-- a write has been applied to PROD's granule, and the engine has not read PROD since (R290) -/
  touched : Bool
deriving DecidableEq, Repr

/-- A team context (R24, R29, R106, R140): the key of the table is 8*core + context. -/
structure Team where
  grid : Nat
  linear : Nat
  tx : Nat
  ty : Nat
  tz : Nat
  tenant : Nat
  asid : Nat
  part : Nat
  prio : Nat
  codeObj : W64
  groups : Nat
  live : Nat
  reserve : Nat
  base : Nat
  size : Nat
  guardFront : Nat × Nat
  guardBack : Nat × Nat
  ring : Option RingState
  ctable : Option Nat
  barriers : Tab Barrier
  usedMatrix : Bool
  /-- a copy error that no live group could receive (R437 kind 7) -/
  copyErr : Option CauseRec
  /-- has a group of it issued its first clause header (R47)? -/
  begun : Bool
deriving DecidableEq, Repr

/-! ## Caches and write-backs (05) -/

/-- A line of an L1 (R161): physical line, ASID, masks, class, recency, and the 128 bytes it holds. -/
structure L1Line where
  line : Nat
  asid : Nat
  valid : BitVec 128
  dirty : BitVec 128
  cls : Nat
  used : Nat
  data : Memory
  /-- bytes that show an uncorrectable error -/
  err : BitVec 128
deriving DecidableEq, Repr

/-- A write-back under way (R166): which line of which ASID of this core's L1. -/
structure WriteBack where
  id : Nat
  line : Nat
  asid : Nat
  inval : Bool
deriving DecidableEq, Repr

/-- A cached translation (R456): ASID, first virtual and physical address, bytes, permissions. -/
structure TlbEntry where
  asid : Nat
  va : Nat
  pa : Nat
  size : Nat
  perms : Nat
  tier : Nat
deriving DecidableEq, Repr

/-! ## Matrix engine (08) -/

/-- An operand of a matrix request: registers of the group, or a scratchpad tile (R266, R269). -/
inductive MxSrc where
  | none
  | regs (n : Nat)
  | tile (base pitch rot tile : Nat)
deriving DecidableEq, Repr

/-- The kinds of matrix request (R262). `opc` of an MMA is its opcode. -/
inductive MxKind where
  | mma (opc fn : Nat)
  | msca (fn : Nat) (int : Bool) (partialAcc : Nat)
  | maccld (slab : Nat) (follower : Bool)
  | maccst (slab : Nat) (follower : Bool) (dst : MxSrc)
  | maccz (mask : Nat) (follower : Bool)
deriving DecidableEq, Repr

/-- Where a matrix request stands (R262-R265). -/
inductive MxStage where
  | sent
  /-- in the reservation table, with its place in the order of acceptance -/
  | accepted (order : Nat)
  /-- on its array until the given time -/
  | running (ends : Nat)
  /-- retired at a time; kept until an MWAIT has covered it (R282) -/
  | retired (time : Nat)
deriving DecidableEq, Repr

/-- A matrix request (R262). `idx` is its index for MWAIT; `wide`: it involves the follower's array; `taint`: an
operand was written in its interval (R267); a mark carries the address that its report gives (R282); `rowsA` and
`rowsB` are the operand rows as read at start (R266). -/
structure MxReq where
  uid : Nat
  unit : UnitRef
  tenant : Nat
  core : Nat
  prio : Nat
  kind : MxKind
  idx : Nat
  a : MxSrc
  b : MxSrc
  wide : Bool
  issued : Nat
  stage : MxStage
  age : Nat
  taint : Bool
  layout : Option W64
  mxfault : Option W64
  dataerr : Option W64
  rowsA : List (List Byte)
  rowsB : List (List Byte)
deriving DecidableEq, Repr

/-- Who holds an array (R260, R271). For a follower's array: the accumulators that wide requests wrote, and the group
that last issued one (R285). -/
structure ArrayOwner where
  unit : UnitRef
  follower : Bool
  wrote : List Nat
  last : Nat
  /-- the number of that request: numbers rise in the order of issue -/
  lastRq : Nat := 0
deriving DecidableEq, Repr

/-- A relay token (R274): its position, since when it stands there free, or the core whose array holds it, and the
partition that owns it (R275). -/
structure Token where
  pos : Nat
  since : Nat
  holder : Option Nat
  part : Option Nat
deriving DecidableEq, Repr

/-- The matrix array of a core (R259, R274, R283). `acc` lists accumulators by number, each as 64 rows of 64 elements;
an unlisted one is zero. `bad` lists elements that show an uncorrectable error, by 4096*m + 64*r + c. `passesHeld`
counts the passes begun since the token was captured, `idleSince` is when the last of them ends. -/
structure ArraySt where
  acc : Tab (List (List W32))
  bad : List Nat
  owner : Option ArrayOwner
  token : Option Nat
  passesHeld : Nat
  idleSince : Nat
  passes : W32
  tokwait : W32
deriving DecidableEq, Repr

/-! ## Copy engine (09) -/

/-- Where a copy command stands (R291, R309, R314). -/
inductive CopyStage where
  | running (row : Nat)
  /-- every share of a WHOLE payload has arrived; not yet applied -/
  | whole
  | delivered
deriving DecidableEq, Repr

/-- A copy command in flight (R292, R294): the entry, what was read at take, and its progress. -/
structure CopyCmd where
  tk : Nat
  index : Nat
  w0 : W64
  w1 : W64
  w2 : W64
  w3 : W64
  shape : List Byte
  idx : List Nat
  valueDesc : Option W64
  stage : CopyStage
  counted : Nat
  /-- bytes of a WHOLE payload held at their slices: home address and byte (R314) -/
  held : List (Nat × Byte)
  /-- bytes read and written so far, by home address, or 2^62 + scratchpad key (R300) -/
  seen : List Nat
  wrote : List Nat
deriving DecidableEq, Repr

/-- The word being issued: group key and fragment number. -/
structure Sel where
  gk : Nat
  fid : Nat
deriving DecidableEq, Repr

/-- A unit that KillUnit ends (R118): what its error record (R437) will say, and the PREEMPT that discards it, if one
does (R449). -/
structure Kill where
  unit : UnitRef
  tenant : Nat
  part : Nat
  grid : Nat
  lin : Nat
  core : Nat
  cause : Nat
  epc : W64
  eaddr : W64
  einfo : W32
  /-- the PREEMPT packet that discards the unit -/
  packet : Option (Nat × Nat)
deriving DecidableEq, Repr

/-! ## Store engine (10) -/

/-- A line of the store cache of a slice (R329, R331): physical line, tenant whose units hold it, masks, stream mark,
last use. The bytes themselves are in `State.mem`, which holds the home order (R169). -/
structure StoreLine where
  line : Nat
  tenant : Nat
  valid : BitVec 128
  dirty : BitVec 128
  stream : Bool
  used : Nat
  /-- the tenant whose access dirtied each byte, by its place in the line (R479) -/
  by_ : Tab Nat := []
deriving DecidableEq, Repr

/-- An access that waits on a line's miss: group, operation and part (R326, R329); or a request of an engine's act, with the
slot and the fragment that it is for, where it is for one. -/
structure Waiter where
  gk : Nat
  op : Nat
  part : Nat
  eng : Option Act := none
deriving DecidableEq, Repr

/-- What a step that must wait leaves behind: an access that wakes a layer (R337), or a request of an engine that joins a
line's miss (R329), `late` only where the whole step comes to nothing yet. -/
inductive Ask where
  | wake (tenant addr : Nat)
  | join (slice line tenant : Nat)
  | late (slice line tenant : Nat)
deriving DecidableEq, Repr

/-- An entry of a slice's miss table (R329): the line, the tenant, and the accesses that wait, in order of arrival. -/
structure Miss where
  line : Nat
  tenant : Nat
  waiters : List Waiter
deriving DecidableEq, Repr

/-- A bonded region (R480). -/
structure Bond where
  spares : Nat
  repair : Nat
  drift : Bool
deriving DecidableEq, Repr

/-- A slice (R324, R329, R480). The key of the table is 64*die + position. -/
structure SliceSt where
  lines : List StoreLine
  misses : List Miss
  bond0 : Bond
  bond1 : Bond
deriving DecidableEq, Repr

/-- An extent of a partition table (R332). -/
structure Extent where
  kind : Nat
  policy : Nat
  span : Nat
  first : Nat
  sbase : Nat
  units : Nat
  obase : Nat
deriving DecidableEq, Repr

/-- A residency contract (R341-R346), in contract order. `pages` lists the physical pages of acceptance, in address
order; `counter` the home address of the expiry counter and its target. -/
structure Contract where
  base : Nat
  prio : Nat
  late : Bool
  fill : Bool
  expiry : Bool
  counter : Option (Nat × Nat)
  pages : List Nat
  active : Bool
  order : Nat
deriving DecidableEq, Repr

/-- A block of a key-value reserve (R350): its state is free, filling (`busy`) or holding a key. -/
structure Block where
  key : Option W64
  busy : Bool
  gen : W32
  prio : Nat
  recent : Nat
  inserted : Nat
deriving DecidableEq, Repr

/-- A key-value reserve (R350): blocks by number, and its EVICTS counter (R358). -/
structure Reserve where
  blocks : Tab Block
  evicts : Nat
deriving DecidableEq, Repr

/-- A tenant (R332, R358, R436): its TCFG block, and, while it is bound, its partition table and the state over it. -/
structure TenantSt where
  tcfg : BitVec 256
  bound : Bool
  cquota : Nat
  extents : List Extent
  contracts : List Contract
  reserves : Tab Reserve
  lateHbm : Nat
  lateHost : Nat
  latePeer : Nat
  wakes : Nat
  flogProd : Nat
  migStall : Nat
  rinkKey : Nat
deriving DecidableEq, Repr

/-- A layer of a die (R336-R338): 0 ACTIVE, 1 RETENTION, 2 OFF. `ends` is the time of a transition under way; `dbg`: a
debug read woke it, and returns it to RETENTION (R483). -/
structure Layer where
  state : Nat
  target : Nat
  ends : Option Nat
  dbg : Bool := false
deriving DecidableEq, Repr

/-! ## Trigger engine and task queues (11) -/

/-- Who a user-interrupt action targets (R376, R411): the group that armed, or for slalom its grid and GID and the
lowest lane of the arming fragment. -/
inductive UiTarget where
  | none
  | group (uid : Nat)
  | slalom (grid gid lane : Nat)
deriving DecidableEq, Repr

/-- A trigger entry (R363-R377). The key of the table is 1024*die + index. `segs` lists the range as home addresses
and lengths; `slices` the slices that hold a filter; `unsent` the counts by slice and the time of the first byte. -/
structure Trig where
  state : Nat
  gen : Nat
  tenant : Nat
  watch : Bool
  action : Nat
  autofree : Bool
  disarmed : Bool
  barw32 : Bool
  target : Nat
  count : Nat
  home : Nat
  segs : List (Nat × Nat)
  slices : List Nat
  unsent : Tab (Nat × Nat)
  queue : Nat
  bar : Nat
  addend : W64
  record : List Byte
  ui : UiTarget
deriving DecidableEq, Repr

/-- A count on its way to the counter-home slice (R370). -/
structure Count where
  entry : Nat
  gen : Nat
  bytes : Nat
deriving DecidableEq, Repr

/-- A task queue (R380, R381): its binding; the records queued, each with its slot and its place in push order. -/
structure TaskQ where
  bound : Bool
  tenant : Nat
  asid : Nat
  part : Nat
  ring : W64
  slots : Nat
  hvec : W64
  tail : Nat
  recs : List (Nat × Nat × List Byte)
  /-- numbers of the physical pages of the ring, as the last push found them -/
  pages : List Nat := []
deriving DecidableEq, Repr

/-! ## Grids and slalom (12, 13) -/

/-- A code object's header (R90). -/
structure CodeObj where
  kind : Nat
  nargs : Nat
  prio : Nat
  vbudget : Nat
  features : Nat
  entry : Nat
  textOff : Nat
  textSize : Nat
  scratch : Nat
  guard : Nat
  ringOff : Nat
  ringEntries : Nat
  ctableOff : Nat
  segTab : Nat
  segCount : Nat
  /-- groups and budget in units of 8, of each role -/
  roles : List (Nat × Nat)
deriving DecidableEq, Repr

/-- A segment (R397): code offset and length, cores in list order, exit live set. -/
structure Segment where
  off : Nat
  len : Nat
  cores : List Nat
  live : List W32
deriving DecidableEq, Repr

/-- What a slalom grid adds (R393-R412): its cores, its segment map and the map's generation, the spill ring's
store-space offset (none without a ring), which cores have forwarded a spilled record (by SPSEQ), the next launch
record, and whether its spilled records were lost. `cmap` is the core map of its resumption (R424). -/
structure SlalomSt where
  cores : List Nat
  segs : List Segment
  mapGen : Nat
  spill : Option Nat
  spillFwd : Tab (List Nat)
  cmap : List (Nat × Nat)
  launchNext : Nat
  /-- the text of the code object as the launch read it, by code-object offset (R399) -/
  code : Memory
  lost : Bool
  started : Bool
  /-- the values that the device keeps for the causes of lanes that a leap record carries (R117), by 96*GID + lowest lane -/
  causes : Tab (Tab CauseRec) := []
  /-- when its launch, or its last RESUME, was accepted (R393) -/
  accepted : Nat := 0
deriving DecidableEq, Repr

/-- A grid (R26, R448). The key of the table is its own number. -/
structure Grid where
  gridid : Nat
  tenant : Nat
  asid : Nat
  part : Nat
  cls : Nat
  code : W64
  obj : CodeObj
  sx : Nat
  sy : Nat
  sz : Nat
  args : List W32
  hvec : W64
  place : Option Nat
  /-- its place among the packets taken (R448) -/
  order : Nat
  nextTeam : Nat
  live : Nat
  killed : Nat
  slalom : Option SlalomSt
deriving DecidableEq, Repr

/-- The leap unit and the instruction store of a core that a slalom grid holds (R394-R408). `fwd` lists, by queue
slot, the cores that have forwarded its record in this map generation. -/
structure LeapSt where
  grid : Nat
  seg : Option Nat
  store : Memory
  qhead : Nat
  qcount : Nat
  repin : Option Nat
  map : List (List Nat)
  hints : Tab Nat
  fwd : Tab (List Nat)
deriving DecidableEq, Repr

/-- A swapped-out group (R108): the core whose swap pool holds its image and the image's place there (R435), and when its
wake event came. -/
structure Swapped where
  core : Nat
  off : Nat
  group : Group
  due : Option Nat
deriving DecidableEq, Repr

/-! ## Front end (13) -/

/-- A partition (R438-R441): its PARTCFG register, the code and HALTED of PARTSTAT, its place in the order of
formation of reservations. -/
structure PartSt where
  cfg : BitVec 128
  code : Nat
  halted : Bool
  formed : Option Nat
deriving DecidableEq, Repr

/-- A host queue (R442): its QCFG block and indices. -/
structure HostQ where
  cfg : BitVec 256
  head : Nat
  tail : Nat
deriving DecidableEq, Repr

/-- A packet taken and not yet complete (R443-R447): its bytes, when it was taken, and whether its effect has begun. -/
structure Packet where
  queue : Nat
  index : Nat
  bytes : List Byte
  cls : Nat
  asid : Nat
  tenant : Nat
  priv : Bool
  taken : Nat
  begun : Bool
  /-- COPY: bytes moved and the end of the move; PREEMPT: units captured and still to be captured -/
  value : Nat
  pending : Nat
  /-- PREEMPT: a unit of it was killed first (R479) -/
  lost : Bool := false
  /-- LAUNCH: the grid that it began, or that it resumes -/
  grid : Option Nat := none
  /-- the bytes of the core map, read at take (R425) -/
  map : Option (List Byte) := none
deriving DecidableEq, Repr

/-- A unit that pre-emption captures (R120, R449): where its image goes, and what then becomes of it. -/
structure Capture where
  unit : UnitRef
  image : Nat
  first : Nat
  park : Bool
  queue : Nat
  packet : Nat
deriving DecidableEq, Repr

/-- What the front end keeps of a captured fragment or deferred entry that its split-table entry does not say (log 28):
which handlers hold it, the code and argument of its wait below that, and the operands of the REGROUP at which it waits. -/
structure HeldFrag where
  idx : Nat
  trap : Bool
  ui : Bool
  code : Nat
  arg : Nat
  regroup : Option (Nat × Nat × Nat)
deriving DecidableEq, Repr

/-- A captured group (R376, R411, R422): its number, its GID, the address of its image, the live set of each fragment that
a LEAP made due to depart, by its split-table index, the values kept for the causes that are set (R117), and what its
fragments' waits need (R121): the fragments, and when the group arrived at its REGROUP (R104). -/
structure HeldGroup where
  uid : Nat
  gid : Nat
  image : Nat
  departs : List (Nat × List W32)
  info : Tab CauseRec
  frags : List HeldFrag := []
  arrived : Option Nat := none
deriving DecidableEq, Repr

/-- The front end's record of a captured unit (R449, R450): grid (none for a task group), unit number, image address
and ASID, the PREEMPT's IMAGE address; `ready` once it may re-enter; the core map of a RESUME. -/
structure HeldUnit where
  grid : Option Nat
  unit : Nat
  tenant : Nat
  asid : Nat
  part : Nat
  image : Nat
  first : Nat
  ready : Bool
  packet : Option (Nat × Nat)
  map : List (Nat × Nat)
  groups : List HeldGroup
  /-- addresses of the queued records in a grid's image -/
  recs : List Nat
  /-- had a team begun execution (R47)? -/
  begun : Bool
deriving DecidableEq, Repr

/-- A page migration (R459, R460): its fields, the passes begun, and the lines marked since the last one. -/
structure Migration where
  src : Nat
  dst : Nat
  size : Nat
  leaf : Nat
  va : Nat
  asid : Nat
  passes : Nat
  marked : List Nat
deriving DecidableEq, Repr

/-- An invalidation under way (R457): scope, ASID, first virtual page, pages. -/
structure Inval where
  scope : Nat
  asid : Nat
  va : Nat
  pages : Nat
deriving DecidableEq, Repr

/-- A bias flip under way (R467). -/
structure Flip where
  first : Nat
  count : Nat
  toHost : Bool
deriving DecidableEq, Repr

/-- The management state of the front end (R429-R443): ownership, the plain registers, arbitration, invalidation,
migration, debug. `raw` holds the other bytes of the registers with a GO field, as last written (R433). -/
structure FrontEnd where
  owner : Nat
  nextOwner : Nat
  leaseMs : Nat
  leaseFrom : Nat
  ignWr : Nat
  saveBase : W64
  asidTab : W64
  biasBase : W64
  routeBase : W64
  rinkId : W32
  qWeight : W32
  pwrLimit : W32
  ceThresh : W32
  exports : Tab W64
  iregions : Tab (BitVec 128)
  raw : Memory
  roundClass : Nat
  roundUsed : Nat
  lastQueue : Tab Nat
  inval : Option Inval
  flip : Option Flip
  migs : Tab Migration
  migFailed : BitVec 16
  migSlot : Nat
  migCode : Nat
  claim : Option Nat
  opStatus : Nat
  rdStatus : Nat
  /-- a debug read under way: slice, slice byte, and the status that its start gave it (R483) -/
  dbgRead : Option (Nat × Nat × Nat)
  dbgData : W64
  formedNext : Nat
deriving DecidableEq, Repr

/-! ## Links, security, reliability, power (14) -/

/-- A Rink port (R468): up or down, and the replays of the flit under way. -/
structure Port where
  up : Bool
  /-- failed replays of the flit that it sends -/
  replays : Nat
  /-- failed replays of the flit that it receives -/
  replaysIn : Nat := 0
deriving DecidableEq, Repr

/-- An entry of DEVLOG (R433). -/
structure DevLog where
  addr : W64
  store : Nat
  kind : Nat
  clock : W64
deriving DecidableEq, Repr

/-- Boot, identity, reliability and the host link (R464-R481). -/
structure Platform where
  /-- has the management logic power (R485)? -/
  mgmtOn : Bool
  bin : Nat
  lanes : Nat
  speed : Nat
  ports : Tab Port
  /-- the bytes of the firmware slot, and of the recovery window (R472, R474) -/
  flash : Memory
  recovery : Memory
  /-- the CXL component registers, BAR index 4 (R464) -/
  cxlComp : Memory
  fusedSvn : Nat
  bootSvn : Nat
  bootCode : Nat
  bootMode : Nat
  fwBusy : Option (Nat × Nat)
  /-- how far a write of the slot that was cut short had reached (R474) -/
  torn : Option Nat
  fwSvn : Nat
  fwCode : Nat
  meas : Tab (BitVec 512)
  /-- the report under way, up to its signature (R476) -/
  attest : Option (List Byte)
  report : List Byte
  ceCount : Tab Nat
  devlog : Tab DevLog
  devlogProd : Nat
  repair : Option Nat
  /-- words that show an uncorrectable, and a corrected, error at their next read (log 12) -/
  bad : List Nat
  soft : List Nat
  /-- the words of the stores' width that a write has covered while the store cache held them, in words listed in `bad` -/
  healed : List Nat
deriving DecidableEq, Repr

/-- A die (R19): its layers, its relay tokens, its clock step in units of 0.25 GHz, and a thermal hold (R485). -/
structure DieSt where
  layer0 : Layer
  layer1 : Layer
  tokens : Tab Token
  clk : Nat
  tripped : Option Nat
deriving DecidableEq, Repr

/-- A core (R16): its L1, its write-backs, its TLB, its array, and its leap unit while a slalom grid holds it. The key
of the table is the package core index. -/
structure CoreSt where
  l1 : List L1Line
  wbq : List WriteBack
  tlb : List TlbEntry
  array : ArraySt
  leap : Option LeapSt
deriving DecidableEq, Repr

/-- A cluster (R18): its matrix requests and copy commands by number, and its TLB. The key is 12*die + cluster. -/
structure ClusterSt where
  mx : Tab MxReq
  copies : Tab CopyCmd
  tlb : List TlbEntry
  /-- the ring that the copy engine served last (R292), by its team context -/
  lastRing : Nat
deriving DecidableEq, Repr

/-- The whole machine. Keys: groups 32*core + slot, teams 8*core + context, cores the package core index, clusters
12*die + cluster, slices 64*die + position, trigs 1024*die + index; the other tables by their own numbers. Home
addresses: a physical address, or 2^60 + 2^24*slice + slice byte for store space, as `storeMem` numbers its bytes
without the 2^60. `scratch` and `tags` are keyed by 2^20*cluster + cluster-scratchpad offset. -/
structure State where
  sched : List Turn
  turnNo : Nat
  freeCtr : Nat
  nextUid : Nat
  sel : Option Sel
  clock : Nat
  power : Bool
  /-- within a step alone: an access of it must wait, so that the step does nothing yet (R326, R329, R348, R467; log 40) -/
  stall : Bool
  /-- within a step alone: whose act it is, and what its waiting accesses ask for (log 40) -/
  acting : Option Act
  asks : List Ask
  /-- requests of engines that have been served, and the lines: each act takes its bytes at its next turn (log 40) -/
  granted : List (Waiter × Nat)
  /-- lines of peers for which the peers refuse requests: by their export entries, as far as this package can see (R471) -/
  peerNo : List Nat
  liveCl : List Nat
  liveSl : List Nat
  groups : Tab Group
  teams : Tab Team
  grids : Tab Grid
  cores : Tab CoreSt
  clusters : Tab ClusterSt
  /-- receiver rings that a leap unit has put a message into, by the key of their control block: has another agent stored
  to TAIL since (R148)? -/
  sendRings : Tab Bool
  dies : Tab DieSt
  slices : Tab SliceSt
  tenants : Tab TenantSt
  trigs : Tab Trig
  counts : List Count
  taskqs : Tab TaskQ
  swapped : List Swapped
  kills : List Kill
  captures : List Capture
  held : List HeldUnit
  parts : Tab PartSt
  hostqs : Tab HostQ
  packets : List Packet
  fe : FrontEnd
  plat : Platform
  msix : List Nat
  mem : Memory
  storeMem : Memory
  scratch : Memory
  tags : Tab Nat
deriving DecidableEq, Repr

/-! ## Reset -/

/-- A core after reset: caches empty, array free with accumulators of value 0 (log 8). -/
def CoreSt.empty : CoreSt :=
  { l1 := [], wbq := [], tlb := []
    array := { acc := [], bad := [], owner := none, token := none, passesHeld := 0, idleSince := 0, passes := 0,
               tokwait := 0 }
    leap := none }
/-- A cluster after reset. -/
def ClusterSt.empty : ClusterSt := { mx := [], copies := [], tlb := [], lastRing := 31 }
/-- A bonded region after reset (R480). -/
def Bond.fresh : Bond := { spares := 8, repair := 0, drift := false }
/-- A slice after reset. -/
def SliceSt.empty : SliceSt := { lines := [], misses := [], bond0 := Bond.fresh, bond1 := Bond.fresh }
/-- A layer after reset: ACTIVE (R336). -/
def Layer.active : Layer := { state := 0, target := 0, ends := none }
/-- A die after reset: layers ACTIVE, token k free at position k mod 12 (R274), clock 2.25 GHz (R6). -/
def DieSt.empty : DieSt :=
  { layer0 := Layer.active, layer1 := Layer.active
    tokens := (List.range 40).map fun k => (k, { pos := k % 12, since := 0, holder := none, part := none })
    clk := 9, tripped := none }
/-- A tenant after reset: unbound (R436). -/
def TenantSt.empty : TenantSt :=
  { tcfg := 0, bound := false, cquota := 0, extents := [], contracts := [], reserves := [], lateHbm := 0
    lateHost := 0, latePeer := 0, wakes := 0, flogProd := 0, migStall := 0, rinkKey := 0 }
/-- A trigger entry that nothing has armed: FREE, generation 0 (R363). -/
def Trig.free : Trig :=
  { state := 0, gen := 0, tenant := 0, watch := false, action := 0, autofree := false, disarmed := false
    barw32 := false, target := 0, count := 0, home := 0, segs := [], slices := [], unsent := [], queue := 0, bar := 0
    addend := 0, record := [], ui := .none }
/-- A task queue that nothing has bound. -/
def TaskQ.unbound : TaskQ :=
  { bound := false, tenant := 0, asid := 0, part := 0, ring := 0, slots := 0, hvec := 0, tail := 0, recs := [] }
/-- A partition after reset: not valid (R438). -/
def PartSt.empty : PartSt := { cfg := 0, code := 0, halted := false, formed := none }
/-- A host queue after reset: not valid (R442, log 8). -/
def HostQ.empty : HostQ := { cfg := 0, head := 0, tail := 0 }
/-- A Rink port after reset (log 8). -/
def Port.fresh : Port := { up := true, replays := 0 }
/-- The front end after reset (R430, R433; log 8). -/
def FrontEnd.reset : FrontEnd :=
  { owner := 15, nextOwner := 15, leaseMs := 0, leaseFrom := 0, ignWr := 0, saveBase := 0, asidTab := 0
    biasBase := 0, routeBase := 0, rinkId := 0, qWeight := 0x08040201, pwrLimit := 32, ceThresh := 0, exports := []
    iregions := [], raw := [], roundClass := 3, roundUsed := 0, lastQueue := [], inval := none, flip := none
    migs := [], migFailed := 0, migSlot := 0, migCode := 0, claim := none, opStatus := 0
    rdStatus := 0, dbgRead := none, dbgData := 0, formedNext := 0 }
/-- Boot and links after reset (R464, R473, R475; log 8, log 10). -/
def Platform.reset : Platform :=
  { mgmtOn := true, bin := 0, lanes := 16, speed := 128, ports := [], flash := [], recovery := [], cxlComp := [], fusedSvn := 0, bootSvn := 0
    bootCode := 0, bootMode := 0, fwBusy := none, torn := none, fwSvn := 0, fwCode := 0, meas := [], attest := none, report := []
    ceCount := [], devlog := [], devlogProd := 0, repair := none, bad := [], soft := [], healed := [] }

/-- The machine right after package reset: nothing is resident, every memory byte reads 0 (log 5), every register has
the value that the manual or the log gives it. The part is a GV4-OA192 with every cluster and slice live (log 4). -/
def State.reset : State :=
  { sched := [], turnNo := 0, freeCtr := 0, nextUid := 0, sel := none, clock := 0, power := true, stall := false, acting := none, asks := [], granted := [], peerNo := []
    liveCl := List.range 48
    liveSl := List.range 256
    groups := [], teams := [], grids := [], cores := [], clusters := [], sendRings := [], dies := [], slices := [], tenants := []
    trigs := [], counts := [], taskqs := [], swapped := [], kills := [], captures := [], held := [], parts := []
    hostqs := [], packets := [], fe := FrontEnd.reset, plat := Platform.reset, msix := [], mem := [], storeMem := []
    scratch := [], tags := [] }

end Sys2Proof.Machine
end

