-- ==== Sys2Proof/Machine/Ops.lean ====
section
/-! DEFINITION. Named operations over groups, registers and fragments; fragment division and fusion; taking a trap and
returning from one (03). -/
namespace Sys2Proof.Machine

/-! ## Lookup -/

/-- The group in a slot. -/
def State.group (s : State) (gk : Nat) : Option Group := Tab.find s.groups gk
/-- Put a group into its slot. -/
def State.setGroup (s : State) (gk : Nat) (g : Group) : State := { s with groups := Tab.put s.groups gk g }
/-- Change the group in a slot, where there is one. -/
def State.updGroup (s : State) (gk : Nat) (f : Group → Group) : State := { s with groups := Tab.upd s.groups gk f }
/-- Change a team context, where there is one. -/
def State.updTeam (s : State) (tk : Nat) (f : Team → Team) : State := { s with teams := Tab.upd s.teams tk f }
/-- A core; one that nothing has touched is as after reset. -/
def State.core (s : State) (c : Nat) : CoreSt := Tab.get CoreSt.empty s.cores c
/-- Change a core. -/
def State.updCore (s : State) (c : Nat) (f : CoreSt → CoreSt) : State :=
  { s with cores := Tab.put s.cores c (f (s.core c)) }
/-- A cluster. -/
def State.cluster (s : State) (c : Nat) : ClusterSt := Tab.get ClusterSt.empty s.clusters c
/-- Change a cluster. -/
def State.updCluster (s : State) (c : Nat) (f : ClusterSt → ClusterSt) : State :=
  { s with clusters := Tab.put s.clusters c (f (s.cluster c)) }
/-- A die. -/
def State.die (s : State) (d : Nat) : DieSt := Tab.get DieSt.empty s.dies d
/-- Change a die. -/
def State.updDie (s : State) (d : Nat) (f : DieSt → DieSt) : State := { s with dies := Tab.put s.dies d (f (s.die d)) }
/-- A slice. -/
def State.slice (s : State) (n : Nat) : SliceSt := Tab.get SliceSt.empty s.slices n
/-- Change a slice. -/
def State.updSlice (s : State) (n : Nat) (f : SliceSt → SliceSt) : State :=
  { s with slices := Tab.put s.slices n (f (s.slice n)) }
/-- A tenant. -/
def State.tenant (s : State) (t : Nat) : TenantSt := Tab.get TenantSt.empty s.tenants t
/-- Change a tenant. -/
def State.updTenant (s : State) (t : Nat) (f : TenantSt → TenantSt) : State :=
  { s with tenants := Tab.put s.tenants t (f (s.tenant t)) }
/-- A team context. -/
def State.team (s : State) (tk : Nat) : Option Team := Tab.find s.teams tk
/-- A grid. -/
def State.grid (s : State) (n : Nat) : Option Grid := Tab.find s.grids n
/-- Change a grid, where there is one. -/
def State.updGrid (s : State) (n : Nat) (f : Grid → Grid) : State := { s with grids := Tab.upd s.grids n f }
/-- A partition. -/
def State.partn (s : State) (p : Nat) : PartSt := Tab.get PartSt.empty s.parts p
/-- Change a partition. -/
def State.updPart (s : State) (p : Nat) (f : PartSt → PartSt) : State :=
  { s with parts := Tab.put s.parts p (f (s.partn p)) }
/-- A trigger entry. -/
def State.trig (s : State) (e : Nat) : Trig := Tab.get Trig.free s.trigs e
/-- Change a trigger entry. -/
def State.updTrig (s : State) (e : Nat) (f : Trig → Trig) : State :=
  { s with trigs := Tab.put s.trigs e (f (s.trig e)) }
/-- A task queue. -/
def State.taskq (s : State) (q : Nat) : TaskQ := Tab.get TaskQ.unbound s.taskqs q
/-- Change a task queue. -/
def State.updTaskq (s : State) (q : Nat) (f : TaskQ → TaskQ) : State :=
  { s with taskqs := Tab.put s.taskqs q (f (s.taskq q)) }
/-- A host queue. -/
def State.hostq (s : State) (q : Nat) : HostQ := Tab.get HostQ.empty s.hostqs q
/-- Change the front end. -/
def State.updFe (s : State) (f : FrontEnd → FrontEnd) : State := { s with fe := f s.fe }
/-- Change the platform. -/
def State.updPlat (s : State) (f : Platform → Platform) : State := { s with plat := f s.plat }
/-- The slot of the resident group with a number. -/
def State.slotOf (s : State) (uid : Nat) : Option Nat := (s.groups.find? fun x => x.2.uid == uid).map fun x => x.1
/-- A group by its number: resident, or swapped out. -/
def State.byUid (s : State) (uid : Nat) : Option Group :=
  match s.groups.find? fun x => x.2.uid == uid with
  | some x => some x.2
  | none => (s.swapped.find? fun x => x.group.uid == uid).map fun x => x.group
/-- Change a group by its number, resident or swapped out. -/
def State.updUid (s : State) (uid : Nat) (f : Group → Group) : State :=
  { s with
    groups := s.groups.map fun x => if x.2.uid = uid then (x.1, f x.2) else x
    swapped := s.swapped.map fun x => if x.group.uid = uid then { x with group := f x.group } else x }
/-- A new number. -/
def State.fresh (s : State) : State := { s with nextUid := s.nextUid + 1 }
/-- A free value is used. -/
def State.used (s : State) : State := { s with freeCtr := s.freeCtr + 1 }
/-- A fragment of a group. -/
def Group.frag (g : Group) (fid : Nat) : Option Frag := g.frags.find? fun f => f.id == fid
/-- Put a fragment back into its group. -/
def Group.setFrag (g : Group) (f : Frag) : Group :=
  { g with frags := g.frags.map fun x => if x.id = f.id then f else x }
/-- The core of a group's slot. -/
def coreOf (gk : Nat) : Nat := gk / 32
/-- The cluster of a core, 12*die + cluster (R15). -/
def clusterOf (core : Nat) : Nat := core / 4
/-- The die of a core (R15). -/
def dieOf (core : Nat) : Nat := core / 48

/-! ## Registers (R63, R64, R81) -/

/-- Vector register `n` of lane `i`; one that nothing has written is a free value (log 6). -/
def Regs.readV (r : Regs) (n i : Nat) : W32 :=
  match Tab.find r.v (96 * n + i) with
  | some x => x
  | none => Config.freeVreg r.vSeed (Tab.get 0 r.uSeed (n / 8)) (Tab.get 0 r.lSeed i) n i
/-- Write vector register `n` of lane `i`. -/
def Regs.writeV (r : Regs) (n i : Nat) (x : W32) : Regs :=
  { r with v := Tab.put r.v (96 * n + i) x, bad := r.bad.filter fun k => k != 96 * n + i }
/-- Scalar `n`, other than the activity mask. -/
def Regs.readS (r : Regs) (n : Nat) : W32 :=
  match Tab.find r.s n with
  | some x => x
  | none => if r.sFree then Config.freeScalar r.vSeed n else 0
/-- Write scalar `n`, other than the activity mask. -/
def Regs.writeS (r : Regs) (n : Nat) (x : W32) : Regs :=
  { r with s := Tab.put r.s n x, bad := r.bad.filter fun k => k != 2 ^ 20 + n }
/-- Predicate `n` in every lane; p7 reads as true (R63, R81). -/
def Regs.readP (r : Regs) (n : Nat) : Lanes :=
  if n = 7 then allLanes
  else
    match Tab.find r.p n with
    | some x => x
    | none => if r.pFree then Config.freePred r.vSeed n else 0
/-- Write predicate `n` in one lane; a write to p7 is discarded (R63). -/
def Regs.writeP (r : Regs) (n i : Nat) (b : Bool) : Regs :=
  if n = 7 then r
  else
    { r with p := Tab.put r.p n (if b then r.readP n ||| laneBit i else r.readP n &&& ~~~ laneBit i) }

/-- Part k of a lane mask: lanes 32k to 32k + 31, as s(125 + k) reads it (R81). -/
def maskPart (m : Lanes) (k : Nat) : W32 := m.extractLsb' (32 * k) 32
/-- The mask with part k replaced. -/
def setMaskPart (m : Lanes) (k : Nat) (x : W32) : Lanes :=
  lanesOf fun i => if i / 32 = k then x.getLsbD (i % 32) else m.getLsbD i

/-- A scalar as a word of the fragment reads it: s125 to s127 give the fragment's mask (R81, R200). -/
def readS (g : Group) (f : Frag) (n : Nat) : W32 := if 125 ≤ n then maskPart f.mask (n - 125) else g.regs.readS n
/-- An operand of `k` vector registers in lane `i`, low register lowest (R64). -/
def readVk (g : Group) (n i : Nat) : Nat → Nat
  | 0 => 0
  | k + 1 => (g.regs.readV n i).toNat + 2 ^ 32 * readVk g (n + 1) i k
/-- An operand of `k` scalars. -/
def readSk (g : Group) (f : Frag) (n : Nat) : Nat → Nat
  | 0 => 0
  | k + 1 => (readS g f n).toNat + 2 ^ 32 * readSk g f (n + 1) k
/-- A 64-bit scalar pair. -/
def readS64 (g : Group) (f : Frag) (n : Nat) : W64 := BitVec.ofNat 64 (readSk g f n 2)

/-- The guard of a word, lane by lane (R81). -/
def guardLanes (g : Group) (gd : Guard) : Lanes :=
  let m := g.regs.readP gd.prd.toNat
  if gd.pn then ~~~ m else m
/-- Active and Member (R81): the live lanes of a fragment (R216). -/
def liveLanes (f : Frag) : Lanes := f.mask &&& f.members
/-- Enabled (R81). -/
def enabled (g : Group) (f : Frag) (gd : Guard) : Lanes := liveLanes f &&& guardLanes g gd

/-! ## Effects: what a word writes, computed before anything is written (R198) -/

/-- The writes of one word: vector registers (register, lane, value), scalars, predicates (number, lane, value), and
the floating flags it raises. -/
structure Eff where
  v : List (Nat × Nat × W32) := []
  s : List (Nat × W32) := []
  p : List (Nat × Nat × Bool) := []
  fl : BitVec 5 := 0
deriving DecidableEq, Repr

/-- The registers of a value of `k` words, from register `n`. -/
def wordsOf (n : Nat) (x : Nat) : Nat → List (Nat × W32)
  | 0 => []
  | k + 1 => (n, BitVec.ofNat 32 x) :: wordsOf (n + 1) (x / 2 ^ 32) k

/-- A value of `k` registers in one lane. -/
def vWrites (n i x k : Nat) : List (Nat × Nat × W32) := (wordsOf n x k).map fun w => (w.1, i, w.2)

/-- Apply vector writes in order. -/
def writeVs (r : Regs) (ws : List (Nat × Nat × W32)) : Regs := ws.foldl (fun r w => r.writeV w.1 w.2.1 w.2.2) r
/-- Apply predicate writes in order. Writes that cover a whole 32-bit word of a predicate end its error (R477). -/
def writePs (r : Regs) (ws : List (Nat × Nat × Bool)) : Regs :=
  let r := ws.foldl (fun r w => r.writeP w.1 w.2.1 w.2.2) r
  if r.bad = [] then r
  else { r with bad := r.bad.filter fun b => b < 2 ^ 21 || !((List.range 32).all fun l => ws.any fun w =>
      w.1 == (b - 2 ^ 21) / 4 && w.2.1 == 32 * ((b - 2 ^ 21) % 4) + l) }
/-- Apply the scalar writes that do not name the activity mask. -/
def writeSs (r : Regs) (ws : List (Nat × W32)) : Regs :=
  ws.foldl (fun r w => if 125 ≤ w.1 then r else r.writeS w.1 w.2) r
/-- The lane mask after the scalar writes: s125 to s127 take the written value ANDed with the membership (R93). -/
def writeMask (m members : Lanes) (ws : List (Nat × W32)) : Lanes :=
  ws.foldl (fun m w => if 125 ≤ w.1 then setMaskPart m (w.1 - 125) w.2 &&& members else m) m

/-- The FP trap causes (8 FPINV, 9 FPDIV0, 10 FPOVF) that flags raise under SR.FPMODE.TEN (R83, R215). -/
def fpCauses (fpmode : W32) (fl : BitVec 5) : List Nat :=
  [0, 1, 2].filterMap fun k => if fl.getLsbD k && fpmode.getLsbD (3 + k) then some (8 + k) else none

/-- Record a cause (R115, R117): its bit in SR.CAUSE and its latest SR.EADDR and DETAIL. -/
def TrapSt.record (t : TrapSt) (c : Nat) (r : CauseRec) : TrapSt :=
  { t with cause := t.cause ||| BitVec.ofNat 32 (2 ^ c), info := Tab.put t.info c r }
/-- Record a cause in a group. -/
def Group.record (g : Group) (c : Nat) (r : CauseRec) : Group := { g with trap := g.trap.record c r }
/-- Raise floating flags: sticky in SR.FPFLAGS, and the enabled causes recorded (R83, R215). DESIGN CHOICE (log 36): R117
gives FPINV, FPDIV0 and FPOVF no SR.EADDR and no DETAIL, and both are recorded as 0. -/
def Group.raiseFp (g : Group) (fpmode : W32) (fl : BitVec 5) : Group :=
  let g := { g with fpflags := g.fpflags ||| fl.setWidth 32 }
  (fpCauses fpmode fl).foldl (fun g c => g.record c { eaddr := 0, detail := 0 }) g

/-! ## Fragments: retirement, deferred entries (R94, R96-R98) -/

/-- The slices that hold a lane of a mask. -/
def slicesOf (m : Lanes) : List Nat := (List.range 24).filter fun k => m &&& sliceLanes k != 0

/-- The youngest deferred entry of a slice. -/
def youngest (ds : List Deferred) (k : Nat) : Option Deferred :=
  ds.foldl (fun acc d =>
    if d.slice = k then
      match acc with
      | some e => if e.order < d.order then some d else acc
      | none => some d
    else acc) none

/-- Release the youngest deferred entry of a slice: it becomes a fragment at its own PC (R97). -/
def Group.releaseYoungest (g : Group) (now k : Nat) : Group :=
  match youngest g.deferred k with
  | none => g
  | some d =>
    { g with
      deferred := g.deferred.filter fun e => e.order != d.order
      frags := g.frags ++
        [{ id := g.nextFrag, hdr := d.hdr, word := 0, hw := none, members := d.lanes, mask := d.lanes, wait := .none,
           since := now, age := 0, paused := false, heldTrap := d.heldTrap, heldUi := d.heldUi }]
      nextFrag := g.nextFrag + 1 }

/-- Release the youngest entry of each slice that no fragment runs any more (R97, second case); a fragment that waits at
REGANG does not run. -/
def Group.releaseIdle (g : Group) (now : Nat) (ks : List Nat) : Group :=
  ks.foldl (fun g k =>
    if g.frags.any fun f => f.wait != .regang && f.members &&& sliceLanes k != 0 then g else g.releaseYoungest now k) g

/-- Lanes of a fragment exit (R128); a fragment whose mask becomes empty retires with its idle lanes (R94). -/
def Group.exitLanes (g : Group) (now : Nat) (f : Frag) (lanes : Lanes) : Group :=
  let m := f.members &&& ~~~ lanes
  let gone := if f.mask &&& m = 0 then f.members else f.members &&& lanes
  let f' := { f with members := f.members &&& ~~~ gone, mask := f.mask &&& ~~~ gone }
  let g := { g with exited := g.exited ||| gone }
  let g := if f'.members = 0 then { g with frags := g.frags.filter fun x => x.id != f.id } else g.setFrag f'
  g.releaseIdle now (slicesOf gone)

/-- The address of the word a fragment is at. -/
def Frag.addr (f : Frag) : Nat := f.hdr + 8 * f.word
/-- The header after the fragment's clause (NextHdr of R128). -/
def Frag.nextHdr (f : Frag) : Nat :=
  match f.hw with
  | some h => f.hdr + 8 * (h.len.toNat + 1)
  | none => f.hdr + 8
/-- Is the fragment at the last word of its clause (R55)? -/
def Frag.lastWord (f : Frag) : Bool :=
  match f.hw with
  | some h => f.word == h.len.toNat
  | none => false
/-- Go to a header. -/
def Frag.goto (f : Frag) (a : Nat) : Frag := { f with hdr := a, word := 0, hw := none, wait := .none }
/-- The word after the current one: the next of the clause, or the next header (R51, R54); YLD pauses it (R59). -/
def Frag.advance (f : Frag) : Frag :=
  match f.hw with
  | some h =>
    if f.word < h.len.toNat then { f with word := f.word + 1, wait := .none }
    else { f.goto f.nextHdr with paused := f.paused || h.yld }
  | none => f

/-- Apply the writes of a word to its group and fragment, and advance: flags and causes (R215), then retirement where
the mask is left empty (R94, R200). `now` is the clock. -/
def applyEff (now : Nat) (g : Group) (f : Frag) (e : Eff) : Group :=
  let regs := writePs (writeSs (writeVs g.regs e.v) e.s) e.p
  let f' := { f with mask := writeMask f.mask f.members e.s }
  let g := ({ g with regs := regs }).raiseFp g.fpmode e.fl
  if f'.mask &&& f'.members = 0 then (g.setFrag f').exitLanes now f' f'.members
  else g.setFrag f'.advance

/-- The values that an outstanding word writes: undefined where it read a register with an uncorrectable error (R479). -/
def Op.vals (o : Op) (ctr : Nat) (ws : List (Nat × W32)) : List (Nat × W32) :=
  if o.spoil then ws.map fun w => (w.1, Config.freeWord ctr w.1) else ws
/-- A memory word that read a register with an uncorrectable error (R479): the registers that it writes, and the data that
it stores, are undefined. DESIGN CHOICE (log 12): its addresses are as the register gives them. -/
def MemOp.spoilt (m : MemOp) (ctr : Nat) : MemOp :=
  { m with spoil := true, parts := m.parts.map fun p =>
    { p with data := Config.freeWord ctr (2 * p.lane + 1) ++ Config.freeWord ctr (2 * p.lane) } }
/-- Scalar results that a group writes after their word has issued, at clock `now` (R57, R81): a write to s125 to s127
changes the mask of the fragment that issued the word, which retires where none of its lanes is left (R94, R200). DESIGN
CHOICE (log 39): where that fragment has divided, fused or retired since, such a write changes nothing. -/
def Group.writeLate (g : Group) (now fid : Nat) (ws : List (Nat × W32)) : Group :=
  let g := { g with regs := writeSs g.regs ws }
  if ws.all fun w => w.1 < 125 then g
  else
    match g.frag fid with
    | none => g
    | some f =>
      let f' := { f with mask := writeMask f.mask f.members ws }
      if f'.mask &&& f'.members = 0 then g.exitLanes now f' f'.members else g.setFrag f'

/-- One slice of a fragment that transfers (R96): the lanes that go on, where, and the entries to push, oldest first. -/
def divideSlice (f : Frag) (taken : Lanes) (target : Nat → Nat) (nh k : Nat) : Lanes × Nat × List (Lanes × Nat) :=
  let mine := f.members &&& sliceLanes k
  let dec := laneList (mine &&& f.mask)
  let nxt : Nat → Nat := fun i => if taken.getLsbD i then target i else nh
  let lead :=
    match dec.find? fun i => taken.getLsbD i with
    | some i => target i
    | none => nh
  let others := dec.filter fun i => nxt i != lead
  let pcs := (others.map nxt).eraseDups
  let entries := pcs.map fun pc => (lanesOf (fun i => others.contains i && nxt i == pc), pc)
  let stay := mine &&& ~~~ (lanesOf fun i => others.contains i)
  (stay, lead, entries.reverse)

/-- Merge placed slices by PC (R96). -/
def mergePlaced : List (Lanes × Nat) → List (Lanes × Nat)
  | [] => []
  | (m, pc) :: r =>
    let rest := mergePlaced r
    match rest.find? fun x => x.2 == pc with
    | some x => (m ||| x.1, pc) :: rest.filter fun y => y.2 != pc
    | none => (m, pc) :: rest

/-- Transfer of R96: divide the fragment by slices; the new fragments replace it and inherit its ageing counter. A
new fragment with no live lane retires (R94, log 16). -/
def transfer (now : Nat) (g : Group) (f : Frag) (taken : Lanes) (target : Nat → Nat) : Group :=
  let nh := f.nextHdr
  let parts := (slicesOf f.members).map fun k => (k, divideSlice f taken target nh k)
  let pushes := parts.flatMap fun p => p.2.2.2.map fun e => (p.1, e)
  let placed := mergePlaced (parts.map fun p => (p.2.1, p.2.2.1))
  let g := pushes.foldl (fun (g : Group) p =>
    { g with
      deferred := g.deferred ++
        [{ slice := p.1, lanes := p.2.1, hdr := p.2.2, order := g.nextOrder, heldTrap := f.heldTrap,
           heldUi := f.heldUi }]
      nextOrder := g.nextOrder + 1 }) g
  let yld := match f.hw with | some h => h.yld | none => false
  let new := (placed.zip (List.range placed.length)).map fun p =>
    ({ f with id := g.nextFrag + p.2, hdr := p.1.2, word := 0, hw := none, members := p.1.1, mask := f.mask &&& p.1.1,
              wait := .none, since := now, paused := yld } : Frag)
  let g := { g with frags := (g.frags.filter fun x => x.id != f.id) ++ new, nextFrag := g.nextFrag + placed.length }
  (new.filter fun x => x.mask = 0).foldl (fun g x => g.exitLanes now x x.members) g

/-! ## Traps (R115-R119) -/

/-- The synchronous causes (R115): 0-5 and 12-15. -/
def syncCause (c : Nat) : Bool := c ≤ 5 || (12 ≤ c && c ≤ 15)
/-- The deferrable causes that are set, not masked (R115). -/
def dueCauses (t : TrapSt) : List Nat :=
  [6, 7, 8, 9, 10, 11, 16, 17, 19].filter fun c => t.cause.getLsbD c && !t.tmask.getLsbD c

/-- KillUnit begins (R118) for the unit of a group on a core: the unit stops; its operations drain before
KILL_UNIT_DRAINED ends it. -/
def State.killUnit (s : State) (core : Nat) (g : Group) (cause : Nat) (packet : Option (Nat × Nat) := none) : State :=
  if s.kills.any fun k => k.unit == g.unit then s
  else
    { s with kills := s.kills ++
        [{ unit := g.unit, tenant := g.tenant, part := g.part, grid := g.grid, lin := g.lin, core := core
           cause := cause, epc := g.trap.epc, eaddr := g.trap.eaddr, einfo := g.trap.einfo, packet := packet }] }

/-- The segment that a core pins, with its grid (R397, R399). -/
def State.pinned (s : State) (core : Nat) : Option (Grid × Segment) :=
  match (s.core core).leap with
  | none => none
  | some l =>
    match s.grid l.grid, l.seg with
    | some gr, some k => (gr.slalom.bind fun x => x.segs[k]?).map fun x => (gr, x)
    | _, _ => none
/-- Does a PC lie in the segment of a slalom group's core (R399)? For other groups there is no such limit. -/
def State.inSegment (s : State) (core : Nat) (g : Group) (pc : Nat) : Bool :=
  match g.unit with
  | .slalom _ =>
    (match s.pinned core with
    | some (gr, x) => gr.code.toNat + x.off ≤ pc && pc < gr.code.toNat + x.off + x.len
    | none => false)
  | _ => true

/-- A vector outside the segment ends the grid with SEGEXIT, code 5 (R400, R403). -/
def State.killVector (s : State) (gk : Nat) (g : Group) (f : Frag) (vec : W64) : State :=
  let g := { g with trap := { g.trap with epc := BitVec.ofNat 64 f.addr, epcHdr := f.hdr, epcHw := true, eaddr := vec
                                          einfo := BitVec.ofNat 32 (2 ^ 24 * 15 + 5) } }
  (s.setGroup gk g).killUnit (coreOf gk) g 15

/-- SR.EPC, with its clause context, SR.EADDR and SR.EINFO as the error record of a unit that a cause ends needs them
(R58, R117, R118). -/
def Group.faultAt (g : Group) (f : Frag) (lead : Nat) : Group :=
  let r := Tab.get { eaddr := 0, detail := 0 } g.trap.info lead
  { g with trap := { g.trap with epc := BitVec.ofNat 64 f.addr, epcHdr := f.hdr, epcHw := true, eaddr := r.eaddr,
                                 einfo := BitVec.ofNat 32 (2 ^ 24 * lead + r.detail % 2 ^ 24) } }
/-- A cause at a fragment ends the unit (R118). -/
def State.killAt (s : State) (gk : Nat) (g : Group) (f : Frag) (lead : Nat) : State :=
  (s.setGroup gk (g.faultAt f lead)).killUnit (coreOf gk) (g.faultAt f lead) lead

/-- Handler entry (R116, R117) for a fragment: the return point and its clause context are kept (R58), SR.EADDR and
SR.EINFO take the values of `lead`, the mask and the level are saved, the level becomes 1, the other fragments are
held, and the fragment goes to SR.HVEC. -/
def Group.enter (g : Group) (now : Nat) (f : Frag) (lead : Nat) : Group :=
  let r := Tab.get { eaddr := 0, detail := 0 } g.trap.info lead
  let t := { g.trap with
    epc := BitVec.ofNat 64 f.addr, epcHdr := f.hdr, epcHw := true, eaddr := r.eaddr
    einfo := BitVec.ofNat 32 (2 ^ 24 * lead + r.detail % 2 ^ 24), savedMask := f.mask, savedLevel := g.trap.plevel
    plevel := 1 }
  let f' := { f.goto g.trap.hvec.toNat with since := now }
  { g with
    trap := t
    frags := g.frags.map fun x => if x.id = f.id then f' else { x with heldTrap := true }
    deferred := g.deferred.map fun d => { d with heldTrap := true } }

/-- Taking an exception: causes raised by a word at its issue (R80, R115-R118). They are recorded; at level 1, or
with no handler, the unit is killed; otherwise the handler is entered with the lowest cause's values. -/
def takeTrap (s : State) (gk : Nat) (g : Group) (f : Frag) (causes : List (Nat × CauseRec)) : State :=
  let g := causes.foldl (fun g c => g.record c.1 c.2) g
  let lead := causes.foldl (fun m c => min m c.1) 31
  if g.trap.plevel ≠ 0 ∨ g.trap.hvec = 0 then s.killAt gk g f lead
  else if !s.inSegment (coreOf gk) g g.trap.hvec.toNat then s.killVector gk g f g.trap.hvec
  else s.setGroup gk (g.enter s.clock f lead)

/-- A deferrable cause is delivered in place of a fragment's next word (R115-R117). -/
def deliverDue (s : State) (gk : Nat) (g : Group) (f : Frag) : State :=
  match dueCauses g.trap with
  | [] => s
  | c :: _ =>
    if g.trap.plevel ≠ 0 then s
    else if g.trap.hvec = 0 then s.killAt gk g f c
    else if !s.inSegment (coreOf gk) g g.trap.hvec.toNat then s.killVector gk g f g.trap.hvec
    else s.setGroup gk (g.enter s.clock f c)

/-- The end of a handler on resume or skip (R119, R58): the saved mask and level come back, the held fragments are
released, and the fragment goes to `f'`. Where the handler has left no lane of the saved mask, the fragment retires
(R79, R94). SR.EPC keeps its clause context, as software has not written it. -/
def Group.leave (g : Group) (now : Nat) (f' : Frag) : Group :=
  let back := { f' with mask := g.trap.savedMask &&& f'.members, heldTrap := false }
  let h := { g with
    trap := { g.trap with plevel := g.trap.savedLevel }
    frags := g.frags.map fun x => if x.id = f'.id then back else { x with heldTrap := false }
    deferred := g.deferred.map fun d => { d with heldTrap := false } }
  if back.mask = 0 then h.exitLanes now back back.members else h

/-- Post a user interrupt to a group (R110). -/
def Group.postUi (g : Group) (source : Nat) : Group :=
  let t := g.trap
  if t.uipend then
    let n := min 255 (t.uisrc.toNat / 2 ^ 24 + 1)
    { g with trap := { t with uisrc := BitVec.ofNat 32 (2 ^ 24 * n + t.uisrc.toNat % 2 ^ 24) } }
  else { g with trap := { t with uipend := true, uisrc := BitVec.ofNat 32 (source % 2 ^ 24) } }

/-- May a pending user interrupt be delivered (R110)? -/
def Group.uiDue (g : Group) : Bool :=
  let t := g.trap
  t.uipend && t.uien && t.uivec != 0 && t.plevel == 0 && !t.uiact && dueCauses t == []

/-- Deliver the pending user interrupt at a fragment (R110): a waiting word is abandoned and becomes the return. -/
def Group.enterUi (g : Group) (now : Nat) (f : Frag) : Group :=
  let t := { g.trap with uiepc := BitVec.ofNat 64 f.addr, uiepcHdr := f.hdr, uiepcHw := true, uiact := true
                         uien := false, uipend := false }
  let f' := { f.goto g.trap.uivec.toNat with since := now }
  { g with
    trap := t
    frags := g.frags.map fun x => if x.id = f.id then f' else { x with heldUi := true }
    deferred := g.deferred.map fun d => { d with heldUi := true } }

/-- A pending user interrupt is delivered at a fragment, or ends a slalom grid whose vector lies outside the segment
(R110, R400). -/
def deliverUi (s : State) (gk : Nat) (g : Group) (f : Frag) : State :=
  if !g.uiDue then s
  else if !s.inSegment (coreOf gk) g g.trap.uivec.toNat then s.killVector gk g f g.trap.uivec
  else s.setGroup gk (g.enterUi s.clock f)

end Sys2Proof.Machine
end

