-- ==== Sys2Proof/Machine/Operands.lean ====
section
/-! DEFINITION. Operand forms: immediates (R75), the reads of A, B and C (R81), and the writes of D, for the lanes of a
word or once on scalars (R199); the issue checks that every word shares (R55, R56, R62, R63, R80). -/
namespace Sys2Proof.Machine

/-- How an immediate extends (R75). -/
inductive ImmT where
  | sext | zext | fp32 | fp64 | half2
deriving DecidableEq, Repr

/-- ImmExt of R75 and R81, to a value of `w` bits. -/
def immExt (t : ImmT) (w : Nat) (i : BitVec 22) : Nat :=
  match t with
  | .sext => (i.signExtend w).toNat
  | .zext => i.toNat
  | .fp32 => i.toNat * 2 ^ 10
  | .fp64 => i.toNat * 2 ^ 42
  | .half2 => i.toNat % 2 ^ 16 * (2 ^ 16 + 1)

/-- The immediate type of an integer operation of R65's types: signed types extend the sign. -/
def intImm (o : FOp) : ImmT := if o.x.toNat % 2 = 0 then .sext else .zext

/-- OpA (R81): `k` registers of lane `i`, or scalars. -/
def opA (g : Group) (f : Frag) (o : FOp) (k i : Nat) : Nat :=
  match o.a with
  | .v n => readVk g n.toNat i k
  | .s n => readSk g f n.toNat k
/-- OpB (R81). -/
def opB (g : Group) (f : Frag) (o : FOp) (t : ImmT) (k i : Nat) : Nat :=
  match o.b with
  | .v n => readVk g n.toNat i k
  | .s n => readSk g f n.toNat k
  | .imm x => immExt t (32 * k) x
/-- OpC (R81). -/
def opC (g : Group) (f : Frag) (o : FOp) (k i : Nat) : Nat :=
  if o.uni then readSk g f o.c.toNat k else readVk g o.c.toNat i k
/-- The old value of D, for the words that read it. -/
def opD (g : Group) (f : Frag) (o : FOp) (k i : Nat) : Nat :=
  if o.uni then readSk g f o.d.toNat k else readVk g o.d.toNat i k

/-- The lanes in which a word acts (R199): its Enabled lanes, or once under U = 1 (as lane 0). -/
def actLanes (g : Group) (f : Frag) (o : FOp) : List Nat := if o.uni then [0] else laneList (enabled g f o.guard)

/-- A result in D (WriteD of R81): `res i` is the value of lane `i`, of `k` registers. -/
def dEff (g : Group) (f : Frag) (o : FOp) (k : Nat) (res : Nat → Nat) : Eff :=
  if o.uni then { s := wordsOf o.d.toNat (res 0) k }
  else { v := (laneList (enabled g f o.guard)).flatMap fun i => vWrites o.d.toNat i (res i) k }

/-- A result in D with floating flags, ORed over the lanes (R83). -/
def dEffFl (g : Group) (f : Frag) (o : FOp) (k : Nat) (res : Nat → Nat × BitVec 5) : Eff :=
  { dEff g f o k (fun i => (res i).1) with
    fl := (actLanes g f o).foldl (fun acc i => acc ||| (res i).2) 0 }

/-- A truth value in predicate D of each Enabled lane; under U = 1 scalar D receives 1 or 0 (R206, R213). -/
def pEff (g : Group) (f : Frag) (o : FOp) (res : Nat → Bool) : Eff :=
  if o.uni then { s := [(o.d.toNat, if res 0 then 1 else 0)] }
  else { p := (laneList (enabled g f o.guard)).map fun i => (o.d.toNat, i, res i) }

/-- The lowest member lane of a fragment (R203, R206). -/
def lowestMember (f : Frag) : Nat := ((laneList f.members).head?).getD 0

/-- Effective address of lane `i` (R69): the offset is signed, in SIZE units. -/
def effAddr (g : Group) (f : Frag) (o : MOp) (off : BitVec 11) (i : Nat) : W64 :=
  let base := match o.a with
    | .v n => BitVec.ofNat 64 (readVk g n.toNat i 2)
    | .s n => BitVec.ofNat 64 (readSk g f n.toNat 2)
  base + off.signExtend 64 * BitVec.ofNat 64 o.size.bytes

/-- The data operand of a format M word in lane `i`, of `k` registers from the C field. -/
def opData (g : Group) (f : Frag) (o : MOp) (k i : Nat) : Nat :=
  if o.uni then readSk g f o.c.toNat k else readVk g o.c.toNat i k

/-- The lanes of a memory word: its Enabled lanes, or the one scalar access of U = 1, named lane 96 (R151, R174). -/
def memLanes (g : Group) (f : Frag) (o : MOp) : List Nat :=
  if o.uni then [96] else laneList (enabled g f o.guard)

/-! ## Issue -/

/-- The control transfers of R55, which must end their clause. -/
def Instr.isTransfer : Instr → Bool
  | .bra _ => true
  | .brx _ => true
  | .call _ => true
  | .callx _ => true
  | .ret _ => true
  | .exit _ => true
  | .regang _ => true
  | .regroup _ => true
  | .tretResume _ => true
  | .tretSkip _ => true
  | .tretKill _ => true
  | .uret _ => true
  | .leap _ => true
  | .leapReg _ => true
  | _ => false

/-- The FS bit of a long-latency word (R56, R77); none where the word is not long-latency. -/
def Instr.flagSel (i : Instr) : Option Bool :=
  match i.fword with
  | some w => if w.sh.longLat then some w.op.fs else none
  | none =>
    match i.mword with
    | some w => if w.sh.longLat then some w.op.fs else none
    | none => none

/-- The vector operands of a word (R63). -/
def Instr.refs (i : Instr) : List (Nat × Nat) :=
  match i with
  | .pairedWord s0 s1 => s0.refs ++ s1.refs
  | i =>
    match i.fword with
    | some w => w.sh.refs w.op
    | none =>
      match i.mword with
      | some w => w.sh.refs w.op
      | none => []

/-- The register files (R477). -/
inductive RegBank where
  | v
  | s
  | p
deriving DecidableEq, Repr
/-- The registers that a field of an entry names, as sources or destinations: file, first index, count. -/
def fldRegs (x : Fld) (scalar : Bool) (n : Nat) : List (RegBank × Nat × Nat) :=
  match x with
  | .reg k => [(if scalar then .s else .v, n, k)]
  | .vec k => [(.v, n, k)]
  | .sca m _ => [(.s, n, m)]
  | .vecDesc => if scalar then [(.s, n, 2)] else []
  | .pred _ => [(if scalar then .s else .p, n, 1)]
  | _ => []
/-- The registers that a third source names. -/
def cfldRegs (x : CFld) (uni : Bool) (n : Nat) : List (RegBank × Nat × Nat) :=
  match x with
  | .reg k => [(if uni then .s else .v, n, k)]
  | .sca m _ => [(.s, n, m)]
  | .fn _ => []
/-- Does a word read the old value of its destination? -/
def Instr.readsD (i : Instr) : Bool :=
  match i with
  | .lut3 _ => true
  | .bsel _ => true
  | .movhi _ => true
  | .cvpk4 o => fmt4 o.df
  | _ => false
/-- The source registers of a word. A matrix word's register operands are read as its request starts (R266, R284), and PREF
raises no cause but ILLEGAL (R181). -/
def Instr.sources (i : Instr) : List (RegBank × Nat × Nat) :=
  let guard (gd : Guard) : List (RegBank × Nat × Nat) := if gd.prd = 7 then [] else [(.p, gd.prd.toNat, 1)]
  match i with
  | .pairedWord s0 s1 => [s0, s1].flatMap fun x =>
      if x.op = .nop then []
      else (if x.op = .mov then [] else [(RegBank.v, x.d.toNat, 1)]) ++ [(if x.pm.getLsbD 2 then .s else .v, x.a.toNat, 1)]
  | .msca o => guard o.guard
  | .maccld o => guard o.guard
  | .pref _ => []
  | i =>
    match i.fword with
    | some w =>
      guard w.op.guard ++ fldRegs w.sh.a w.op.a.isS w.op.a.idx.toNat
      ++ (match w.op.b with
          | .imm _ => []
          | .v n => fldRegs w.sh.b false n.toNat ++ cfldRegs w.sh.c w.op.uni w.op.c.toNat
          | .s n => fldRegs w.sh.b true n.toNat ++ cfldRegs w.sh.c w.op.uni w.op.c.toNat)
      ++ (if Instr.readsD i then fldRegs w.sh.d w.op.uni w.op.d.toNat else [])
    | none =>
      match i.mword with
      | some w =>
        guard w.op.guard
        ++ (match w.sh.base with
            | .none => []
            | _ => [(if w.op.a.isS then .s else .v, w.op.a.idx.toNat, 2)])
        ++ (match w.sh.c with
            | .data k => [(if w.op.uni then .s else .v, w.op.c.toNat, k)]
            | .sca m _ => [(.s, w.op.c.toNat, m)]
            | _ => [])
      | none => []
/-- The number, in a group's list of words that show an uncorrectable error (R477), of a register in a lane. -/
def badReg (b : RegBank) (n lane : Nat) : Nat :=
  match b with
  | .v => 96 * n + lane
  | .s => 2 ^ 20 + n
  | .p => 2 ^ 21 + 4 * n + lane / 32
/-- Does a word read a register that shows an uncorrectable error, in a live lane (R479)? -/
def readsBad (i : Instr) (g : Group) (f : Frag) : Bool :=
  if g.regs.bad = [] then false
  else
    (Instr.sources i).any fun r => (List.range r.2.2).any fun j =>
      (laneList (liveLanes f)).any fun l => g.regs.bad.contains (badReg r.1 (r.2.1 + j) l)
/-- The destination registers of a word. -/
def Instr.targets (i : Instr) : List (RegBank × Nat × Nat) :=
  match i.fword with
  | some w => fldRegs w.sh.d w.op.uni w.op.d.toNat
  | none =>
    match i.mword with
    | some w =>
      (match w.sh.d with
      | .data k => [(if w.op.uni then .s else .v, w.op.d.toNat, k)]
      | .sca m _ => [(.s, w.op.d.toNat, m)]
      | _ => [])
    | none => []

/-- Is a word one of the matrix instructions (R122)? -/
def Instr.isMatrix (i : Instr) : Bool :=
  match i with
  | .mmah _ => true
  | .mmaq8 _ => true
  | .mmaq6 _ => true
  | .mmaq4 _ => true
  | .mmai8 _ => true
  | .mmabfp _ => true
  | .msca _ => true
  | .maccld _ => true
  | .maccldScratch _ => true
  | .maccst _ => true
  | .maccstScratch _ => true
  | .maccz _ => true
  | .mfence _ => true
  | .mwait _ => true
  | .mxstat _ => true
  | _ => false

/-- Does the word write a vector register (R268)? -/
def Instr.writesV (i : Instr) : Bool :=
  match i with
  | .pairedWord s0 s1 => s0.op != .nop || s1.op != .nop
  | .regroup _ => true
  | i =>
    match i.fword with
    | some w => (match w.sh.d with
        | .reg _ => !w.op.uni
        | .vec _ => true
        | _ => false)
    | none =>
      match i.mword with
      | some w => (match w.sh.d with
          | .data _ => !w.op.uni
          | _ => false)
      | none => false

/-- The completion flag that FS selects from the header in force (SelFlag of R81); none where SETx_EN = 0. -/
def selFlag (f : Frag) (fs : Bool) : Option Nat :=
  match f.hw with
  | some h => ((if fs then h.setb else h.seta).map fun n => n.toNat)
  | none => none

/-- A cause with no address and no detail (R117). -/
def plainCause (c : Nat) : Nat × CauseRec := (c, { eaddr := 0, detail := 0 })

/-- ILLEGAL conditions that every word shares at issue: a transfer that is not its clause's last word (R55), and a
long-latency word whose SETx_EN is 0 (R56). -/
def illegalAtIssue (i : Instr) (f : Frag) : Bool :=
  (Instr.isTransfer i && !f.lastWord)
  || (match Instr.flagSel i with
      | some fs => selFlag f fs == none
      | none => false)

/-- The first vector operand of a word that reaches the budget (R63). -/
def overBudget (i : Instr) (g : Group) : Option (Nat × Nat) := (Instr.refs i).find? fun r => g.budget < r.1 + r.2
/-- REGRANGE (R63, R80): the first vector operand that reaches the budget. PREF raises no cause but ILLEGAL (R181). -/
def regRange (i : Instr) (g : Group) : List (Nat × CauseRec) :=
  match i with
  | .pref _ => []
  | i =>
    match overBudget i g with
    | some r => [(5, { eaddr := 0, detail := r.1 })]
    | none => []

/-- The word that the machine has selected: its group and fragment. -/
def selected (s : State) : Option (Nat × Group × Frag) :=
  match s.sel with
  | none => none
  | some c =>
    match s.group c.gk with
    | none => none
    | some g =>
      match g.frag c.fid with
      | none => none
      | some f => some (c.gk, g, f)

/-- The group as its word runs: FENCED is cleared where the word writes a vector register (R268), a matrix word is
noted (R122), and a source with an uncorrectable error records DATAERR (R479). -/
def Group.issuing (g : Group) (f : Frag) (i : Instr) : Group :=
  let h := { g with fenced := g.fenced && !Instr.writesV i, usedMx := g.usedMx || Instr.isMatrix i }
  if readsBad i g f then h.record 11 { eaddr := 0, detail := 0 } else h

/-- What a wait still to write is undefined (R479). -/
def Wait.spoilt (w : Wait) (ctr : Nat) : Wait :=
  match w with
  | .waita m => .waita (m.spoilt ctr)
  | .waitge m => .waitge (m.spoilt ctr)
  | w => w
/-- What an outstanding word still writes is undefined (R479). -/
def OpKind.spoilt (k : OpKind) (ctr : Nat) : OpKind :=
  match k with
  | .mem m => .mem (m.spoilt ctr)
  | .fc ws fl fpmode => .fc (ws.map fun w => (w.1, Config.freeWord ctr w.1)) fl fpmode
  | k => k
/-- A word that read a register with an uncorrectable error has undefined destinations (R479): those that it has written,
and those that it writes later. `g` and `f` are as the word issued. -/
def State.spoilt (t : State) (gk : Nat) (i : Instr) (g : Group) (f : Frag) : State :=
  match t.group gk with
  | none => t
  | some h =>
    let new (o : Op) : Bool := !g.ops.any fun x => x.id == o.id
    let ops := h.ops.map fun o => if new o then { o with spoil := true, kind := o.kind.spoilt t.freeCtr } else o
    let h' := { h with ops := ops, frags := h.frags.map fun (x : Frag) =>
      if x.id = f.id then { x with wait := x.wait.spoilt t.freeCtr } else x }
    let waits := (h.frag f.id).any fun (x : Frag) => x.wait != .none
    let free (b : RegBank) (n l : Nat) : W32 := Config.freeWord t.freeCtr (badReg b n l)
    let ls := laneList (liveLanes f)
    let regs := if ops.any new || waits then h.regs
      else (Instr.targets i).foldl (fun (r : Regs) x =>
        let ns := (List.range x.2.2).map fun j => x.2.1 + j
        match x.1 with
        | .v => writeVs r (ls.flatMap fun l => ns.map fun n => (n, l, free .v n l))
        | .s => writeSs r (ns.map fun n => (n, free .s n 0))
        | .p => writePs r (ls.map fun l => (x.2.1, l, (free .p x.2.1 (32 * (l / 32))).getLsbD (l % 32)))) h.regs
    (t.setGroup gk { h' with regs := regs }).used

/-- The checks at issue (R80), then the word: ILLEGAL alone; else PRIV and REGRANGE together; else `run` on the group
as the word issues. With no word selected nothing happens (log 1). A word that read a register with an uncorrectable error
has undefined destinations (R479). -/
def onWord (i : Instr) (s : State) (illegal priv : State → Nat → Group → Frag → Bool)
    (run : Nat → Group → Frag → State) : State :=
  match selected s with
  | none => s
  | some (gk, g, f) =>
    if illegalAtIssue i f || illegal s gk g f then takeTrap s gk g f [plainCause 0]
    else
      let causes := (if priv s gk g f then [plainCause 1] else []) ++ regRange i g
      if causes = [] then
        if readsBad i g f then (run gk (g.issuing f i) f).spoilt gk i g f else run gk (g.issuing f i) f
      else takeTrap s gk g f causes

/-- No further ILLEGAL or PRIV condition. -/
def never (_ : State) (_ : Nat) (_ : Group) (_ : Frag) : Bool := false

/-! ## The interval of a matrix request (R267) -/

/-- The accumulators that a request touches (R263), with their cores. -/
def MxReq.accs (r : MxReq) : List (Nat × Nat) :=
  let both (m : Nat) : List (Nat × Nat) := (r.core, m) :: (if r.wide then [(r.core + 1, m)] else [])
  match r.kind with
  | .mma _ _ => both r.idx
  | .msca _ _ p => both r.idx ++ both p
  | .maccld _ w => [(if w then r.core + 1 else r.core, r.idx)]
  | .maccst _ w _ => [(if w then r.core + 1 else r.core, r.idx)]
  | .maccz mask _ => ((List.range 16).filter mask.testBit).flatMap both
/-- The accumulators that a request writes, with their cores. -/
def MxReq.dests (r : MxReq) : List (Nat × Nat) :=
  match r.kind with
  | .msca _ _ _ => (r.core, r.idx) :: (if r.wide then [(r.core + 1, r.idx)] else [])
  | .maccst _ _ _ => []
  | _ => r.accs

/-- Phys of R269: the cluster-scratchpad offset of byte `j` of row `r`. -/
def mxPhys (base pitch rot r j : Nat) : Nat := (base + r * pitch * 16 + j) ^^^ (r % 2 ^ rot * 16)
/-- The offsets of a scratchpad tile's rows of `n` bytes; a wide B operand has a second tile (R271). -/
def mxOffsets (base pitch rot n rows : Nat) : List Nat :=
  (List.range rows).flatMap fun r => (List.range n).map fun j => mxPhys base pitch rot r j
/-- The vector registers that one lane of a register operand takes. -/
def MxKind.regs (k : MxKind) : Nat :=
  match k with
  | .msca _ _ _ => 1
  | _ => 8
/-- The bytes of a row of a scratchpad operand: 32, or 256 for an accumulator tile (R269). -/
def MxKind.rowBytes (k : MxKind) : Nat :=
  match k with
  | .maccld _ _ => 256
  | _ => 32

/-- Does an operand name one of some vector registers? -/
def MxSrc.hasReg (m : MxSrc) (cnt : Nat) (ns : List Nat) : Bool :=
  match m with
  | .regs k => ns.any fun n => k ≤ n && n < k + cnt
  | _ => false
/-- Does an operand of rows of `n` bytes hold one of some cluster-scratchpad offsets? -/
def MxSrc.hasByte (m : MxSrc) (n : Nat) (wide : Bool) (os : List Nat) : Bool :=
  match m with
  | .tile base pitch rot tp =>
    let l := mxOffsets base pitch rot n 64
    let l := if wide then l ++ mxOffsets (base + tp * 128) pitch rot n 64 else l
    os.any fun o => l.contains o
  | _ => false

/-- Undefined rows of an accumulator (R9). -/
def freeRows (ctr m : Nat) : List (List W32) :=
  (List.range 64).map fun r => (List.range 64).map fun c => Config.freeWord ctr (4096 * m + 64 * r + c)
/-- An accumulator holds undefined values. -/
def State.spoilAcc (s : State) (core m : Nat) : State :=
  (s.updCore core fun c => { c with array := { c.array with acc := Tab.put c.array.acc m (freeRows s.freeCtr m) } }).used

/-- Does an outstanding MWAIT of a group cover a request? -/
def State.mwaited (s : State) (uid rq : Nat) : Bool :=
  match s.byUid uid with
  | none => false
  | some g => g.ops.any fun o =>
      match o.kind with
      | .mwait _ _ covers => covers.contains rq
      | _ => false

/-- Operands of some requests of a cluster are written: those inside their interval lose their results (R267). -/
def State.taintReqs (s : State) (cl : Nat) (p : MxReq → Bool) : State :=
  (s.cluster cl).mx.foldl (fun (s : State) (x : Nat × MxReq) =>
    if !p x.2 then s
    else
      match x.2.stage with
      | .retired _ =>
        if s.mwaited x.2.uid x.1 then x.2.dests.foldl (fun s d => s.spoilAcc d.1 d.2) s else s
      | _ => s.updCluster cl fun c => { c with mx := Tab.put c.mx x.1 { x.2 with taint := true } }) s

/-- Operands of some requests are written, in whatever cluster they are: a group that was swapped out may have requests in a
cluster that it has left. -/
def State.taintAll (s : State) (p : MxReq → Bool) : State :=
  (s.clusters.filter fun (c : Nat × ClusterSt) => c.2.mx != []).foldl (fun (s : State) c => s.taintReqs c.1 p) s
/-- Vector registers of a group are written (R267). -/
def State.taintV (s : State) (gk : Nat) (ns : List Nat) : State :=
  if ns = [] then s
  else
    match s.group gk with
    | some g => s.taintAll fun r => r.uid == g.uid && (r.a.hasReg r.kind.regs ns || r.b.hasReg 8 ns)
    | none => s

/-- Bytes of a cluster scratchpad are written (R267), by their offsets. -/
def State.taintB (s : State) (cl : Nat) (os : List Nat) : State :=
  if (s.cluster cl).mx = [] ∨ os = [] then s
  else s.taintReqs cl fun r =>
    r.a.hasByte r.kind.rowBytes false os || r.b.hasByte r.kind.rowBytes r.wide os

/-- The writes of a word that read a register with an uncorrectable error: its destinations are free (R479). -/
def Eff.freed (e : Eff) (ctr : Nat) : Eff :=
  { e with
    v := e.v.map fun w => (w.1, w.2.1, Config.freeWord ctr (96 * w.1 + w.2.1))
    s := e.s.map fun w => (w.1, Config.freeWord ctr (2 ^ 20 + w.1))
    p := e.p.map fun w => (w.1, w.2.1, (Config.freeWord ctr (2 ^ 21 + 96 * w.1 + w.2.1)).getLsbD 0) }
/-- A fixed-latency word: after the checks, its effect is applied and the fragment advances (R197-R200). -/
def aluWord (i : Instr) (s : State) (eff : Group → Frag → Eff) : State :=
  onWord i s never never fun gk g f =>
    let e := if readsBad i g f then (eff g f).freed s.freeCtr else eff g f
    (s.setGroup gk (applyEff s.clock g f e)).taintV gk (e.v.map fun w => w.1)

end Sys2Proof.Machine
end

