-- ==== Sys2Proof/Machine/Flags.lean ====
section
/-! DEFINITION. Completion flags (R56, R57), the outstanding operations of a group, and the floating control register. -/
namespace Sys2Proof.Machine

/-- The count of completion flag `n`. -/
def Group.flag (g : Group) (n : Nat) : Nat := Tab.get 0 g.flags n
/-- Complete(n) of R81: the flag loses 1. -/
def Group.completeFlag (g : Group) (n : Nat) : Group := { g with flags := Tab.set 0 g.flags n (g.flag n - 1) }
/-- Is every flag of a mask clear? -/
def Group.flagsClear (g : Group) (mask : Nat) : Bool := (List.range 12).all fun n => !mask.testBit n || g.flag n == 0
/-- Is every flag zero? -/
def Group.allFlagsClear (g : Group) : Bool := g.flagsClear 0xFFF
/-- The fragment waits, from now. -/
def Frag.waitFor (f : Frag) (w : Wait) (now : Nat) : Frag := { f with wait := w, since := now }

/-- IssueTracked of R81: the flag gains 1 and the operation is outstanding, after the group's earlier ones. -/
def Group.startOp (g : Group) (id n fid : Nat) (k : OpKind) : Group :=
  { g with flags := Tab.set 0 g.flags n (g.flag n + 1), ops := g.ops ++ [{ id := id, flag := n, kind := k, frag := fid }] }
/-- An outstanding operation. -/
def Group.op (g : Group) (id : Nat) : Option Op := g.ops.find? fun o => o.id == id
/-- Change an outstanding operation. -/
def Group.setOp (g : Group) (id : Nat) (k : OpKind) : Group :=
  { g with ops := g.ops.map fun o => if o.id = id then { o with kind := k } else o }
/-- The operation completes: it is no longer outstanding and its flag loses 1. -/
def Group.endOp (g : Group) (o : Op) : Group :=
  { g.completeFlag o.flag with ops := g.ops.filter fun x => x.id != o.id }

/-- A flag named by a passed wait holds the DATAERR of its operations (R133, R158): it is recorded now. -/
def Group.passFlags (g : Group) (mask : Nat) : Group :=
  (g.flagErr.filter fun e => mask.testBit e.1).foldl (fun g e => g.record 11 e.2)
    { g with flagErr := g.flagErr.filter fun e => !mask.testBit e.1 }

/-- A word that may not issue yet waits at its place: its group is as it was, for the word has done nothing (R56). -/
def State.holdWord (s : State) (gk : Nat) (g : Group) (f : Frag) (w : Wait) : State :=
  s.setGroup gk (((s.group gk).getD g).setFrag (f.waitFor w s.clock))

/-- A long-latency word that has passed its checks: it waits, unissued, while its flag is at 63 (R56); otherwise it becomes
outstanding as `k` and the fragment advances. `acts` false: it completes at once with no effect (R242, R276). -/
def trackWord (s : State) (gk : Nat) (g : Group) (f : Frag) (fs : Bool) (k : OpKind) : State :=
  match selFlag f fs with
  | none => s
  | some n =>
    if 63 ≤ g.flag n then s.holdWord gk g f (.flagFull n)
    else
      { (s.setGroup gk ((g.startOp s.nextUid n f.id k).setFrag f.advance)) with nextUid := s.nextUid + 1 }

/-- SR.FPMODE fields (R111): rounding mode, FTZ. -/
def Group.rm (g : Group) : Nat := g.fpmode.toNat % 4
/-- SR.FPMODE.FTZ. -/
def Group.ftz (g : Group) : Bool := g.fpmode.getLsbD 2

end Sys2Proof.Machine
end

