-- ==== Sys2Proof/Machine/Home.lean ====
section
/-! DEFINITION. Home slices (R327-R338): where a line lives, layers, the store cache, contracts, and the application of
a write at its home, which arrival counters, watched words and contract counters see (R169, R344, R368-R373). -/
namespace Sys2Proof.Machine

/-! ## Where a line lives -/

/-- First home address of store space (see `State`). -/
def storeBase : Nat := 2 ^ 60
/-- Home address of a slice byte. -/
def storeAddr (slice sb : Nat) : Nat := storeBase + 2 ^ 24 * slice + sb
/-- Is a home address one of store space? -/
def isStore (a : Nat) : Bool := storeBase ≤ a
/-- The slices of a span (R327). -/
def spanSlices (span first : Nat) : List Nat :=
  match span with
  | 0 => [first]
  | 1 => (List.range 4).map fun i => first + i
  | 2 => (List.range 16).map fun i => first + i
  | 3 => (List.range 64).map fun i => first + i
  | _ => List.range 256
/-- The live list of a span (R327). -/
def State.liveList (s : State) (span first : Nat) : List Nat := (spanSlices span first).filter fun n => s.liveSl.contains n

/-- Fields of an interleave region register (R327). -/
def iregValid (r : BitVec 128) : Bool := r.getLsbD 0
/-- SPAN of R327. -/
def iregSpan (r : BitVec 128) : Nat := bits r 4 2
/-- UNIT of R327. -/
def iregUnit (r : BitVec 128) : Nat := bits r 7 5
/-- FIRST of R327. -/
def iregFirst (r : BitVec 128) : Nat := bits r 15 8
/-- BASE of R327, in GiB. -/
def iregBase (r : BitVec 128) : Nat := bits r 51 30
/-- LIMIT of R327, in GiB. -/
def iregLimit (r : BitVec 128) : Nat := bits r 115 94

/-- Is a physical address one of a tier (R5, R458): 1 TiB of HBM, host memory, or a Rink peer window? No region can cover
any other, whatever its BASE and LIMIT. -/
def inTier (pa : Nat) : Bool := pa < 2 ^ 40 || (2 ^ 50 ≤ pa && pa < 2 ^ 52)
/-- The valid region that covers a physical address (R328, R458). -/
def State.region (s : State) (pa : Nat) : Option (BitVec 128) :=
  (s.fe.iregions.map fun r => r.2).find? fun r =>
    iregValid r && iregBase r ≤ pa / 2 ^ 30 && pa / 2 ^ 30 ≤ iregLimit r && inTier pa
/-- The home slice of a physical address (Home of R328). -/
def State.homeSlice (s : State) (pa : Nat) : Option Nat :=
  match s.region pa with
  | none => none
  | some r =>
    let l := s.liveList (iregSpan r) (iregFirst r)
    l[(pa - iregBase r * 2 ^ 30) / 2 ^ (7 + iregUnit r) % l.length]?
/-- The slice of a home address. -/
def State.sliceOf (s : State) (a : Nat) : Option Nat :=
  if isStore a then some ((a - storeBase) / 2 ^ 24) else s.homeSlice a

/-- A layer of a die. -/
def State.layer (s : State) (d l : Nat) : Layer := if l = 0 then (s.die d).layer0 else (s.die d).layer1
/-- Change a layer. -/
def State.updLayer (s : State) (d l : Nat) (f : Layer → Layer) : State :=
  s.updDie d fun x => if l = 0 then { x with layer0 := f x.layer0 } else { x with layer1 := f x.layer1 }
/-- The layer of a slice byte (R20). -/
def layerOfByte (sb : Nat) : Nat := sb / 2 ^ 23
/-- Is a layer marked OFF (R338 step 1)? A transition in progress reads as its target (R336), so a layer on its way
OFF is marked and one on its way back is not (log 17). -/
def State.layerOff (s : State) (d l : Nat) : Bool := (s.layer d l).target == 2

/-- The tenant's extent that holds a store-space offset (R334). -/
def State.extentOf (s : State) (t o : Nat) : Option (Extent × List Nat) :=
  ((s.tenant t).extents.map fun x => (x, s.liveList x.span x.first)).find? fun x =>
    x.1.kind != 1 && x.1.obase ≤ o && o < x.1.obase + x.1.units * x.2.length * 4096

/-- What a store-space offset resolves to (Resolve of R334). -/
inductive Resolved where
  | xlate
  | off
  | at (a : Nat)
deriving DecidableEq, Repr

/-- Does a home address of store space lie in a layer of a die? -/
def inLayer (d l a : Nat) : Bool :=
  isStore a && (a - storeBase) / 2 ^ 24 / 64 == d && layerOfByte ((a - storeBase) % 2 ^ 24) == l
/-- Does a home address lie in an OFF layer? -/
def State.offAt (s : State) (a : Nat) : Bool :=
  isStore a && s.layerOff ((a - storeBase) / 2 ^ 24 / 64) (layerOfByte ((a - storeBase) % 2 ^ 24))
/-- The home address of a store-space offset, whatever its layer does: where an access that passed its check still goes
while the layer's transition to OFF waits for it (R338 step 4). -/
def State.storeSpot (s : State) (t o : Nat) : Option Nat :=
  (s.extentOf t o).bind fun x =>
    let u := (o - x.1.obase) / 4096
    x.2[u % x.2.length]?.map fun slice => storeAddr slice (x.1.sbase * 4096 + u / x.2.length * 4096 + o % 4096)
/-- The store-space offset at which some extents hold a home address. -/
def State.offsetIn (s : State) (xs : List Extent) (a : Nat) : Option Nat :=
  let sb := (a - storeBase) % 2 ^ 24
  xs.findSome? fun x =>
    let l := s.liveList x.span x.first
    if isStore a && x.kind != 1 && x.sbase ≤ sb / 4096 && sb / 4096 < x.sbase + x.units then
      (l.idxOf? ((a - storeBase) / 2 ^ 24)).map fun j => x.obase + 4096 * ((sb / 4096 - x.sbase) * l.length + j) + sb % 4096
    else none
/-- Resolve of R334. -/
def State.resolve (s : State) (t o : Nat) : Resolved :=
  match s.storeSpot t o with
  | none => .xlate
  | some a => if s.offAt a then .off else .at a

/-! ## Cache units and layers -/

/-- The tenant's cache extents with units in a slice (R333). -/
def State.cacheExtents (s : State) (t slice : Nat) : List Extent :=
  (s.tenant t).extents.filter fun x => x.kind == 1 && (s.liveList x.span x.first).contains slice
/-- The layer of an extent: it lies whole in one (R333). -/
def Extent.layer (x : Extent) : Nat := x.sbase / 2048
/-- The tenant's cache units in a slice that are not in an OFF layer. -/
def State.cacheUnitsIn (s : State) (t slice : Nat) : Nat :=
  (((s.cacheExtents t slice).filter fun x => !s.layerOff (slice / 64) x.layer).map fun x => x.units).sum
/-- All the tenant's cache units in ACTIVE or RETENTION layers (CACHEU of R358). -/
def State.cacheUnits (s : State) (t : Nat) : Nat :=
  (((s.tenant t).extents.filter fun x => x.kind == 1).map fun x =>
    ((s.liveList x.span x.first).filter fun n => !s.layerOff (n / 64) x.layer).length * x.units).sum

/-- The layers that an access of a tenant reaches at the line of a home address (R337). -/
def State.layersAt (s : State) (t x : Nat) : List (Nat × Nat) :=
  let a := x / 128 * 128
  if isStore a then
    let k := a - storeBase
    [(k / 2 ^ 24 / 64, layerOfByte (k % 2 ^ 24))]
  else
    match s.homeSlice a with
    | none => []
    | some n => (((s.cacheExtents t n).map fun x => (n / 64, x.layer)).filter fun d => !s.layerOff d.1 d.2).eraseDups

/-- The idle time of a layer's transition in cycles of 2.25 GHz (R337); a wake's "about 2 µs" binds nothing (log 3). -/
def layerTime (state target : Nat) : Nat :=
  if state = 2 ∧ target = 0 then 45000
  else if state = 2 then 47250
  else if target = 0 then 0
  else 2250

/-- Begin a layer's transition. -/
def State.beginLayer (s : State) (d l target : Nat) : State :=
  s.updLayer d l fun x => { x with target := target, ends := some (s.clock + layerTime x.state target) }

/-- If an access must wait for a layer that sleeps or is changing: the state in which the wake has begun, and been
counted in WAKES of the tenant (R337). A wake that a debug read began becomes the access's: the layer stays ACTIVE (R483). -/
def State.wakeFor (s : State) (t a : Nat) : Option State :=
  let ls := s.layersAt t a
  let asleep := ls.filter fun d => (s.layer d.1 d.2).state == 1 && ((s.layer d.1 d.2).target == 1 || (s.layer d.1 d.2).dbg)
  if asleep ≠ [] then
    some (asleep.foldl (fun s d =>
      (if (s.layer d.1 d.2).dbg then s.updLayer d.1 d.2 fun y => { y with dbg := false } else s.beginLayer d.1 d.2 0).updTenant t fun x => { x with wakes := min 0xFFFFFFFF (x.wakes + 1) }) s)
  else if ls.any fun d => (s.layer d.1 d.2).state != 0 && (s.layer d.1 d.2).target != 2 then some s
  else none

/-- The first wait among several home addresses. -/
def State.wakeAny (s : State) (t : Nat) (as : List Nat) : Option State := as.findSome? fun a => s.wakeFor t a

/-! ## Bytes -/

/-- The byte at a home address. -/
def State.readHome (s : State) (a : Nat) : Byte :=
  if isStore a then Memory.read s.storeMem (a - storeBase) else Memory.read s.mem a
/-- `n` bytes from a home address. -/
def State.readHomeN (s : State) (a n : Nat) : List Byte := (List.range n).map fun i => s.readHome (a + i)
/-- The little-endian value of `n` bytes from a home address. -/
def State.readHomeNat (s : State) (a n : Nat) : Nat := leNat (s.readHomeN a n)
/-- Write one byte at a home address. -/
def State.putHome (s : State) (a : Nat) (b : Byte) : State :=
  if isStore a then { s with storeMem := Memory.write s.storeMem (a - storeBase) b }
  else { s with mem := Memory.write s.mem a b }

/-- The protected word that holds a home address (R324, R477): first byte and length. -/
def protWord (a : Nat) : Nat × Nat :=
  if isStore a then (a / 8 * 8, 8) else if a < 2 ^ 40 then (a / 32 * 32, 32) else (a / 64 * 64, 64)
/-- Does the byte show an uncorrectable error (R477)? One in a word of the stores' width that a write has covered in the
store cache does not (R324). -/
def State.badAt (s : State) (a : Nat) : Bool :=
  s.plat.bad ≠ [] && s.plat.bad.contains (protWord a).1 && !s.plat.healed.contains (a / 8 * 8)
/-- A write that covers a whole protected word ends its error (R477). -/
def healBy (as : List Nat) (bad : List Nat) : List Nat :=
  bad.filter fun w => !((List.range (protWord w).2).all fun i => as.contains (w + i))

/-- The tier of a physical address (R458): 0 HBM, 1 host, 2 Rink peer. -/
def tierOf (pa : Nat) : Nat := if pa < 2 ^ 50 then 0 else if pa < 2 ^ 51 then 1 else 2
/-- The CECOUNT register of a word (R432, R478): its HBM stack, or 16 + its die; host and peer memory have none. -/
def ceIndex (a : Nat) : Option Nat :=
  if isStore a then some (16 + (a - storeBase) / 2 ^ 30) else if a < 2 ^ 40 then some (a / 2 ^ 36) else none
/-- A corrected error of a word is repaired and counted; a count that rises past CETHRESH sends vector 1 once (R478). -/
def State.correct (s : State) (w : Nat) : State :=
  let s := s.updPlat fun p => { p with soft := p.soft.filter fun x => x != w }
  match ceIndex w with
  | none => s
  | some k =>
    let n := Tab.get 0 s.plat.ceCount k
    let th := bits s.fe.ceThresh 15 0
    let s := s.updPlat fun p => { p with ceCount := Tab.put p.ceCount k (min 0xFFFFFFFF (n + 1)) }
    if th ≠ 0 ∧ n = th then { s with msix := s.msix ++ [1] } else s
/-- An uncorrectable word of HBM or of a store enters DEVLOG (R433, R478): found by scrubbing, 1, or by a consumer, 2. A
store word is named by its place among the slices' bytes (log 12). -/
def State.devLog (s : State) (w kind : Nat) : State :=
  match ceIndex w with
  | none => s
  | some k =>
    s.updPlat fun p =>
      { p with
        devlog := Tab.put p.devlog (p.devlogProd % 256)
          { addr := BitVec.ofNat 64 (w % storeBase), store := k, kind := kind, clock := BitVec.ofNat 64 s.clock }
        devlogProd := (p.devlogProd + 1) % 2 ^ 32 }
/-- Words that a consumer reads (R477, R478): corrected ones are repaired, uncorrectable ones logged. -/
def State.met (s : State) (as : List Nat) : State :=
  if s.plat.bad = [] ∧ s.plat.soft = [] then s
  else
    ((as.map fun a => (protWord a).1).eraseDups).foldl (fun (s : State) w =>
      let s := if s.plat.soft.contains w then s.correct w else s
      if as.any fun a => (protWord a).1 == w && s.badAt a then s.devLog w 2 else s) s

/-- A Rink port. -/
def State.port (s : State) (k : Nat) : Port := Tab.get Port.fresh s.plat.ports k
/-- Are requests for a peer address taken (R469, R471): its device's routing entry is valid, the port up, and the peer does
not refuse its line? The entry of the package's own ID is not read: a request to it that its own apertures accept goes to
its HBM (`State.ownHbm`), and any other is refused (R470). -/
def State.routed (s : State) (a : Nat) : Bool :=
  let id := a / 2 ^ 34 % 2 ^ 17
  let e := s.readHomeNat (s.fe.routeBase.toNat + 2 * id) 2
  !s.peerNo.contains (a / 128) && id != s.fe.rinkId.toNat % 2 ^ 17 && e.testBit 15 && (s.port (e % 16)).up

/-- Does a request for a home address reach its home: is it no peer's, or one to which requests can be sent (R471)? -/
def State.reached (s : State) (a : Nat) : Bool := isStore a || tierOf a != 2 || s.routed a
/-- Does a read of a byte meet an uncorrectable error: its word's, or a request that no peer takes (R471, R477)? -/
def State.errAt (s : State) (a : Nat) : Bool := s.badAt a || !s.reached a

/-- A flit of a request to a peer address gets through its port: the replays counted were another's (R468). -/
def State.through (s : State) (a : Nat) : State :=
  let k := s.readHomeNat (s.fe.routeBase.toNat + 2 * (a / 2 ^ 34 % 2 ^ 17)) 2 % 16
  if isStore a = false ∧ tierOf a = 2 ∧ (s.port k).replays ≠ 0 then
    s.updPlat fun p => { p with ports := Tab.put p.ports k { s.port k with replays := 0 } }
  else s

/-! ## Fault log (R437) -/

/-- A field of a tenant's TCFG block (R436): PTAB. -/
def tcfgPtab (c : BitVec 256) : Nat := bits c 63 0
/-- FLOGBASE. -/
def tcfgFlog (c : BitVec 256) : Nat := bits c 127 64
/-- FLOGENTRIES. -/
def tcfgEntries (c : BitVec 256) : Nat := bits c 159 128
/-- ASIDBASE. -/
def tcfgAsid (c : BitVec 256) : Nat := bits c 175 160
/-- ASIDCOUNT. -/
def tcfgAsids (c : BitVec 256) : Nat := bits c 191 176
/-- VALID. -/
def tcfgValid (c : BitVec 256) : Bool := c.getLsbD 192
/-- DEBUG. -/
def tcfgDebug (c : BitVec 256) : Bool := c.getLsbD 193

/-- A fault-log record (R437). -/
structure FaultRec where
  kind : Nat
  cause : Nat
  part : Nat
  gridid : Nat
  unit : Nat
  core : Nat
  epc : Nat
  eaddr : Nat
  einfo : Nat
deriving DecidableEq, Repr

/-- The 64 bytes of a record. -/
def FaultRec.bytes (r : FaultRec) (clock : Nat) : List Byte :=
  leBytes 2 r.kind ++ leBytes 1 r.cause ++ leBytes 1 r.part ++ leBytes 4 r.gridid ++ leBytes 4 r.unit
  ++ leBytes 2 r.core ++ leBytes 2 0 ++ leBytes 8 r.epc ++ leBytes 8 r.eaddr ++ leBytes 4 r.einfo ++ leBytes 4 0
  ++ leBytes 8 clock ++ leBytes 16 0

/-! ## Contracts (R341-R349) -/

/-- The lines of a contract, by number of a physical line. -/
def Contract.lines (c : Contract) : List Nat := c.pages.flatMap fun p => (List.range 32).map fun i => 32 * p + i
/-- Does an active contract hold a line (R343)? -/
def Contract.holds (c : Contract) (line : Nat) : Bool := c.active && c.pages.contains (line / 32)
/-- The tenant and contract that hold a line. -/
def State.holder (s : State) (line : Nat) : Option (Nat × Contract) :=
  s.tenants.findSome? fun t => (t.2.contracts.find? fun c => c.holds line).map fun c => (t.1, c)
/-- The store line of a physical line in its home slice. -/
def State.storeLine (s : State) (slice line : Nat) : Option StoreLine :=
  (s.slice slice).lines.find? fun l => l.line == line
/-- Are the bytes of a mask of a line valid in the store cache? -/
def State.hasBytes (s : State) (slice line : Nat) (mask : BitVec 128) : Bool :=
  match s.storeLine slice line with
  | some l => mask &&& ~~~ l.valid == 0
  | none => false
/-- A line is resident when every byte of it is valid in the store cache. -/
def State.resident (s : State) (slice line : Nat) : Bool := s.hasBytes slice line (BitVec.allOnes 128)

/-- A request meets a late line of a contract (R348): its tenant's counter for the line's tier rises. -/
def State.countLate (s : State) (line : Nat) : State :=
  match s.holder line with
  | none => s
  | some (t, _) =>
    s.updTenant t fun x =>
      match tierOf (128 * line) with
      | 0 => { x with lateHbm := min 0xFFFFFFFF (x.lateHbm + 1) }
      | 1 => { x with lateHost := min 0xFFFFFFFF (x.lateHost + 1) }
      | _ => { x with latePeer := min 0xFFFFFFFF (x.latePeer + 1) }

/-- The limits of R342 for a tenant's contracts, those of a list counted as active: pages against LIMIT, and the lines
homed in each slice against 75% of what its cache units there hold. -/
def State.contractsFit (s : State) (t : Nat) (cs : List Contract) : Bool × Bool :=
  let pages := (cs.map fun c => c.pages.length).sum
  let homes := (cs.flatMap Contract.lines).filterMap fun l => s.homeSlice (128 * l)
  (pages ≤ s.cacheUnits t * 3 / 4,
   homes.eraseDups.all fun n => homes.count n ≤ 32 * s.cacheUnitsIn t n * 3 / 4)

/-- Put a contract after those of higher priority and those of its priority that came earlier (R349). -/
def insertByPrio (c : Contract) : List Contract → List Contract
  | [] => [c]
  | d :: r => if d.prio < c.prio ∨ (d.prio = c.prio ∧ c.order < d.order) then c :: d :: r else d :: insertByPrio c r

/-- Contracts are re-evaluated (R349): the active ones in order of priority, then of contract order, each stays active
while the limits hold with it counted; then suspended ones become active, in the same order, where the limits allow. -/
def State.reevaluate (s : State) (t : Nat) : State :=
  let sorted := (s.tenant t).contracts.foldl (fun acc c => insertByPrio c acc) []
  let inTurn := (sorted.filter fun c => c.active) ++ sorted.filter fun c => !c.active
  let keep := inTurn.foldl (fun (acc : List Contract) c =>
    let r := s.contractsFit t (c :: acc)
    if r.1 && r.2 then c :: acc else acc) []
  s.updTenant t fun x =>
    { x with contracts := x.contracts.map fun c => { c with active := keep.any fun k => k.base == c.base } }

/-- End the contracts of a tenant that a test names (R344). -/
def State.endContracts (s : State) (t : Nat) (p : Contract → Bool) : State :=
  if ((s.tenant t).contracts.any p) = true then
    (s.updTenant t fun x => { x with contracts := x.contracts.filter fun c => !p c }).reevaluate t
  else s

/-! ## Arrival counters and watched words (R368-R373) -/

/-- The bytes of a write that lie in an entry's range. -/
def Trig.hits (e : Trig) (as : List Nat) : Nat :=
  (as.filter fun a => e.segs.any fun g => g.1 ≤ a && a < g.1 + g.2).length
/-- An entry fires (R371, R373): FIRING, its filters released, nothing more counted. -/
def Trig.fire (e : Trig) : Trig := { e with state := 2, slices := [], unsent := [] }
/-- Counted bytes reach an entry (R370, R371). -/
def Trig.add (e : Trig) (n : Nat) : Trig :=
  let e := { e with count := e.count + n }
  if e.target ≤ e.count then e.fire else e

/-- One entry sees a write applied at a slice: a count (R370), or the test of a watched word (R373). -/
def State.seenBy (s : State) (slice : Nat) (as : List Nat) (e : Trig) : Trig :=
  if e.state ≠ 1 then e
  else if e.watch then
    if (as.any fun a => e.home ≤ a && a < e.home + 8) && e.target ≤ s.readHomeNat e.home 8 then e.fire else e
  else
    let n := e.hits as
    if n = 0 then e
    else if s.sliceOf e.home = some slice then e.add n
    else
      let u := Tab.get (0, s.clock) e.unsent slice
      { e with unsent := Tab.put e.unsent slice (u.1 + n, u.2) }

/-- The expiry counters that a write reaches (R344). -/
def Contract.expired (s : State) (as : List Nat) (c : Contract) : Bool :=
  match c.counter with
  | none => false
  | some (a, target) => c.expiry && (as.any fun x => a ≤ x && x < a + 8) && target ≤ s.readHomeNat a 8

/-- Is an address in a page whose bias is being changed (R467)? Accesses to it are held. -/
def State.flipping (s : State) (a : Nat) : Bool :=
  match s.fe.flip with
  | none => false
  | some f => a < 2 ^ 40 && f.first ≤ a / 4096 && a / 4096 < f.first + f.count
/-- An access of the step must wait: the step will do nothing. -/
def State.mustWait (s : State) : State := { s with stall := true }
/-- An access of the step leaves a request behind. -/
def State.note (s : State) (k : Ask) : State := { s with asks := s.asks ++ [k] }
/-- An access of the step must wait for what it asks. -/
def State.ask (s : State) (k : Ask) : State := (s.note k).mustWait
/-- A step that must wait does nothing yet, but for what its accesses ask (log 40). -/
def State.again (s s' : State) : State := { s with stall := true, asks := s'.asks }
/-- A step whose accesses need not wait gives `s'`; else it does nothing yet, and may be taken again (log 40). -/
def State.orWait (s s' : State) : State := if s'.stall && !s.stall then s.again s' else s'
/-- An access that is dropped where it would have to wait. -/
def State.orSkip (s s' : State) : State := if s'.stall && !s.stall then s else s'
/-- An access that reaches a layer which sleeps or is changing waits, and wakes it (R337). -/
def State.wakeAsk (s : State) (t a : Nat) : State := if (s.wakeFor t a).isSome then s.ask (.wake t a) else s
/-- The key of the requests of the engine whose act the step is. -/
def State.engineKey (s : State) : Option Waiter :=
  s.acting.map fun x =>
    { gk := (s.sel.map fun y => y.gk).getD 0, op := (s.sel.map fun y => y.fid).getD 0, part := 0, eng := some x }
/-- Has the engine's request for a line been served already? -/
def State.given (s : State) (line : Nat) : Bool := s.engineKey.any fun w => s.granted.contains (w, line)

/-- One write is applied at its home slice (R169, R326): all its bytes together; arrival counters, watched words and
contract counters see it, and running migrations mark its lines (R460). In a page whose bias is being changed it is held
(R467). -/
def State.applyQuiet (s : State) (ws : List (Nat × Byte)) : State :=
  match ws with
  | [] => s
  | (a0, _) :: _ =>
    let as := ws.map fun w => w.1
    if as.any s.flipping then s.mustWait else
    let s := ws.foldl (fun s w => s.putHome w.1 w.2) s
    let s := if s.plat.bad = [] then s else s.updPlat fun p => { p with bad := healBy as p.bad }
    let slice := (s.sliceOf a0).getD 0
    let s := { s with trigs := s.trigs.map fun (e : Nat × Trig) => (e.1, s.seenBy slice as e.2) }
    let s : State := s.tenants.foldl (fun (s : State) (t : Nat × TenantSt) => s.endContracts t.1 fun c => c.expired s as) s
    if s.fe.migs = [] then s
    else
      s.updFe fun f => { f with migs := f.migs.map fun m =>
        (m.1, { m.2 with marked := ((as.filter fun a => m.2.src ≤ a && a < m.2.src + 4096 * 2 ^ m.2.size).map
                                     fun a => a / 128).foldl (fun l x => if l.contains x then l else l ++ [x]) m.2.marked }) }

/-- A write by another agent to a task queue's ring leaves the contents of its unstarted records undefined (R380): each
becomes a free one. -/
def State.spoilQueues (s : State) (as : List Nat) : State :=
  let hit (q : TaskQ) : Bool := q.recs != [] && as.any fun a => a % 4096 < 64 * q.slots && q.pages.contains (a / 4096)
  if s.taskqs.any fun q => hit q.2 then
    { s.used with taskqs := s.taskqs.map fun (q : Nat × TaskQ) =>
        (q.1, if hit q.2 then
            { q.2 with recs := q.2.recs.map fun (r : Nat × Nat × List Byte) =>
                (r.1, r.2.1, (List.range 64).map fun i => Config.freeByte s.freeCtr (64 * r.2.1 + i)) }
          else q.2) }
  else s
/-- The little-endian value of `n` bytes from a store-space offset of a tenant. -/
def State.storeNat (s : State) (t o n : Nat) : Nat :=
  leNat ((List.range n).map fun i => ((s.storeSpot t (o + i)).map s.readHome).getD 0)
/-- Where the records in `n` slots of a spill ring stand. -/
def State.recordBytes (s : State) (t base n : Nat) : List Nat :=
  (List.range n).flatMap fun j =>
    let o := base + 0x40 + 0x4000 * j
    (List.range (min 0x4000 (s.storeNat t (o + 0x2C) 4))).filterMap fun i => s.storeSpot t (o + i)
/-- The bytes of the records spilled by the grids whose ring a write will reach (R412). -/
def State.spillBytes (s : State) (as : List Nat) : List Nat :=
  s.grids.flatMap fun g =>
    match g.2.slalom.bind fun x => x.spill with
    | none => []
    | some base =>
      let t := g.2.tenant
      let n := s.storeNat t base 4
      if as.any fun a => (s.offsetIn (s.tenant t).extents a).any fun o => base ≤ o && o < base + 0x40 + 0x4000 * n then
        s.recordBytes t base n
      else []
/-- Bytes at home addresses become free ones. -/
def State.freeBytes (s : State) (as : List Nat) : State :=
  if as = [] then s
  else (((List.range as.length).zip as).foldl (fun (s : State) x => s.putHome x.2 (Config.freeByte s.freeCtr x.1)) s).used
/-- One write is applied at its home, by an agent other than the task dispatchers and the leap units that own the rings it
may reach: records that stood in such a ring as the write arrived are undefined after it (R380, R412). -/
def State.applyHome (s : State) (ws : List (Nat × Byte)) : State :=
  let as := ws.map fun w => w.1
  ((s.applyQuiet ws).spoilQueues as).freeBytes (s.spillBytes as)

/-- Write `bs` from a home address as one application. -/
def State.writeHomeN (s : State) (a : Nat) (bs : List Byte) : State :=
  s.applyHome ((List.range bs.length).zip bs |>.map fun p => (a + p.1, p.2))

/-- Write a fault-log record (R437), as a release, then count it. -/
def State.faultLog (s : State) (t : Nat) (r : FaultRec) : State :=
  let c := (s.tenant t).tcfg
  let n := (s.tenant t).flogProd
  let s := if tcfgEntries c = 0 then s
    else s.writeHomeN (tcfgFlog c + 64 * (n % tcfgEntries c)) (r.bytes s.clock)
  s.updTenant t fun x => { x with flogProd := (n + 1) % 2 ^ 32 }

/-! ## Halting a partition (R479) -/

/-- The tenant of a partition (R438). -/
def PartSt.tenant (p : PartSt) : Nat := bits p.cfg 63 58
/-- VALID of PARTCFG. -/
def PartSt.valid (p : PartSt) : Bool := p.cfg.getLsbD 66
/-- RESERVED of PARTCFG. -/
def PartSt.reserved (p : PartSt) : Bool := p.cfg.getLsbD 67
/-- Does the partition hold a cluster (numbered 12*die + cluster)? -/
def PartSt.hasCluster (p : PartSt) (c : Nat) : Bool := p.valid && p.cfg.getLsbD c

/-- KillUnit of a slalom grid (R118, R400, R412). -/
def State.killSlalom (s : State) (n : Nat) (g : Grid) (cause : Nat) : State :=
  if s.kills.any fun k => k.unit == .slalom n then s
  else
    { s with kills := s.kills ++
        [{ unit := .slalom n, tenant := g.tenant, part := g.part, grid := n, lin := 0
           core := ((g.slalom.map fun x => x.cores).getD [])[0]?.getD 0, cause := cause, epc := 0, eaddr := 0
           einfo := BitVec.ofNat 32 (2 ^ 24 * cause), packet := none }] }

/-- KillUnit of a team that may have no group left. -/
def State.killTeam (s : State) (tk : Nat) (t : Team) (cause : Nat) (packet : Option (Nat × Nat)) : State :=
  if s.kills.any fun k => k.unit == .team tk then s
  else
    { s with kills := s.kills ++
        [{ unit := .team tk, tenant := t.tenant, part := t.part, grid := t.grid, lin := t.linear, core := tk / 8
           cause := cause, epc := 0, eaddr := 0, einfo := BitVec.ofNat 32 (2 ^ 24 * cause), packet := packet }] }

/-- Every unit of a partition ends as by KillUnit (R479 step 1). -/
def State.killPart (s : State) (p cause : Nat) : State :=
  let s := s.grids.foldl (fun (s : State) x =>
    if x.2.part = p && x.2.slalom.isSome then s.killSlalom x.1 x.2 cause else s) s
  let s := s.groups.foldl (fun s x => if x.2.part = p then s.killUnit (coreOf x.1) x.2 cause else s)
    ((s.swapped.foldl (fun s x => if x.group.part = p then s.killUnit x.core x.group cause else s)) s)
  s.teams.foldl (fun (s : State) x => if x.2.part = p then s.killTeam x.1 x.2 cause none else s) s

/-- A partition is halted (R479). -/
def State.haltPart (s : State) (p : Nat) : State :=
  let t := (s.partn p).tenant
  let s := s.killPart p 0xFF
  let s := s.faultLog t { kind := 6, cause := 0xFF, part := p, gridid := 0xFFFFFFFF, unit := 0, core := 0, epc := 0,
                          eaddr := 0, einfo := 0 }
  s.updPart p fun x => { x with halted := true }

/-- Every partition of a tenant is halted: an uncorrectable error met in write-back of its data (R479). -/
def State.haltTenant (s : State) (t : Nat) : State :=
  s.parts.foldl (fun s p => if p.2.valid && p.2.tenant == t then s.haltPart p.1 else s) s

/-! ## The store cache (R329-R331) -/

/-- The bytes of a mask of a line. -/
def maskAddrs (line : Nat) (m : BitVec 128) : List Nat :=
  ((List.range 128).filter fun i => m.getLsbD i).map fun i => 128 * line + i

/-- The tenants whose accesses dirtied the bytes of a line at some addresses (R479). -/
def StoreLine.dirtiers (l : StoreLine) (as : List Nat) : List Nat :=
  (as.map fun a => Tab.get l.tenant l.by_ (a % 128)).eraseDups
/-- The partitions of several tenants are halted (R479). -/
def State.haltTenants (s : State) (ts : List Nat) : State := ts.foldl (fun (s : State) t => s.haltTenant t) s
/-- A peer refuses a line of the store cache (R471): its dirty bytes are lost, and the peer's are not known (free). -/
def State.loseLine (s : State) (l : StoreLine) : State :=
  let as := maskAddrs l.line l.dirty
  let s : State := as.foldl (fun (s : State) a => s.putHome a (Config.freeByte s.freeCtr a)) s
  s.used.haltTenants (l.dirtiers as)
/-- The dirty bytes of a line leave for their tier: one with an uncorrectable error halts the partitions of the tenant
whose access dirtied it, and a line that no peer takes is lost (R329, R471, R479). -/
def State.sendLine (s : State) (l : StoreLine) : State :=
  let bad := if s.plat.bad = [] then [] else (maskAddrs l.line l.dirty).filter s.badAt
  if bad ≠ [] then s.haltTenants (l.dirtiers bad)
  else if tierOf (128 * l.line) = 2 ∧ l.dirty ≠ 0 then
    if s.routed (128 * l.line) = false then s.loseLine l else s.through (128 * l.line)
  else s

/-- The dirty bytes of a line reach its tier: a protected word that writes in the store cache have covered whole, and that
is sent whole, shows no error any more (R324, R477). -/
def State.healTier (s : State) (l : StoreLine) : State :=
  if s.plat.healed = [] then s
  else
    let as := (maskAddrs l.line l.dirty).filter fun a => s.plat.healed.contains (a / 8 * 8)
    s.updPlat fun p => { p with bad := healBy as p.bad }
/-- Drop a line from a slice's store cache; its dirty bytes go to the tier (R329). What the tier's word does not take over
whole shows its error again. -/
def State.dropLine (s : State) (slice : Nat) (l : StoreLine) : State :=
  let s := ((s.updSlice slice fun x => { x with lines := x.lines.filter fun y => y.line != l.line }).sendLine l).healTier l
  if s.plat.healed = [] then s
  else s.updPlat fun p => { p with healed := p.healed.filter fun w => w / 128 != l.line }

/-- The line that replacement chooses among a tenant's lines of a slice (R331): under no active contract and not in a
miss; a line marked stream first, then the least recently used. -/
def State.victim (s : State) (slice t : Nat) : Option StoreLine :=
  let cands := (s.slice slice).lines.filter fun l =>
    l.tenant == t && (s.holder l.line).isNone && !((s.slice slice).misses.any fun m => m.line == l.line)
  cands.foldl (fun best l =>
    match best with
    | none => some l
    | some b => if (l.stream && !b.stream) || (l.stream == b.stream && l.used < b.used) then some l else some b) none

/-- Make room for one line of a tenant in a slice; none where the tenant has no cache units there or no line of its
own may be replaced. -/
def State.makeRoom (s : State) (slice t : Nat) : Option State :=
  let cap := 32 * s.cacheUnitsIn t slice
  let n := ((s.slice slice).lines.filter fun l => l.tenant == t).length
  if cap = 0 ∨ 64 ≤ t then none
  else if n < cap then some s
  else (s.victim slice t).map fun v => s.dropLine slice v

/-- A line's bytes dirtied by a tenant (R479). -/
def dirtyBy (t : Nat) (m : BitVec 128) (b : Tab Nat) : Tab Nat :=
  (List.range 128).foldl (fun b i => if m.getLsbD i then Tab.put b i t else b) b
/-- Bytes of a line become valid (and dirty) in the store cache, in a line that is there or is allocated for the
tenant. `stream` marks the line (R181). -/
def State.cacheSet (s : State) (slice t line : Nat) (valid dirty : BitVec 128) (stream : Bool) : State :=
  match s.storeLine slice line with
  | some _ =>
    s.updSlice slice fun x => { x with lines := x.lines.map fun l =>
      if l.line = line then
        { l with valid := l.valid ||| valid, dirty := l.dirty ||| dirty, used := s.turnNo
                 stream := l.stream || stream, by_ := dirtyBy t dirty l.by_ }
      else l }
  | none =>
    match s.makeRoom slice t with
    | none => s
    | some s =>
      s.updSlice slice fun x =>
        { x with lines := x.lines ++ [{ line := line, tenant := t, valid := valid, dirty := dirty, stream := stream,
                                        used := s.turnNo, by_ := dirtyBy t dirty [] }] }

/-- The mask of bytes `i` to `i + n - 1` of a line. -/
def byteMask (i n : Nat) : BitVec 128 := BitVec.ofNat 128 ((2 ^ n - 1) * 2 ^ i)

/-- The lines that `n` bytes from an address reach: line, first byte in it, number. -/
def linesOf (a n : Nat) : List (Nat × Nat × Nat) :=
  (List.range ((a + n - 1) / 128 + 1 - a / 128)).map fun k =>
    let line := a / 128 + k
    let lo := max a (128 * line)
    let hi := min (a + n) (128 * line + 128)
    (line, lo - 128 * line, hi - lo)

/-- Is a line of host memory poisoned (R477)? It is never filled. -/
def State.poisoned (s : State) (line : Nat) : Bool :=
  tierOf (128 * line) == 1 && (s.badAt (128 * line) || s.badAt (128 * line + 64))
/-- The pending fills of contracts at a slice, in the order of R343: priority, then contract order, then address. A
poisoned host line has no fill. -/
def State.pendingFills (s : State) (slice : Nat) : List Nat :=
  let cs := (s.tenants.flatMap fun t => t.2.contracts).filter fun c => c.active && c.fill
  ((cs.foldl (fun acc c => insertByPrio c acc) []).flatMap Contract.lines).filter fun l =>
    s.homeSlice (128 * l) == some slice && !s.resident slice l && !s.poisoned l
/-- May a line's fill return now (R343, R348), `asked` where a request waits for it? A contract's fill keeps its place
unless the line is late under PROMOTE. -/
def State.fillAllowed (s : State) (slice line : Nat) (asked : Bool) : Bool :=
  let ps := s.pendingFills slice
  !ps.contains line || ps.head? == some line || asked && (s.holder line).any fun h => h.2.late

/-- One line's share of an engine's read (R326, R329, R348): it joins the requests that wait on the line's miss, waits while
the miss table is full and during a bias flip (R467), and takes an entry where its fill must keep a place among those of
contracts; otherwise a line that is not valid in the store cache is filled at once (log 40), and counts as late where a
contract holds it. A request that has been served waits no more. A poisoned host line is not filled (R477), nor a line
that no peer gives (R471). -/
def State.readLine (s : State) (t line : Nat) (mask : BitVec 128) (stream : Bool) : State :=
  match s.homeSlice (128 * line) with
  | none => s
  | some slice =>
    let fill (s : State) : State :=
      if s.poisoned line then s else (s.through (128 * line)).cacheSet slice t line (BitVec.allOnes 128) 0 stream
    if !s.reached (128 * line) then s
    else if s.flipping (128 * line) then s.mustWait
    else if s.given line then (if s.hasBytes slice line mask then s.cacheSet slice t line 0 0 stream else fill s)
    else if (s.slice slice).misses.any fun m => m.line == line then s.ask (.join slice line t)
    else if s.hasBytes slice line mask then s.cacheSet slice t line 0 0 stream
    else if 64 ≤ (s.slice slice).misses.length then s.mustWait
    else if !s.fillAllowed slice line true then s.ask (.join slice line t)
    else fill ((if (s.holder line).isSome then s.note (.late slice line t) else s).countLate line)
/-- An engine reads `n` bytes at a home address, with one request for each line. -/
def State.engineRead (s : State) (t a n : Nat) (stream : Bool) : State :=
  if n = 0 then s
  else
    let s := s.met ((List.range n).map fun i => a + i)
    let s := (linesOf a n).foldl (fun (s : State) l => s.wakeAsk t (128 * l.1)) s
    if isStore a then s else (linesOf a n).foldl (fun s l => s.readLine t l.1 (byteMask l.2.1 l.2.2) stream) s

/-- Words of the stores' width that a write has covered in lines of the store cache show no error any more, whatever the
tier's word shows (R324, R477). -/
def State.healStore (s : State) (as : List Nat) : State :=
  if s.plat.bad = [] then s
  else
    let ws := (as.map fun a => a / 8 * 8).eraseDups.filter fun w =>
      s.badAt w && ((List.range 8).all fun i => as.contains (w + i))
      && ((s.homeSlice w).bind fun n => s.storeLine n (w / 128)).isSome
    s.updPlat fun p => { p with healed := p.healed ++ ws }
/-- The store-cache side of writes at home addresses: lines are allocated without a fetch, the bytes valid and dirty
(R329). -/
def State.cacheWrite (s : State) (t : Nat) (ws : List (Nat × Byte)) (stream : Bool) : State :=
  let as := (ws.map fun w => w.1).filter fun a => !isStore a
  ((as.map fun a => a / 128).eraseDups).foldl (fun s line =>
    let m := as.foldl (fun (m : BitVec 128) a => if a / 128 = line then m ||| byteMask (a % 128) 1 else m) 0
    match s.homeSlice (128 * line) with
    | none => s
    | some slice => s.cacheSet slice t line m m stream) s |>.healStore as

/-- A write at a peer's line that the store cache does not hold goes out through the peer's port (R329, R468). -/
def State.sentOut (s : State) (line : Nat) : State :=
  if isStore (128 * line) = false ∧ tierOf (128 * line) = 2
      ∧ ((s.homeSlice (128 * line)).bind fun n => s.storeLine n line).isNone then s.through (128 * line) else s
/-- A write of a tenant applied at its home, through the store cache, once no layer that it reaches sleeps (R337). Bytes
that reach no peer are not applied (R471). -/
def State.engineWrite (s : State) (t : Nat) (ws : List (Nat × Byte)) : State :=
  let ws := ws.filter fun w => s.reached w.1
  let ls := (ws.map fun w => w.1 / 128).eraseDups
  let s := ls.foldl (fun (s : State) l => s.wakeAsk t (128 * l)) s
  ls.foldl (fun (s : State) l => s.sentOut l) ((s.applyHome ws).cacheWrite t ws false)

/-- Writes of a tenant at any home addresses, each line applied on its own. -/
def State.engineWrites (s : State) (t : Nat) (ws : List (Nat × Byte)) : State :=
  ((ws.map fun w => w.1 / 128).eraseDups).foldl (fun (s : State) l =>
    s.engineWrite t (ws.filter fun w => w.1 / 128 == l)) s

/-- Write `bs` at a home address for a tenant. -/
def State.engineWriteN (s : State) (t a : Nat) (bs : List Byte) : State :=
  s.engineWrite t ((List.range bs.length).zip bs |>.map fun p => (a + p.1, p.2))

end Sys2Proof.Machine
end

