-- ==== Sys2Proof/Machine/Translate.lean ====
section
/-! DEFINITION. Address translation (R452-R457): the page-table walk, the TLBs, and checks of pointers. -/
namespace Sys2Proof.Machine

/-- Read permission. -/
def permR : Nat := 1
/-- Write permission. -/
def permW : Nat := 2
/-- Execute permission. -/
def permX : Nat := 4

/-- A translation fault (R454, R455): reason and level. -/
structure Xfault where
  reason : Nat
  level : Nat
deriving DecidableEq, Repr

/-- The tenant whose ASID range holds an ASID (R436). -/
def State.tenantOfAsid (s : State) (asid : Nat) : Option Nat :=
  (s.tenants.find? fun t => t.2.bound && tcfgAsid t.2.tcfg ≤ asid && asid < tcfgAsid t.2.tcfg + tcfgAsids t.2.tcfg).map
    fun t => t.1

/-- The bytes that an engine reads at home addresses; one that meets an error is free (log 12). -/
def State.gather (s : State) (as : List Nat) : List Byte :=
  as.map fun a => if s.errAt a then Config.freeByte s.freeCtr a else s.readHome a
/-- A walker's read of `n` bytes: a home-served read of the tenant, which wakes a sleeping layer (R337, R456). -/
def State.walkRead (s : State) (t a n : Nat) : State × Nat :=
  (s.engineRead t a n false, leNat (s.gather ((List.range n).map fun i => a + i)))

/-- Reserved bits of a page-table entry (R453). -/
def pteReserved (e lv : Nat) : Bool := e / 2 ^ 52 ≠ 0 || e / 2 ^ 6 % 2 ^ 6 ≠ 0 || (lv ≠ 0 && e / 32 % 2 = 1)
/-- LEAF breaks R453. -/
def pteBadLeaf (e lv : Nat) : Bool := if lv = 0 then e / 2 % 2 = 0 else 3 ≤ lv && e / 2 % 2 = 1
/-- The frame of an entry, or the next table. -/
def pteAddr (e : Nat) : Nat := e / 2 ^ 12 % 2 ^ 40 * 4096
/-- The permissions of a leaf. -/
def ptePerms (e : Nat) : Nat := e / 4 % 8
/-- Bytes of a leaf's page. -/
def pageBytes (lv : Nat) : Nat := 2 ^ (12 + 9 * lv)

/-- The sixteen entries of a CONT group agree (R453): all marked, equal permissions, consecutive frames from one that
is aligned to 64 KiB. -/
def contOk (es : List Nat) : Bool :=
  match es with
  | [] => false
  | e0 :: _ =>
    pteAddr e0 % 65536 == 0
    && (es.zip (List.range 16)).all fun p =>
      p.1 / 32 % 2 == 1 && p.1 % 2 == 1 && ptePerms p.1 == ptePerms e0 && pteAddr p.1 == pteAddr e0 + 4096 * p.2

/-- One level of a walk (R454): a fault, a leaf, or the next table. -/
def State.walkStep (s : State) (asid va need table lv e : Nat) : Except Xfault (TlbEntry ⊕ Nat) :=
  let idx := va / 2 ^ (12 + 9 * lv) % 512
  if e % 2 = 0 then .error { reason := 1, level := lv }
  else if pteReserved e lv || pteBadLeaf e lv then .error { reason := 3, level := lv }
  else if e / 2 % 2 = 1 then
    let cont := lv = 0 && e / 32 % 2 = 1
    let g := idx / 16 * 16
    let es := if cont then (List.range 16).map fun k => leNat (s.gather ((List.range 8).map fun i => table + 8 * (g + k) + i)) else []
    let size := if cont then 65536 else pageBytes lv
    let first := if cont then pteAddr (es.headD 0) else pteAddr e
    if (cont && !contOk es) || first % size ≠ 0 then .error { reason := 3, level := lv }
    else if need &&& ptePerms e ≠ need then .error { reason := 2, level := lv }
    else if (s.region (first + va % size)).isNone then .error { reason := 4, level := lv }
    else .ok (.inl { asid := asid, va := va / size * size, pa := first, size := size, perms := ptePerms e
                     tier := tierOf first })
  else .ok (.inr (pteAddr e))

/-- The levels of a walk (R454), from level `lv` down. -/
def State.walkLv (s : State) (t asid va need : Nat) (table : Nat) : Nat → State × Except Xfault TlbEntry
  | 0 =>
    let r := s.walkRead t (table + 8 * (va / 2 ^ 12 % 512)) 8
    match r.1.walkStep asid va need table 0 r.2 with
    | .error f => (r.1, .error f)
    | .ok (.inl e) => (r.1, .ok e)
    | .ok (.inr _) => (r.1, .error { reason := 3, level := 0 })
  | lv + 1 =>
    let r := s.walkRead t (table + 8 * (va / 2 ^ (12 + 9 * (lv + 1)) % 512)) 8
    match r.1.walkStep asid va need table (lv + 1) r.2 with
    | .error f => (r.1, .error f)
    | .ok (.inl e) => (r.1, .ok e)
    | .ok (.inr next) => State.walkLv r.1 t asid va need next lv

/-- Walk of R454, from the ASID table. -/
def State.walk (s : State) (t asid va need : Nat) : State × Except Xfault TlbEntry :=
  let r := s.walkRead t (s.fe.asidTab.toNat + 16 * asid) 16
  let e := r.2
  if e % 2 = 0 ∨ e / 2 ^ 64 % 64 ≠ t then (r.1, .error { reason := 4, level := 7 })
  else if e / 2 ^ 70 ≠ 0 ∨ e / 2 ^ 52 % 2 ^ 12 ≠ 0 ∨ e / 2 % 2 ^ 11 ≠ 0 then (r.1, .error { reason := 3, level := 7 })
  else r.1.walkLv t asid va need (e / 2 ^ 12 % 2 ^ 40 * 4096) 4

/-- Does a cached translation cover an address? -/
def TlbEntry.covers (e : TlbEntry) (asid va : Nat) : Bool := e.asid == asid && e.va ≤ va && va < e.va + e.size
/-- Put a translation into a TLB; a full one drops an entry of the implementation's choice (R456). -/
def tlbPut (n k : Nat) (t : List TlbEntry) (e : TlbEntry) : List TlbEntry :=
  if t.contains e then t
  else if t.length < n then t ++ [e]
  else t.eraseIdx (k % t.length) ++ [e]

/-- EXPORT registers: FRAME. -/
def exportFrame (e : W64) : Nat := bits e 39 30
/-- KEY. -/
def exportKey (e : W64) : Nat := bits e 17 2
/-- The HBM address that a request to the export aperture reaches; none where it is refused (R470). -/
def State.exportAt (s : State) (off key : Nat) (write : Bool) : Option Nat :=
  let e := Tab.get 0 s.fe.exports (off / 2 ^ 30)
  if off < 2 ^ 34 ∧ e.getLsbD 0 ∧ exportKey e = key ∧ (!write || e.getLsbD 1) = true then
    some (exportFrame e * 2 ^ 30 + off % 2 ^ 30)
  else none
/-- Where an access of a tenant goes that has been translated: a peer address of the package itself names what its own
apertures export, where they accept the tenant's request (R469, R470; log 34). -/
def State.ownHbm (s : State) (t need a : Nat) : Nat :=
  if tierOf a = 2 ∧ a / 2 ^ 34 % 2 ^ 17 = s.fe.rinkId.toNat % 2 ^ 17 then
    match s.exportAt (a % 2 ^ 34) (s.tenant t).rinkKey (need &&& permW != 0) with
    | some h => if (s.region h).isSome then h else a
    | none => a
  else a

/-- Cache a translation in a core's TLB and its cluster's (R456). -/
def State.tlbFill (s : State) (core : Nat) (e : TlbEntry) : State :=
  let k := Config.freeIndex s.freeCtr
  let s := s.used
  let s := s.updCore core fun c => { c with tlb := tlbPut 256 k c.tlb e }
  s.updCluster (clusterOf core) fun c => { c with tlb := tlbPut 4096 k c.tlb e }

/-- The level that a page of a size comes from. -/
def levelOf (size : Nat) : Nat := if size ≤ 65536 then 0 else if size = 2 ^ 21 then 1 else 2

/-- Translate a virtual address for a core (R454-R456): a cached translation, or else a walk whose valid leaf is
cached. -/
def State.translate (s : State) (core t asid va need : Nat) : State × Except Xfault Nat :=
  let use (s : State) (e : TlbEntry) : State × Except Xfault Nat :=
    if need &&& e.perms ≠ need then (s, .error { reason := 2, level := levelOf e.size })
    else (s, .ok (s.ownHbm t need (e.pa + (va - e.va))))
  match (s.core core).tlb.find? fun e => e.covers asid va with
  | some e => use s e
  | none =>
    match (s.cluster (clusterOf core)).tlb.find? fun e => e.covers asid va with
    | some e => use (s.tlbFill core e) e
    | none =>
      match s.walk t asid va need with
      | (s, .error f) => (s, .error f)
      | (s, .ok e) => (s.tlbFill core e, .ok (s.ownHbm t need (e.pa + (va - e.va))))

/-- Translate without a core's TLB, as the front end and the dispatchers do: by a walk. -/
def State.translateFe (s : State) (t asid va need : Nat) : State × Except Xfault Nat :=
  match s.walk t asid va need with
  | (s, .error f) => (s, .error f)
  | (s, .ok e) => (s, .ok (s.ownHbm t need (e.pa + (va - e.va))))

/-- The tag of a pointer (R30). -/
def tagOf (p : W64) : Nat := bits p 63 60
/-- The body of a global pointer, when its tag and its must-be-zero bits are right (R30). -/
def globalBody (p : W64) : Option Nat := if bits p 63 57 = 0 then some (bits p 56 0) else none
/-- The body of a store-space pointer. -/
def storeBody (p : W64) : Option Nat := if tagOf p = 1 ∧ bits p 59 32 = 0 then some (bits p 31 0) else none

/-- Why an access is refused: cause number, and the reason and level bits of DETAIL (R117, R455). -/
structure AccFault where
  cause : Nat
  detail : Nat
deriving DecidableEq, Repr

/-- SPACE. -/
def spaceFault : AccFault := { cause := 4, detail := 0 }
/-- The XLATE fault of a walk (R455). -/
def xlateFault (f : Xfault) : AccFault := { cause := 2, detail := f.reason * 2 ^ 10 + f.level * 2 ^ 7 }
/-- XLATE of a store-space offset outside the tenant's ranges (R34). Its level and reason are not stated: 0. -/
def xlateStore : AccFault := { cause := 2, detail := 0 }
/-- STOREOFF (R34). -/
def storeOff : AccFault := { cause := 12, detail := 0 }

/-- The home address of the byte that a global or store-space pointer names, for a translation `tr`. `tags` lists the
tags accepted. -/
def State.locateBy (tr : State → Nat → State × Except Xfault Nat) (s : State) (t : Nat) (tags : List Nat) (p : W64) :
    State × Except AccFault Nat :=
  if !tags.contains (tagOf p) then (s, .error spaceFault)
  else
    match tagOf p with
    | 0 =>
      match globalBody p with
      | none => (s, .error spaceFault)
      | some va =>
        match tr s va with
        | (s, .ok a) => (s, .ok a)
        | (s, .error f) => (s, .error (xlateFault f))
    | 1 =>
      match storeBody p with
      | none => (s, .error spaceFault)
      | some o =>
        match s.resolve t o with
        | .at a => (s, .ok a)
        | .off => (s, .error storeOff)
        | .xlate => (s, .error xlateStore)
    | _ => (s, .error spaceFault)

/-- Locate a byte for a group of a core. -/
def State.locate (s : State) (core : Nat) (g : Group) (tags : List Nat) (need : Nat) (p : W64) :
    State × Except AccFault Nat :=
  State.locateBy (fun s va => s.translate core g.tenant g.asid va need) s g.tenant tags p

/-- Locate a byte for the front end or a dispatcher. -/
def State.locateFe (s : State) (t asid : Nat) (tags : List Nat) (need : Nat) (p : W64) : State × Except AccFault Nat :=
  State.locateBy (fun s va => s.translateFe t asid va need) s t tags p

/-- The home addresses of `n` bytes from a pointer, page by page: each byte, or the first refusal, by the pointer that
met it. -/
def State.spanBy (loc : State → W64 → State × Except AccFault Nat) (s : State) (p : W64) (n : Nat) :
    State × Except (W64 × AccFault) (List Nat) :=
  let pages := (p.toNat + n - 1) / 4096 + 1 - p.toNat / 4096
  (List.range (if n = 0 then 0 else pages)).foldl (fun acc k =>
    match acc with
    | (s, .error f) => (s, .error f)
    | (s, .ok as) =>
      let lo := max p.toNat (4096 * (p.toNat / 4096 + k))
      let hi := min (p.toNat + n) (4096 * (p.toNat / 4096 + k + 1))
      let q := BitVec.ofNat 64 lo
      match loc s q with
      | (s, .error f) => (s, .error (q, f))
      | (s, .ok a) => (s, .ok (as ++ (List.range (hi - lo)).map fun i => a + i))) (s, .ok [])

/-- The home addresses of `n` bytes, for the front end. -/
def State.spanFe (s : State) (t asid : Nat) (tags : List Nat) (need : Nat) (p : W64) (n : Nat) :
    State × Except (W64 × AccFault) (List Nat) :=
  State.spanBy (fun s q => s.locateFe t asid tags need q) s p n
/-- The home addresses of `n` bytes, for a group of a core. -/
def State.span (s : State) (core : Nat) (g : Group) (tags : List Nat) (need : Nat) (p : W64) (n : Nat) :
    State × Except (W64 × AccFault) (List Nat) :=
  State.spanBy (fun s q => s.locate core g tags need q) s p n

/-- An engine's read at home addresses, with its late lines and fills. Runs of consecutive addresses are one read. -/
def State.engineReads (s : State) (t : Nat) (as : List Nat) : State :=
  ((as.map fun a => a / 128).eraseDups).foldl (fun s l =>
    match as.find? fun a => a / 128 == l with
    | some a => s.engineRead t a ((as.filter fun b => b / 128 == l).length) false
    | none => s) s

/-- An engine's read at home addresses by a command that has read some lines before: a poisoned host line among those is
read again at the host (R477), but is no new request (R348). -/
def State.engineReadsMore (s : State) (t : Nat) (as before : List Nat) : State :=
  let again (a : Nat) : Bool := s.poisoned (a / 128) && before.any fun b => b / 128 == a / 128
  (s.met (as.filter again)).engineReads t (as.filter fun a => !again a)

/-- PAGE_WALK (R454, R456): a walk for a core caches a valid leaf; a fault caches nothing. -/
def execPageWalk (core asid vpage : Nat) (s : State) : Host.Outcome State Fault Refusal :=
  .next (s.orWait (match s.tenantOfAsid asid with
    | none => s
    | some t => (s.translate core t asid (vpage * 4096 % 2 ^ 57) 0).1))

end Sys2Proof.Machine
end

