-- ==== Sys2Proof/Machine/Mem.lean ====
section
/-! DEFINITION. Memory words: lane checks (R151, R174), the parts of an access, the order in which a group's accesses
are performed (R156, R157, R169, R186), loads' register writes; atomic operations (R152); scratchpad pages, guards,
tags and banks (R137-R147). -/
namespace Sys2Proof.Machine

/-! ## Scratchpad -/

/-- Key of a scratchpad byte: cluster, and offset in the cluster scratchpad. -/
def scratchKey (cl off : Nat) : Nat := 2 ^ 20 * cl + off
/-- The core whose part holds a scratchpad key. -/
def keyCore (k : Nat) : Nat := 4 * (k / 2 ^ 20) + k % 2 ^ 20 / 2 ^ 18
/-- Part offset of a key. -/
def keyOff (k : Nat) : Nat := k % 2 ^ 18

/-- The owner of a scratchpad page (R140, R394). -/
inductive PageOwner where
  | free
  | team (tk : Nat)
  | slalom (grid : Nat)
  | hardware
deriving DecidableEq, Repr

/-- The team context of a core that owns a part offset. -/
def State.teamAt (s : State) (core off : Nat) : Option (Nat × Team) :=
  (s.teams.find? fun t => t.1 / 8 == core && t.2.base ≤ off && off < t.2.base + t.2.size)

/-- The owner of the page that holds a scratchpad byte (R140). -/
def State.pageOwner (s : State) (k : Nat) : PageOwner :=
  match (s.core (keyCore k)).leap with
  | some l => if keyOff k < 2 ^ 17 then .slalom l.grid else .hardware
  | none =>
    match s.teamAt (keyCore k) (keyOff k) with
    | some (tk, _) => .team tk
    | none => .free

/-- May a group reach a scratchpad byte (R143)? -/
def State.mayReach (s : State) (tenant : Nat) (unit : UnitRef) (k : Nat) : Bool :=
  match s.pageOwner k with
  | .team tk => (match s.team tk with | some t => t.tenant == tenant | none => false)
  | .slalom n => unit == .slalom n
  | _ => false

/-- Is a scratchpad byte in a guard granule (R144, R487)? -/
def State.guarded (s : State) (k : Nat) : Bool :=
  match s.pageOwner k with
  | .team tk =>
    (match s.team tk with
    | some t =>
      let o := keyOff k - t.base
      (t.guardFront.1 ≤ o && o < t.guardFront.2) || (t.guardBack.1 ≤ o && o < t.guardBack.2)
    | none => false)
  | _ => false

/-- Is a scratchpad byte one of CONS and ERRIDX of a command ring (R146)? -/
def State.ringWord (s : State) (k : Nat) : Bool :=
  match s.pageOwner k with
  | .team tk =>
    (match s.team tk with
    | some t =>
      (match t.ring with
      | some r => let o := keyOff k - t.base; r.off + 8 ≤ o && o < r.off + 16
      | none => false)
    | none => false)
  | _ => false

/-- The number of an uncorrectable word of scratchpad in the list of such words (R137). -/
def scratchBad (k : Nat) : Nat := 2 ^ 61 + k / 4 * 4
/-- Does a scratchpad byte show an uncorrectable error? -/
def State.badScratch (s : State) (k : Nat) : Bool := s.plat.bad ≠ [] && s.plat.bad.contains (scratchBad k)

/-- The scratchpad key of a team's allocation base. -/
def teamKey (tk : Nat) (t : Team) : Nat := scratchKey (tk / 8 / 4) (tk / 8 % 4 * 2 ^ 18 + t.base)
/-- Does PROD of a team's ring lie in one of some granules (R290)? -/
def Team.prodIn (t : Team) (tk : Nat) (grs : List Nat) : Bool := t.ring.any fun r => grs.contains ((teamKey tk t + r.off) / 128)
/-- A write has been applied to granules: the engine must read PROD again where it lies in one of them (R290). The
engine's own writes to a ring's control block are no such writes (DESIGN CHOICE, log 43). -/
def State.touchRings (s : State) (grs : List Nat) : State :=
  if s.teams.any fun t => t.2.prodIn t.1 grs then
    { s with teams := s.teams.map fun (t : Nat × Team) =>
        (t.1, if t.2.prodIn t.1 grs then { t.2 with ring := t.2.ring.map fun r => { r with touched := true } } else t.2) }
  else s

/-- Another agent has stored to TAIL of a receiver ring that a leap unit uses: TAIL is undefined from now on (R148). -/
def State.touchSend (s : State) (ks : List Nat) : State :=
  let hit (r : Nat × Bool) : Bool := ks.any fun k => r.1 ≤ k && k < r.1 + 4
  if s.sendRings.any hit then
    { s.used with
      sendRings := s.sendRings.map fun r => (r.1, r.2 || hit r)
      scratch := (s.sendRings.filter hit).foldl (fun m r =>
        Memory.writeN m r.1 ((List.range 4).map fun i => Config.freeByte s.freeCtr (r.1 + i))) s.scratch }
  else s
/-- The bank's write of bytes, with their granule's tag (R145): guard granules and the engine's ring words discard it
(R144, R146); a write that covers a whole 4-byte word ends its error (R158). -/
def State.bankPut (s : State) (k : Nat) (bs : List Byte) (tag : Nat) : State :=
  let ws := ((List.range bs.length).zip bs |>.map fun p => (k + p.1, p.2)).filter fun w =>
    !s.guarded w.1 && !s.ringWord w.1
  let ks := ws.map fun w => w.1
  let s : State := { s with
    scratch := ws.foldl (fun m w => Memory.write m w.1 w.2) s.scratch
    tags := ((ks.map fun k => k / 128).eraseDups).foldl (fun t g => Tab.set 0 t g tag) s.tags }
  let s := (s.taintB (k / 2 ^ 20) (ks.map fun x => x % 2 ^ 20)).touchRings (ks.map fun k => k / 128).eraseDups
  if s.plat.bad = [] then s
  else s.updPlat fun p => { p with bad := p.bad.filter fun w =>
    w < 2 ^ 61 || !((List.range 4).all fun i => ks.contains (w - 2 ^ 61 + i)) }
/-- The bank's write of bytes by an agent other than a leap unit at its receiver rings. -/
def State.bankWrite (s : State) (k : Nat) (bs : List Byte) (tag : Nat) : State :=
  (s.bankPut k bs tag).touchSend ((List.range bs.length).map fun i => k + i)

/-- The bytes of scratchpad at a key. -/
def State.bankRead (s : State) (k n : Nat) : List Byte := Memory.readN s.scratch k n

/-- The body of a core- or cluster-scratchpad pointer as a key (R30, R32), for a core. -/
def scratchBody (core : Nat) (tags : List Nat) (p : W64) : Option Nat :=
  if !tags.contains (tagOf p) then none
  else if tagOf p = 3 ∧ bits p 59 18 = 0 then some (scratchKey (core / 4) (core % 4 * 2 ^ 18 + bits p 17 0))
  else if tagOf p = 4 ∧ bits p 59 20 = 0 then some (scratchKey (core / 4) (bits p 19 0))
  else none

/-! ## Checks of the lanes of a word (R151, R174) -/

/-- A fault of one lane: cause, lane, effective address, further DETAIL bits. -/
structure LaneFault where
  cause : Nat
  lane : Nat
  ea : W64
  detail : Nat
deriving DecidableEq, Repr

/-- What the checks of a word's lanes give: the state (translation caches), the faults, and each lane's address. -/
structure Checked where
  s : State
  faults : List LaneFault
  lanes : List (Nat × W64 × Nat)

/-- Check every lane before any cause is raised. `chk` answers the faults of one pointer, or its address. -/
def checkLanes (s : State) (lanes : List (Nat × W64)) (n : Nat)
    (chk : State → W64 → State × Except AccFault Nat) : Checked :=
  lanes.foldl (fun acc l =>
    let misaligned := l.2.toNat % n ≠ 0
    let r := chk acc.s l.2
    let fs := (match r.2 with
      | .error f => [({ cause := f.cause, lane := l.1, ea := l.2, detail := f.detail } : LaneFault)]
      | .ok _ => [])
      ++ (if misaligned then [{ cause := 3, lane := l.1, ea := l.2, detail := 0 }] else [])
    { s := r.1, faults := acc.faults ++ fs
      lanes := acc.lanes ++ (match r.2 with | .ok a => [(l.1, l.2, a)] | .error _ => []) })
    { s := s, faults := [], lanes := [] }

/-- The lane number that DETAIL reports; the scalar access of U = 1 reports 0. -/
def laneNo (i : Nat) : Nat := i % 96
/-- The causes of a word's lanes with their records (R117): SR.EADDR names the lowest lane that raised any of them. -/
def laneCauses (fs : List LaneFault) : List (Nat × CauseRec) :=
  match fs with
  | [] => []
  | f0 :: _ =>
    ((fs.map fun f => f.cause).eraseDups).map fun c =>
      (c, { eaddr := f0.ea
            detail := laneNo f0.lane + ((fs.find? fun f => f.cause == c).map fun f => f.detail).getD 0 })

/-- A local pointer's check (R151): tag and body, and the owner of the first and the last byte's page. -/
def localCheck (core n : Nat) (g : Group) (tags : List Nat) (s : State) (p : W64) : State × Except AccFault Nat :=
  match scratchBody core tags p, scratchBody core tags (p + BitVec.ofNat 64 (n - 1)) with
  | some k, some k' =>
    if s.mayReach g.tenant g.unit k && s.mayReach g.tenant g.unit k' then (s, .ok k) else (s, .error spaceFault)
  | _, _ => (s, .error spaceFault)

/-- A global or store-space pointer's check (R174): tag and body, translation or resolution, of the first and the last
byte. -/
def globalCheck (core n : Nat) (g : Group) (tags : List Nat) (need : Nat) (s : State) (p : W64) :
    State × Except AccFault Nat :=
  match s.locate core g tags need p with
  | (s, .error f) => (s, .error f)
  | (s, .ok a) =>
    if (p.toNat + n - 1) / 4096 = p.toNat / 4096 then (s, .ok a)
    else
      match s.locate core g tags need (p + BitVec.ofNat 64 (n - 1)) with
      | (s, .error f) => (s, .error f)
      | (s, .ok _) => (s, .ok a)

/-! ## Parts -/

/-- The parts of an access (R184): aligned units of at most 8 bytes of each lane, lanes in increasing order. `data`
and `swap` give a lane's operand values. -/
def mkParts (size : Size) (reg : Nat) (lanes : List (Nat × W64 × Nat)) (data swap : Nat → Nat) : List Part :=
  lanes.flatMap fun l =>
    (List.range ((size.bytes + 7) / 8)).map fun k =>
      { lane := l.1, addr := l.2.2 + 8 * k, va := l.2.1 + BitVec.ofNat 64 (8 * k), n := min 8 size.bytes
        reg := reg + 2 * k, data := BitVec.ofNat 64 (data l.1 / 2 ^ (64 * k)), swap := BitVec.ofNat 64 (swap l.1)
        done := false, written := false, got := 0, err := false }

/-- An acquire access (R186). -/
def ordAcq (o : Ord) : Bool := o == .acquire || o == .acqRel || o == .sc
/-- A release access (R186). -/
def ordRel (o : Ord) : Bool := o == .release || o == .acqRel || o == .sc
/-- Does the L1 take part at this scope (R165)? -/
def scopeWide (c : Scope) : Bool := c == .cluster || c == .device || c == .system

/-- Do two parts touch a common byte? -/
def Part.meets (a b : Part) : Bool := a.addr < b.addr + b.n && b.addr < a.addr + a.n

/-- Is every part of a memory word performed? -/
def MemOp.performed (m : MemOp) : Bool := m.parts.all fun p => p.done

/-- Are all of an operation's accesses performed, for a later release (R157, R178, R186)? -/
def OpKind.performed (k : OpKind) : Bool :=
  match k with
  | .mem m => m.performed
  | .kvins _ _ _ _ _ _ _ _ => false
  | .xpose _ _ _ _ _ _ _ _ => false
  | .send _ _ _ _ _ _ _ payload _ => payload.isSome
  | _ => true

/-- Does an earlier operation, still outstanding, keep a part from being performed (R156, R169, R186)? -/
def OpKind.blocks (k : OpKind) (isLocal : Bool) (p : Part) : Bool :=
  match k with
  | .mem e => ordAcq e.ord || (e.isLocal == isLocal && e.parts.any fun q => !q.done && q.meets p)
  | .scalars _ acq => acq
  | .kvins _ _ _ _ _ _ _ runs => !isLocal && runs.any fun r => p.addr < r.1 + r.2 && r.1 < p.addr + p.n
  | .xpose _ _ _ _ _ _ _ _ => !isLocal
  | .send _ _ _ _ _ scr runs none _ =>
    scr == isLocal && runs.any fun r => p.addr < r.1 + r.2 && r.1 < p.addr + p.n
  | _ => false

/-- The operations that the group issued before one. -/
def Group.opsBefore (g : Group) (id : Nat) : List Op := g.ops.takeWhile fun o => o.id != id

/-- May part `j` of operation `id` be performed now, as far as the group's earlier accesses go? -/
def Group.mayPerform (g : Group) (id : Nat) (m : MemOp) (j : Nat) : Bool :=
  match m.parts[j]? with
  | none => false
  | some p =>
    let before := g.opsBefore id
    !p.done
    && before.all (fun o => !o.kind.blocks m.isLocal p)
    && (m.parts.take j).all (fun q => q.done || !q.meets p)
    && (!ordRel m.ord || before.all fun o => o.kind.performed)

/-- Change a memory operation of a group. -/
def Group.setMem (g : Group) (id : Nat) (m : MemOp) : Group := g.setOp id (.mem m)
/-- Replace part `j`. -/
def MemOp.setPart (m : MemOp) (j : Nat) (p : Part) : MemOp := { m with parts := m.parts.set j p }

/-! ## Release and acquire actions (R165) -/

/-- Clear VALID on every byte that is not DIRTY of an ASID's lines of a core's L1 (the acquire action). DESIGN CHOICE (log
39): a line that this leaves without a valid byte is no longer present (R164), and a later fill sets its CLASS anew. -/
def State.acquireAction (s : State) (core asid : Nat) : State :=
  s.updCore core fun c => { c with l1 := (c.l1.map fun l =>
    if l.asid = asid then { l with valid := l.dirty } else l).filter fun l => l.valid != 0 }

/-- The lines of an ASID that hold DIRTY bytes. -/
def State.dirtyLines (s : State) (core asid : Nat) : List Nat :=
  ((s.core core).l1.filter fun l => l.asid == asid && l.dirty != 0).map fun l => l.line

/-- Send write-backs for lines (R166); answers their numbers. -/
def State.sendWb (s : State) (core asid : Nat) (lines : List Nat) (inval : Bool) : State × List Nat :=
  lines.foldl (fun acc l =>
    let id := acc.1.nextUid
    ({ (acc.1.updCore core fun c => { c with wbq := c.wbq ++ [{ id := id, line := l, asid := asid, inval := inval }] })
        with nextUid := id + 1 }, acc.2 ++ [id])) (s, [])

/-- Begin a release action. -/
def State.releaseAction (s : State) (core asid : Nat) : State × List Nat :=
  s.sendWb core asid (s.dirtyLines core asid) false

/-- Have write-backs been applied? -/
def State.wbDone (s : State) (core : Nat) (ids : List Nat) : Bool :=
  ids.all fun id => !((s.core core).wbq.any fun w => w.id == id)

/-- The store's dirty lines of host and peer memory that a tenant's accesses dirtied are applied at their homes, and so
acknowledged, before a release at SYSTEM scope completes (R191). DESIGN CHOICE (log 41): all of the tenant's lines go, and
at once. -/
def State.pushOut (s : State) (t : Nat) : State :=
  s.slices.foldl (fun (s : State) x =>
    (x.2.lines.filter fun l => l.dirty != 0 && tierOf (128 * l.line) != 0 && l.by_.any fun b => b.2 == t).foldl
      (fun (s : State) l =>
        (s.updSlice x.1 fun y => { y with lines := y.lines.map fun z =>
          if z.line = l.line then { z with dirty := 0, by_ := [] } else z }).sendLine l |>.healTier l) s) s
/-- The end of a release action at a scope. -/
def State.released (s : State) (t : Nat) (scope : Scope) : State := if scope = .system then s.pushOut t else s

/-- The release action of a memory operation (R157, R165): where one is needed and has not begun, the state in which it
has; `none` in the second place while its write-backs are on their way. -/
def relGate (s : State) (gk : Nat) (g : Group) (id : Nat) (m : MemOp) : State × Option MemOp :=
  if !(ordRel m.ord && scopeWide m.scope) then (s, some m)
  else
    match m.release with
    | none =>
      let r := s.releaseAction (coreOf gk) g.asid
      let m := { m with release := some r.2 }
      if r.2 = [] then (r.1.released g.tenant m.scope, some m) else (r.1.setGroup gk (g.setMem id m), none)
    | some ids => if s.wbDone (coreOf gk) ids then (s.released g.tenant m.scope, some m) else (s, none)

/-! ## Values -/

/-- Sign- or zero-extend a value of `n` bytes to a register or a pair (R69, R151). -/
def extendTo (n : Nat) (sign : Bool) (x : Nat) : Nat :=
  if n < 4 ∧ sign ∧ x / 2 ^ (8 * n - 1) % 2 = 1 then x + 2 ^ 32 - 2 ^ (8 * n) else x

/-- The register writes of a part that returns a value; an error leaves a free value (R158). -/
def Part.writes (p : Part) (ctr : Nat) (sign : Bool) : List (Nat × W32) :=
  let k := if p.n = 8 then 2 else 1
  if p.err then (List.range k).map fun j => (p.reg + j, Config.freeWord ctr (1024 * p.lane + p.reg + j))
  else wordsOf p.reg (extendTo p.n sign p.got.toNat) k

/-- Does the word return values? -/
def MemOp.returns (m : MemOp) : Bool :=
  match m.kind with
  | .load => true
  | .cas => true
  | .atom _ _ ret => ret
  | _ => false

/-- A lane is written once its parts are performed. -/
def MemOp.laneReady (m : MemOp) (i : Nat) : Bool := m.parts.all fun p => p.lane != i || p.done
/-- Has an uncorrectable error met a lane's read? It leaves the lane's whole destination undefined (R158). -/
def MemOp.laneErr (m : MemOp) (i : Nat) : Bool := m.parts.any fun p => p.lane == i && p.err
/-- The register writes of a part, once its lane is ready (R151, R158). -/
def MemOp.partWrites (m : MemOp) (ctr : Nat) (p : Part) : List (Nat × W32) :=
  ({ p with err := m.spoil || m.laneErr p.lane }).writes ctr m.signExt

/-- Write the destinations of the lanes of a mask whose parts are performed (R57, R151), for the word that fragment `fid`
issued; lane 96 stands for scalars and goes with lane 0 of the mask. -/
def MemOp.writeBack (m : MemOp) (g : Group) (now fid ctr : Nat) (lanes : Lanes) : MemOp × Group × List Nat :=
  if !m.returns then ({ m with parts := m.parts.map fun p => { p with written := p.done } }, g, [])
  else
    let ready := m.parts.filter fun p => !p.written && m.laneReady p.lane && lanes.getLsbD (laneNo p.lane)
    let vs := (ready.filter fun p => p.lane != 96).flatMap fun p => (m.partWrites ctr p).map fun w => (w.1, p.lane, w.2)
    let g := ({ g with regs := writeVs g.regs vs }).writeLate now fid
      ((ready.filter fun (p : Part) => p.lane == 96).flatMap fun p => m.partWrites ctr p)
    ({ m with parts := m.parts.map fun p =>
        if !p.written && m.laneReady p.lane && lanes.getLsbD (laneNo p.lane) then { p with written := true } else p },
     g, vs.map fun w => w.1)

/-- The lowest lane whose data has failed so far, as DATAERR names it (R117). -/
def MemOp.errLane (m : MemOp) : Option CauseRec :=
  (m.parts.find? fun p => p.err).map fun p => { eaddr := p.va, detail := laneNo p.lane }
/-- The DATAERR that a word keeps for the wait on its flag (R158); a global store or a reduction records its own when it
is applied. -/
def MemOp.errRec (m : MemOp) : Option CauseRec :=
  match m.kind with
  | .store => if m.isLocal then m.errLane else none
  | .red _ _ _ => none
  | _ => m.errLane

/-- A memory word completes (R56): DATAERR is kept for the wait on its flag (R158); with acquire order at a wide scope,
the acquire action (R165). -/
def finishMem (s : State) (gk : Nat) (g : Group) (o : Op) (m : MemOp) : State :=
  let g := match m.errRec with
    | none => g
    | some r => if 12 ≤ o.flag then g.record 11 r else { g with flagErr := Tab.put g.flagErr o.flag r }
  let s := (s.setGroup gk (g.endOp o)).used
  if ordAcq m.ord && scopeWide m.scope then s.acquireAction (coreOf gk) g.asid else s

/-- Write what is ready of a memory word, and complete it when all is performed and written. -/
def settleMem (s : State) (gk : Nat) (g : Group) (o : Op) (m : MemOp) (lanes : Lanes) : State :=
  let r := m.writeBack g s.clock o.frag s.freeCtr lanes
  let s' := if r.1.parts.all (fun p => p.done && p.written) then finishMem s gk r.2.1 o r.1
    else s.setGroup gk (r.2.1.setMem o.id r.1)
  s'.taintV gk r.2.2

/-- The operation `id` of the group in a slot, when it is a memory word. -/
def State.memOp (s : State) (gk id : Nat) : Option (Group × Op × MemOp) :=
  match s.group gk with
  | none => none
  | some g =>
    match g.op id with
    | none => none
    | some o =>
      match o.kind with
      | .mem m => some (g, o, m)
      | _ => none

/-! ## Atomic operations (R152, R178) -/

/-- Aop of R152, on `w` bits. -/
def aopVal (aop : Nat) (signed : Bool) (w old c : Nat) : Nat :=
  let le := if signed then (BitVec.ofNat w old).toInt ≤ (BitVec.ofNat w c).toInt else old ≤ c
  match aop with
  | 0 => (old + c) % 2 ^ w
  | 1 => if le then old else c
  | 2 => if le then c else old
  | 3 => old &&& c
  | 4 => old ||| c
  | 5 => old ^^^ c
  | 6 => c
  | _ => if c ≤ old then 0 else (old + 1) % 2 ^ w

/-- A floating reduction (R178): add rounds to nearest with subnormals kept; min and max prefer a number to a NaN; a
NaN result is the canonical one. -/
def redFloat (aop n old c : Nat) : Nat :=
  let fmt := if n = 4 then fp32 else fp64
  match aop with
  | 0 => (fAddV fmt (rmOfMode 0) (fmt.decode old) (fmt.decode c)).code
  | 1 => (fMinMax fmt false old c).code
  | _ => (fMinMax fmt true old c).code

/-- What one part of a kind leaves in memory, and whether it writes: from the old value of its bytes. -/
def AccKind.apply (k : AccKind) (n : Nat) (old data swap : Nat) : Option Nat :=
  let w := 8 * n
  match k with
  | .load => none
  | .store => some (data % 2 ^ w)
  | .atom aop sg _ => some (aopVal aop sg w old (data % 2 ^ w))
  | .cas => if old = data % 2 ^ w then some (swap % 2 ^ w) else none
  | .red aop sg fl => some (if fl then redFloat aop n old (data % 2 ^ w) else aopVal aop sg w old (data % 2 ^ w))
  | .wb _ => none

/-- Does one part of a kind need the old value? -/
def AccKind.reads (k : AccKind) : Bool :=
  match k with
  | .store => false
  | .wb _ => false
  | _ => true

end Sys2Proof.Machine
end

