-- ==== Sys2Proof/Machine/Local.lean ====
section
/-! DEFINITION. The local instructions (R149-R158): LDL, STL, LDC, STC, ATOML, ATOMC, CASL, WAITA, and their steps. -/
namespace Sys2Proof.Machine

/-! ## Issue of a memory word -/

/-- Does a fragment wait for a FENCE? -/
def Frag.fencing (f : Frag) : Bool :=
  match f.wait with
  | .fence _ => true
  | _ => false
/-- A FENCE of the group holds its memory words (R179). -/
def Group.fencing (g : Group) : Bool := g.frags.any Frag.fencing
/-- The fragment of a word waits. -/
def waitWord (s : State) (gk : Nat) (g : Group) (f : Frag) (w : Wait) : State :=
  s.setGroup gk (g.setFrag (f.waitFor w s.clock))

/-- What keeps a memory word from issuing: a FENCE of the group, or its flag at 63 (R56, R179). -/
def memHold (g : Group) (f : Frag) (fs : Option Bool) : Option Wait :=
  if g.fencing then some .fenceHold
  else
    match fs.bind (selFlag f) with
    | some n => if 63 ≤ g.flag n then some (.flagFull n) else none
    | none => none

/-- A format M word with lanes: after the checks of R80, its lanes are checked (R101, R151, R174); a fault traps with
no effect; otherwise `run` acts on the lanes' addresses. A word whose translation must wait does not issue yet (R326, R348). `fs` selects its flag where it is long-latency. -/
def laneWord (i : Instr) (s : State) (o : MOp) (fs : Option Bool) (off : BitVec 11)
    (chk : Nat → Group → State → W64 → State × Except AccFault Nat)
    (run : State → Nat → Group → Frag → List (Nat × W64 × Nat) → State) : State :=
  onWord i s never never fun gk g f =>
    let g0 := (s.group gk).getD g
    match memHold g f fs with
    | some w => waitWord s gk g0 f w
    | none =>
      let c := checkLanes s ((memLanes g f o).map fun i => (i, effAddr g f o off i)) o.size.bytes (chk (coreOf gk) g)
      s.orWait (if c.faults = [] then run c.s gk g f c.lanes else takeTrap c.s gk g0 f (laneCauses c.faults))

/-- A long-latency memory word: after its checks its access is outstanding. -/
def memWord (i : Instr) (s : State) (o : MOp) (off : BitVec 11)
    (chk : Nat → Group → State → W64 → State × Except AccFault Nat)
    (build : Group → Frag → List (Nat × W64 × Nat) → MemOp) : State :=
  laneWord i s o (some o.fs) off chk fun s gk g f lanes => trackWord s gk g f o.fs (.mem (build g f lanes))

/-- The memory operation of a word. -/
def mkOp (o : MOp) (isLocal : Bool) (kind : AccKind) (parts : List Part) : MemOp :=
  { isLocal := isLocal, kind := kind, size := o.size, signExt := o.x == 1, uni := o.uni, d := o.d.toNat, ord := o.ord
    scope := o.scope, hint := o.tag.toNat, tag := 0, homeServed := false, cond := 0, release := none, parts := parts }

/-- The parts of a load into D. -/
def loadParts (o : MOp) (lanes : List (Nat × W64 × Nat)) : List Part :=
  mkParts o.size o.d.toNat lanes (fun _ => 0) (fun _ => 0)
/-- The parts of a store from C. -/
def storeParts (g : Group) (f : Frag) (o : MOp) (lanes : List (Nat × W64 × Nat)) : List Part :=
  mkParts o.size o.c.toNat lanes (fun i => opData g f o o.size.regs (i % 96)) (fun _ => 0)
/-- The parts of an atomic: data from C, return to D. -/
def atomParts (g : Group) (f : Frag) (o : MOp) (lanes : List (Nat × W64 × Nat)) : List Part :=
  mkParts o.size o.d.toNat lanes (fun i => opData g f o o.size.regs (i % 96)) (fun _ => 0)
/-- The parts of a compare and swap: C holds the compare value, then the swap value. -/
def casParts (g : Group) (f : Frag) (o : MOp) (lanes : List (Nat × W64 × Nat)) : List Part :=
  mkParts o.size o.d.toNat lanes (fun i => opData g f o o.size.regs (i % 96))
    (fun i => opData g f o (2 * o.size.regs) (i % 96) / 2 ^ (32 * o.size.regs))

/-- The kind of an atomic word (R152): AOP, X[0] signed, X[1] no return. -/
def atomKind (o : MOp) : AccKind := .atom o.tag.toNat (o.x.getLsbD 0) (!o.x.getLsbD 1)

/-! ## Banks -/

/-- A guard touch (R144): a report is recorded unless one is pending. -/
def Group.touchGuard (g : Group) (k : Nat) : Group :=
  match g.guardRep with
  | some _ => g
  | none => { g with guardRep := some (k % 2 ^ 20 + k / 4 % 32 * 2 ^ 20 + 2 ^ 31) }

/-- One part at its bank (R151-R153, R158): what it reads, what is written, whether an uncorrectable error meets it. -/
def bankPart (s : State) (m : MemOp) (p : Part) : State × Part :=
  let p := { p with done := true }
  if s.guarded p.addr then (s, { p with got := 0 })
  else
    let old := leNat (s.bankRead p.addr p.n)
    let bad := (List.range p.n).any fun i => s.badScratch (p.addr + i)
    if bad && (m.kind.reads || p.n < 4) then (s, { p with err := true })
    else
      let p := { p with got := BitVec.ofNat 64 old }
      match m.kind.apply p.n old p.data.toNat p.swap.toNat with
      | none => (s, p)
      | some x => (s.bankWrite p.addr (leBytes p.n x) m.tag, p)

/-- Perform part `j` of a local word, if the group's order allows it now (R156, R157). DESIGN CHOICE (log 39): R143 and
R151 check a page's owner when the word issues; an access that is outstanding while its page changes owner is performed
without a further check. -/
def localPerform (s : State) (gk id j : Nat) : State :=
  match s.memOp gk id with
  | none => s
  | some (g, _, m) =>
    if m.isLocal && g.mayPerform id m j then
      match relGate s gk g id m with
      | (s, none) => s
      | (s, some m) =>
        match m.parts[j]? with
        | none => s
        | some p =>
          let touched := s.guarded p.addr
          let r := bankPart s m p
          let g := if touched then g.touchGuard p.addr else g
          r.1.setGroup gk (g.setMem id (m.setPart j r.2))
    else s

/-- LOCAL_ACCESS_COMPLETE (R151): banks perform the named parts; then lanes are written, and the word completes once
nothing is left. -/
def localComplete (s : State) (gk id : Nat) (parts : List Nat) (lanes : Lanes) : State :=
  let s := parts.foldl (fun s j => localPerform s gk id j) s
  match s.memOp gk id with
  | none => s
  | some (g, o, m) => if m.isLocal then settleMem s gk g o m lanes else s

/-! ## WAITA (R154, R155) -/

/-- Cond of R154, on `w` bits. -/
def waitCond (code w v c : Nat) : Bool :=
  match code with
  | 0 => v == c
  | 1 => v != c
  | 2 => c ≤ v
  | 3 => (BitVec.ofNat w c).toInt ≤ (BitVec.ofNat w v).toInt
  | _ => v &&& c != 0

/-- One read of a waiting lane: it succeeds, fails, or meets an error, which ends its wait. -/
def Part.tryWait (p : Part) (cond : Nat) (v : Nat) (err : Bool) : Part :=
  if p.done then p
  else if err then { p with done := true, err := true }
  else if waitCond cond (8 * p.n) v (p.data.toNat % 2 ^ (8 * p.n)) then { p with done := true, got := BitVec.ofNat 64 v }
  else p

/-- Does a part of a WAITA read its word now: its lane still waits, and earlier accesses allow it (R154, R156)? -/
def Group.reads (g : Group) (p : Part) : Bool := !p.done && g.ops.all fun o => !o.kind.blocks true p
/-- The reads of a WAITA: each waiting lane whose earlier accesses allow it reads its word; a guard granule reads as zero
and is reported (R144). -/
def waitaRead (s : State) (g : Group) (m : MemOp) : MemOp × Group :=
  let ps := m.parts.map fun p =>
    if g.reads p then
      if s.guarded p.addr then p.tryWait m.cond 0 false
      else p.tryWait m.cond (leNat (s.bankRead p.addr p.n)) ((List.range p.n).any fun i => s.badScratch (p.addr + i))
    else p
  let g' := (m.parts.filter fun p => g.reads p && s.guarded p.addr).foldl (fun (g : Group) p => g.touchGuard p.addr) g
  ({ m with parts := ps }, g')
/-- The lowest lane whose wait an uncorrectable error has ended in this read records DATAERR at once (R155). -/
def Group.waitErr (g : Group) (before after : MemOp) : Group :=
  match (after.parts.filter fun p => p.err && before.parts.any fun q => q.lane == p.lane && !q.done).head? with
  | some p => g.record 11 { eaddr := p.va, detail := laneNo p.lane }
  | none => g

/-- A wait on memory has ended: the fragment proceeds, D is written in every lane, and an acquire at a wide scope acts on
the L1. -/
def endMemWait (s : State) (gk : Nat) (g : Group) (f : Frag) (m : MemOp) : State :=
  let r := m.writeBack (g.setFrag f.advance) s.clock f.id s.freeCtr allLanes
  let s := ((s.setGroup gk r.2.1).used).taintV gk r.2.2
  if ordAcq m.ord && scopeWide m.scope then s.acquireAction (coreOf gk) g.asid else s

/-- After the reads of a WAITA: it ends, or its fragment waits. -/
def waitaNext (s : State) (gk : Nat) (g : Group) (f : Frag) (m : MemOp) : State :=
  let r := waitaRead s g m
  let g := r.2.waitErr m r.1
  if r.1.performed then endMemWait s gk g f r.1
  else s.setGroup gk (g.setFrag { f with wait := .waita r.1 })

/-- Has the unit of a group stopped: killed, being captured, or halted by a debugger (R118, R120, R482)? -/
def State.stopped (s : State) (g : Group) : Bool :=
  g.halted || (s.kills.any fun k => k.unit == g.unit) || (s.captures.any fun c => c.unit == g.unit)
/-- A fragment that nothing holds. -/
def Frag.free (f : Frag) : Bool := !f.heldTrap && !f.heldUi

/-- The SPACE that is due at a WAITA: address and lane (R155). -/
def Frag.denial (f : Frag) : Option (W64 × Nat) :=
  match f.wait with
  | .waita m => m.denied
  | _ => none
/-- The lowest lane that waits on a word of a page that no longer permits its access, with the address (R155). -/
def State.refusedLane (s : State) (g : Group) (m : MemOp) : Option (W64 × Nat) :=
  (m.parts.find? fun p => !p.done && !s.mayReach g.tenant g.unit p.addr).map fun p => (p.va, laneNo p.lane)
/-- A fragment whose WAITA finds, as the pages change owner, that one does not permit its read: SPACE is due at it. -/
def Frag.denied (f : Frag) (s : State) (g : Group) : Frag :=
  match f.wait with
  | .waita m => if m.denied.isSome then f else { f with wait := .waita { m with denied := s.refusedLane g m } }
  | _ => f
/-- A re-read of a waiting WAITA (R155): the pages are checked again first; one that no longer permits the access ends
the wait with SPACE. -/
def waitaAgain (s : State) (gk fid : Nat) : State :=
  match s.group gk with
  | none => s
  | some g =>
    match g.frag fid with
    | none => s
    | some f =>
      match f.wait with
      | .waita m =>
        if s.stopped g || !f.free then s
        else
          match m.denied.orElse fun _ => s.refusedLane g m with
          | some x => takeTrap s gk g f [(4, { eaddr := x.1, detail := x.2 })]
          | none => waitaNext s gk g f m
      | _ => s

/-- Does a fragment's WAITA still wait on a word of a page whose owner differs between two states? -/
def Frag.pageMoved (f : Frag) (before after : State) : Bool :=
  match f.wait with
  | .waita m => m.parts.any fun p => !p.done && before.pageOwner p.addr != after.pageOwner p.addr
  | _ => false
/-- A group some of whose waits may not read again now, for a handler holds their fragments, its unit has stopped, or it is
swapped out: SPACE is due where the page of such a wait has changed owner and refuses it. -/
def Group.deniedFrom (g : Group) (before s : State) (all : Bool) : Group :=
  { g with frags := g.frags.map fun f => if (all || !f.free) && f.pageMoved before s then f.denied s g else f }
/-- Pages have changed owner since `before`: every lane that waits on a word of one reads again (R155). -/
def State.ownersFrom (before s : State) : State :=
  let s : State := { s with
    groups := s.groups.map fun (x : Nat × Group) => (x.1, x.2.deniedFrom before s (s.stopped x.2))
    swapped := s.swapped.map fun w => { w with group := w.group.deniedFrom before s true } }
  (s.groups.flatMap fun (x : Nat × Group) => (x.2.frags.filter fun f => f.pageMoved before s).map fun f => (x.1, f.id)).foldl
    (fun (s : State) y => waitaAgain s y.1 y.2) s

/-! ## Meanings -/

/-- The tags of core-scratchpad words. -/
def coreTags : List Nat := [3]
/-- The tags of cluster-scratchpad words. -/
def clusterTags : List Nat := [4]
/-- The tags of CASL and WAITA. -/
def bothTags : List Nat := [3, 4]
/-- The local check of a word's size. -/
def locChk (o : MOp) (tags : List Nat) (core : Nat) (g : Group) : State → W64 → State × Except AccFault Nat :=
  localCheck core o.size.bytes g tags

/-- LDL (R151). -/
def execLdl (o : MOp) (s : State) : Host.Outcome State Fault Refusal :=
  .next (memWord (.ldl o) s o o.c (locChk o coreTags) fun _ _ l => mkOp o true .load (loadParts o l))
/-- STL (R151): the granules take the word's TAG. -/
def execStl (o : MOp) (s : State) : Host.Outcome State Fault Refusal :=
  .next (memWord (.stl o) s o o.d (locChk o coreTags) fun g f l =>
    { mkOp o true .store (storeParts g f o l) with tag := o.tag.toNat })
/-- LDC (R151). -/
def execLdc (o : MOp) (s : State) : Host.Outcome State Fault Refusal :=
  .next (memWord (.ldc o) s o o.c (locChk o clusterTags) fun _ _ l => mkOp o true .load (loadParts o l))
/-- STC (R151). -/
def execStc (o : MOp) (s : State) : Host.Outcome State Fault Refusal :=
  .next (memWord (.stc o) s o o.d (locChk o clusterTags) fun g f l => mkOp o true .store (storeParts g f o l))
/-- ATOML (R152). -/
def execAtoml (o : MOp) (s : State) : Host.Outcome State Fault Refusal :=
  .next (memWord (.atoml o) s o 0 (locChk o coreTags) fun g f l => mkOp o true (atomKind o) (atomParts g f o l))
/-- ATOMC (R152). -/
def execAtomc (o : MOp) (s : State) : Host.Outcome State Fault Refusal :=
  .next (memWord (.atomc o) s o 0 (locChk o clusterTags) fun g f l => mkOp o true (atomKind o) (atomParts g f o l))
/-- CASL (R153). -/
def execCasl (o : MOp) (s : State) : Host.Outcome State Fault Refusal :=
  .next (memWord (.casl o) s o 0 (locChk o bothTags) fun g f l => mkOp o true .cas (casParts g f o l))
/-- WAITA (R154): its first read is at issue. -/
def execWaita (o : MOp) (s : State) : Host.Outcome State Fault Refusal :=
  .next (laneWord (.waita o) s o none 0 (locChk o bothTags) fun s gk g f l =>
    let m := { mkOp o true .load (atomParts g f o l) with cond := o.tag.toNat }
    waitaNext s gk g { f with since := s.clock } m)
/-- WAITA_SATISFIED (R155). -/
def execWaitaSatisfied (gk fid : Nat) (s : State) : Host.Outcome State Fault Refusal := .next (waitaAgain s gk fid)
/-- WAITA_REPOLL (R155): a lane without a watch is read again. -/
def execWaitaRepoll (gk fid : Nat) (s : State) : Host.Outcome State Fault Refusal := .next (waitaAgain s gk fid)
/-- LOCAL_ACCESS_COMPLETE (R151). -/
def execLocalAccessComplete (gk op : Nat) (parts : List Nat) (lanes : Lanes) (s : State) :
    Host.Outcome State Fault Refusal :=
  .next (s.orWait (localComplete s gk op parts lanes))

end Sys2Proof.Machine
end

