-- ==== Sys2Proof/Machine/L1.lean ====
section
/-! DEFINITION. The L1 of a core (R160-R166), and the home side of global and store-space accesses: the miss table,
fills, and the performance of one part (R163-R178, R326-R331). -/
namespace Sys2Proof.Machine

/-! ## L1 -/

/-- A line of a core's L1 under an ASID. -/
def State.l1Line (s : State) (core asid line : Nat) : Option L1Line :=
  (s.core core).l1.find? fun l => l.line == line && l.asid == asid
/-- Replace a line that is there. -/
def State.setL1 (s : State) (core : Nat) (l : L1Line) : State :=
  s.updCore core fun c => { c with l1 := c.l1.map fun x => if x.line = l.line && x.asid = l.asid then l else x }
/-- Remove a line. -/
def State.dropL1 (s : State) (core asid line : Nat) : State :=
  s.updCore core fun c => { c with l1 := c.l1.filter fun x => !(x.line == line && x.asid == asid) }

/-- The bytes of a mask of an L1 line, by home address. -/
def L1Line.bytesOf (l : L1Line) (m : BitVec 128) : List (Nat × Byte) :=
  ((List.range 128).filter fun i => m.getLsbD i).map fun i => (128 * l.line + i, Memory.read l.data i)

/-- The DIRTY bytes of a line are applied at its home as one application (R166). A dirty byte with an uncorrectable
error halts the owning partition, and is not written back (R161, R479); so does a line that no peer takes (R471). -/
def State.applyWb (s : State) (l : L1Line) : State :=
  let t := (s.tenantOfAsid l.asid).getD 0
  let s := if l.dirty &&& l.err = 0 then s else s.haltTenant t
  let ws := l.bytesOf (l.dirty &&& ~~~ l.err)
  if ws = [] then s
  else if tierOf (128 * l.line) = 2 ∧ s.routed (128 * l.line) = false then s.haltTenant t
  else s.engineWrite t ws

/-- Write back a line that is there now: its bytes stay VALID, or it goes. -/
def State.flushLine (s : State) (core asid line : Nat) (inval : Bool) : State :=
  match s.l1Line core asid line with
  | none => s
  | some l =>
    let s := s.applyWb l
    if inval then s.dropL1 core asid line else s.setL1 core { l with dirty := 0, err := l.err &&& ~~~ l.dirty }

/-- Is one line to be replaced before another (R161): no valid byte, then class, then age? -/
def L1Line.before (a b : L1Line) : Bool :=
  let rank (l : L1Line) : Nat := if l.valid = 0 then 0 else l.cls + 1
  rank a < rank b || (rank a == rank b && a.used < b.used)

/-- Allocate a line without a fetch (R161, R164): a full set first evicts; a fifth keep line takes class normal. DESIGN
CHOICE (log 39): R160 indexes the 128 sets by physical address without naming the bits; the set is the line's number modulo
128. -/
def State.allocL1 (s : State) (core asid line cls : Nat) : State :=
  match s.l1Line core asid line with
  | some _ => s
  | none =>
    let set := (s.core core).l1.filter fun l => l.line % 128 == line % 128
    let s :=
      if set.length < 8 then s
      else
        match set.foldl (fun (best : Option L1Line) l =>
            match best with
            | none => some l
            | some b => if l.before b then some l else some b) none with
        | none => s
        | some v => s.flushLine core v.asid v.line true
    let keeps := ((s.core core).l1.filter fun l => l.line % 128 == line % 128 && l.cls == 2).length
    let cls := if cls = 2 ∧ 4 ≤ keeps then 1 else cls
    s.updCore core fun c => { c with l1 := c.l1 ++
      [{ line := line, asid := asid, valid := 0, dirty := 0, cls := cls, used := s.turnNo, data := [], err := 0 }] }

/-- The class that a HINT gives a fill (R164): normal 1, stream 0, keep 2. -/
def hintClass (hint : Nat) : Nat := if hint = 1 then 0 else if hint = 2 then 2 else 1

/-- Fill a line from its home (R164): every byte that is not DIRTY takes the home value and becomes VALID. -/
def State.fillL1 (s : State) (core asid line cls : Nat) : State :=
  let s := s.allocL1 core asid line cls
  match s.l1Line core asid line with
  | none => s
  | some l =>
    let idx := (List.range 128).filter fun i => !l.dirty.getLsbD i
    let data := idx.foldl (fun m i => Memory.write m i (s.readHome (128 * line + i))) l.data
    let err := idx.foldl (fun (e : BitVec 128) i =>
      if s.badAt (128 * line + i) then e ||| byteMask i 1 else e &&& ~~~ byteMask i 1) l.err
    s.setL1 core { l with data := data, valid := BitVec.allOnes 128, used := s.turnNo, err := err }

/-- Does the L1 hold every byte of an access (R164)? A clean byte with an error is fetched again (R161). -/
def L1Line.has (l : L1Line) (i n : Nat) : Bool :=
  byteMask i n &&& ~~~ l.valid == 0 && byteMask i n &&& l.err &&& ~~~ l.dirty == 0

/-- An L1-served store (R164): the written bytes become VALID and DIRTY. -/
def State.storeL1 (s : State) (core asid a cls : Nat) (bs : List Byte) : State :=
  let s := s.allocL1 core asid (a / 128) cls
  match s.l1Line core asid (a / 128) with
  | none => s
  | some l =>
    let m := byteMask (a % 128) bs.length
    s.setL1 core { l with data := Memory.writeN l.data (a % 128) bs, valid := l.valid ||| m, dirty := l.dirty ||| m
                          used := s.turnNo, err := l.err &&& ~~~ m }

/-- The value of a home-served read (R163): bytes DIRTY in the issuing core's L1 under the issuing ASID, else the home
value. -/
def State.readMerged (s : State) (core asid a n : Nat) : List Byte :=
  match s.l1Line core asid (a / 128) with
  | none => s.readHomeN a n
  | some l => (List.range n).map fun i =>
      if l.dirty.getLsbD ((a + i) % 128) then Memory.read l.data ((a + i) % 128) else s.readHome (a + i)
/-- A byte of the access shows an error where the read takes it: DIRTY in the L1, or at its home. -/
def State.badMerged (s : State) (core asid a n : Nat) : Bool :=
  (List.range n).any fun i =>
    match s.l1Line core asid (a / 128) with
    | some l =>
      if l.dirty.getLsbD ((a + i) % 128) then l.err.getLsbD ((a + i) % 128) else s.badAt (a + i)
    | none => s.badAt (a + i)
/-- Do bytes of an access that are DIRTY in the L1 show an uncorrectable error (R161)? -/
def State.dirtyBad (s : State) (core asid a n : Nat) : Bool :=
  (s.l1Line core asid (a / 128)).any fun l => byteMask (a % 128) n &&& l.err &&& l.dirty != 0
/-- Such an error, met by a read, halts the owning partition as one met in write-back does (R161, R479). -/
def State.haltDirty (s : State) (core asid a n : Nat) : State :=
  if s.dirtyBad core asid a n then s.haltTenant ((s.tenantOfAsid asid).getD 0) else s
/-- A home-served read replaces the valid clean bytes of the L1's copy with the home values (R163). -/
def State.refreshL1 (s : State) (core asid a : Nat) : State :=
  match s.l1Line core asid (a / 128) with
  | none => s
  | some l =>
    let idx := (List.range 128).filter fun i => l.valid.getLsbD i && !l.dirty.getLsbD i
    s.setL1 core { l with
      data := idx.foldl (fun m i => Memory.write m i (s.readHome (128 * l.line + i))) l.data
      err := idx.foldl (fun (e : BitVec 128) i =>
        if s.badAt (128 * l.line + i) then e ||| byteMask i 1 else e &&& ~~~ byteMask i 1) l.err }
/-- A home-served write updates the L1's copy: the bytes are VALID and no longer DIRTY (R163). -/
def State.writeThrough (s : State) (core asid a : Nat) (bs : List Byte) : State :=
  match s.l1Line core asid (a / 128) with
  | none => s
  | some l =>
    let m := byteMask (a % 128) bs.length
    s.setL1 core { l with data := Memory.writeN l.data (a % 128) bs, valid := l.valid ||| m
                          dirty := l.dirty &&& ~~~ m, err := l.err &&& ~~~ m }

/-! ## One part at its home -/

/-- Does a part go through the L1 (R162)? -/
def MemOp.l1Served (m : MemOp) (p : Part) : Bool :=
  !m.homeServed && !isStore p.addr && (m.kind == .load || m.kind == .store)

/-- Perform one part of a word of a group: in the L1, or at the line's home (R163, R164, R177, R178). -/
def homePart (s : State) (core : Nat) (g : Group) (m : MemOp) (p : Part) : State × Part × Option CauseRec :=
  let t := g.tenant
  let line := p.addr / 128
  let hit := m.l1Served p && (s.l1Line core g.asid line).any fun l => l.has (p.addr % 128) p.n
  let s := if m.kind = .store ∨ hit = true then s else s.met ((List.range p.n).map fun i => p.addr + i)
  let p := { p with done := true }
  let stream := m.hint == 1
  if m.l1Served p then
    match m.kind with
    | .store => (s.storeL1 core g.asid p.addr (hintClass m.hint) (leBytes p.n p.data.toNat), p, none)
    | _ =>
      let s := if hit then s else s.fillL1 core g.asid line (hintClass m.hint)
      match s.l1Line core g.asid line with
      | none => (s, p, none)
      | some l =>
        if byteMask (p.addr % 128) p.n &&& l.err ≠ 0 then
          (s.haltDirty core g.asid p.addr p.n, { p with err := true }, none)
        else
          (s.setL1 core { l with used := s.turnNo },
           { p with got := BitVec.ofNat 64 (leNat (Memory.readN l.data (p.addr % 128) p.n)) }, none)
  else
    match m.kind with
    | .load =>
      let bad := s.badMerged core g.asid p.addr p.n
      let v := leNat (s.readMerged core g.asid p.addr p.n)
      ((s.haltDirty core g.asid p.addr p.n).refreshL1 core g.asid p.addr, { p with got := BitVec.ofNat 64 v, err := bad }, none)
    | .store =>
      let bs := leBytes p.n p.data.toNat
      let ws := (List.range bs.length).zip bs |>.map fun x => (p.addr + x.1, x.2)
      (((s.applyHome ws).cacheWrite t ws stream).writeThrough core g.asid p.addr bs, p, none)
    | k =>
      let s := s.flushLine core g.asid line true
      let bad := (List.range p.n).any fun i => s.badAt (p.addr + i)
      if bad then
        match k with
        | .red _ _ _ => (s, { p with err := true }, some { eaddr := p.va, detail := laneNo p.lane })
        | _ => (s, { p with err := true }, none)
      else
        let old := s.readHomeNat p.addr p.n
        let p := { p with got := BitVec.ofNat 64 old }
        match k.apply p.n old p.data.toNat p.swap.toNat with
        | none => (s, p, none)
        | some x => (s.engineWriteN t p.addr (leBytes p.n x), p, none)

/-- A part is performed and recorded in its word; a REDG whose flag has fallen ends with its last part (R178). -/
def homePerform (s : State) (gk id j : Nat) : State :=
  match s.memOp gk id with
  | none => s
  | some (g, o, m) =>
    match m.parts[j]? with
    | none => s
    | some p =>
      if p.done then s
      else
        let r := homePart (if m.l1Served p then s else s.through p.addr) (coreOf gk) g m p
        let m := m.setPart j r.2.1
        let g := match r.2.2 with | some c => g.record 11 (m.errLane.getD c) | none => g
        if 12 ≤ o.flag && m.performed then r.1.setGroup gk (g.endOp o)
        else r.1.setGroup gk (g.setMem id m)

/-! ## The miss table (R329) -/

/-- The bytes of its line that a part needs from the home, if any (R164, R329). -/
def MemOp.needs (s : State) (core asid : Nat) (m : MemOp) (p : Part) : Option (BitVec 128) :=
  match m.kind with
  | .store => none
  | .wb _ => none
  | _ =>
    if m.l1Served p then
      if (s.l1Line core asid (p.addr / 128)).any fun l => l.has (p.addr % 128) p.n then none
      else some (BitVec.allOnes 128)
    else some (byteMask (p.addr % 128) p.n)

/-- A request joins or takes an entry of the miss table (R329); the first of a word, or of an engine's act, for a late line
counts (R348). -/
def State.joinMiss (s : State) (slice line t : Nat) (w : Waiter) : State :=
  match (s.slice slice).misses.find? fun m => m.line == line with
  | some m =>
    if m.waiters.contains w then s
    else
      let s := if m.waiters.any fun x => x.gk == w.gk && x.op == w.op && x.eng == w.eng then s else s.countLate line
      s.updSlice slice fun x => { x with misses := x.misses.map fun y =>
        if y.line = line then { y with waiters := y.waiters ++ [w] } else y }
  | none =>
    if 64 ≤ (s.slice slice).misses.length then s
    else
      (s.countLate line).updSlice slice fun x =>
        { x with misses := x.misses ++ [{ line := line, tenant := t, waiters := [w] }] }

/-- A peer refuses a part, or its request is lost (R471): a read gives an error to its consumer; a write is not applied,
and DATAERR is recorded in the group. -/
def Part.refused (m : MemOp) (p : Part) : Part × Option CauseRec :=
  let r : CauseRec := { eaddr := p.va, detail := laneNo p.lane }
  match m.kind with
  | .store => ({ p with done := true, err := true }, some r)
  | .red _ _ _ => ({ p with done := true, err := true }, some r)
  | .wb _ => ({ p with done := true }, none)
  | _ => ({ p with done := true, err := true }, none)
/-- A part is refused; a write-back of a named line halts the owning partition (R471, R479). -/
def homeRefuse (s : State) (gk id j : Nat) : State :=
  match s.memOp gk id with
  | none => s
  | some (g, o, m) =>
    match m.parts[j]? with
    | none => s
    | some p =>
      if p.done then s
      else
        let r := p.refused m
        let m' := m.setPart j r.1
        let g := match r.2 with | some c => g.record 11 (m'.errLane.getD c) | none => g
        let s := if 12 ≤ o.flag && m'.performed then s.setGroup gk (g.endOp o) else s.setGroup gk (g.setMem id m')
        match m.kind with
        | .wb _ => s.haltTenant g.tenant
        | _ => s
/-- HOME_ACCESS (R326): part `j` of a word is served in the L1 or reaches its home slice, where it is served, or waits
for its line or its layer (R329, R337). -/
def homeAccess (s : State) (gk id j : Nat) : State :=
  match s.memOp gk id with
  | none => s
  | some (g, _, m) =>
    if m.isLocal || !g.mayPerform id m j || (m.parts[j]?).any (fun p => s.flipping p.addr) then s
    else
      match relGate s gk g id m with
      | (s, none) => s
      | (s, some m) =>
        let s := s.setGroup gk (g.setMem id m)
        match m.parts[j]? with
        | none => s
        | some p =>
          match m.needs s (coreOf gk) g.asid p with
          | none =>
            if m.l1Served p then homePerform s gk id j
            else if !isStore p.addr && tierOf p.addr == 2 && !s.routed p.addr then homeRefuse s gk id j
            else (s.wakeFor g.tenant p.addr).getD (homePerform s gk id j)
          | some mask =>
            match s.wakeFor g.tenant p.addr with
            | some s => s
            | none =>
              if isStore p.addr then homePerform s gk id j
              else if tierOf p.addr = 2 && !s.routed p.addr then homeRefuse s gk id j
              else
                match s.homeSlice p.addr with
                | none => s
                | some slice =>
                  let line := p.addr / 128
                  if ((s.slice slice).misses.any fun e => e.line == line) || !s.hasBytes slice line mask then
                    s.joinMiss slice line g.tenant { gk := gk, op := id, part := j }
                  else homePerform (s.cacheSet slice g.tenant line 0 0 (m.hint == 1)) gk id j

/-- Does a waiting access carry the stream hint (R331)? -/
def State.streams (s : State) (w : Waiter) : Bool := w.eng.isNone && (s.memOp w.gk w.op).any fun x => x.2.2.hint == 1
/-- One waiting request is served: a part of a word is performed; an engine is given the line, and takes its bytes at its
act's next turn (log 40). -/
def State.serve (s : State) (line : Nat) (w : Waiter) : State :=
  if w.eng.isSome then { s with granted := s.granted ++ [(w, line)] } else homePerform s w.gk w.op w.part
/-- One waiting request is refused (R471); an engine finds so itself at its act's next turn. -/
def State.refuse (s : State) (w : Waiter) : State := if w.eng.isSome then s else homeRefuse s w.gk w.op w.part
/-- MISS_FILL (R329): a fill returns; the line's bytes become valid in the store cache where the tenant has units
there, marked where an access with the stream hint waits for it (R331), and the waiting requests are served in their
order. A poisoned host line is not filled (R477), and a request to a peer may be refused (R471). Without an entry, it is a
contract's fill (R343). -/
def missFill (s : State) (slice line : Nat) : State :=
  if !s.fillAllowed slice line ((s.slice slice).misses.any fun m => m.line == line) then s
  else
    match (s.slice slice).misses.find? fun m => m.line == line with
    | some m =>
      let s := s.updSlice slice fun x => { x with misses := x.misses.filter fun y => y.line != line }
      if tierOf (128 * line) = 2 ∧ s.routed (128 * line) = false then
        m.waiters.foldl State.refuse s
      else
      let s := s.through (128 * line)
      let s := if s.poisoned line then s else s.cacheSet slice m.tenant line (BitVec.allOnes 128) 0 (m.waiters.any s.streams)
      m.waiters.foldl (fun (s : State) w => s.serve line w) s
    | none =>
      if (s.pendingFills slice).contains line && s.reached (128 * line) then
        match s.holder line with
        | some (t, _) => (s.through (128 * line)).cacheSet slice t line (BitVec.allOnes 128) 0 false
        | none => s
      else s

/-- What the accesses of a step asked for begins, or joins its line's miss (log 40). -/
def State.grant (s : State) (w : Waiter) (k : Ask) : State :=
  match k with
  | .wake t a => (s.wakeFor t a).getD s
  | .join slice line t => s.joinMiss slice line t w
  | .late slice line t => s.joinMiss slice line t w
/-- Is what was asked still to come, where the step went on? -/
def Ask.waits (k : Ask) : Bool := match k with | .late _ _ _ => false | _ => true
/-- The requests of an engine's act that are over leave: those that it has been given, and those that still wait on lines
which it has not asked for again. -/
def State.endRequests (s : State) (w : Waiter) (asked : List Nat) : State :=
  let gone (line : Nat) (x : Waiter) : Bool := x == w && !asked.contains line
  { s with
    granted := s.granted.filter fun x => x.1 != w
    slices := s.slices.map fun (n : Nat × SliceSt) =>
      (n.1, if n.2.misses.any fun m => m.waiters.any (gone m.line) then
        { n.2 with misses := (n.2.misses.map fun m => { m with waiters := m.waiters.filter fun x => !gone m.line x }).filter
                     fun m => m.waiters != [] }
      else n.2) }
/-- The end of a step, as to the requests of its engine: what they asked for begins; those of an act that need not wait any
more are gone. -/
def State.requests (s : State) : State :=
  match s.engineKey with
  | none => { s with stall := false, asks := [] }
  | some w =>
    let asks := if s.stall then s.asks else s.asks.filter Ask.waits
    let lines := asks.filterMap fun k => match k with | .join _ line _ => some line | _ => none
    let t := asks.foldl (fun (s : State) k => s.grant w k) (if s.stall then s else s.endRequests w lines)
    { t with stall := false, asks := [], acting := none }

/-- WRITE_BACK_ARRIVE (R330): the `k`th write-back of a core is applied to its line as one application. -/
def writeBackArrive (s : State) (core k : Nat) : State :=
  match (s.core core).wbq[k]? with
  | none => s
  | some w =>
    let s := s.updCore core fun c => { c with wbq := c.wbq.eraseIdx k }
    s.flushLine core w.asid w.line w.inval

/-- A release action made at once (R165): every DIRTY byte of an ASID's lines of a core's L1 is written back. -/
def State.releaseNow (s : State) (core asid : Nat) : State :=
  (s.dirtyLines core asid).foldl (fun s l => s.flushLine core asid l false) s

end Sys2Proof.Machine
end

