-- ==== Sys2Proof/Machine/Global.lean ====
section
/-! DEFINITION. The global-access instructions (R171-R182): LDG, STG, LDS, STS, ATOMG, REDG, CASG, FENCE, WAITGE, PREF,
WBL1, INVL1, and their steps. -/
namespace Sys2Proof.Machine

/-- The tag of global words. -/
def globTags : List Nat := [0]
/-- The tag of store-space words. -/
def storeTags : List Nat := [1]
/-- The tags of atomics and WAITGE. -/
def homeTags : List Nat := [0, 1]
/-- The check of a global or store-space word's lane. -/
def gloChk (o : MOp) (tags : List Nat) (need core : Nat) (g : Group) : State → W64 → State × Except AccFault Nat :=
  globalCheck core o.size.bytes g tags need

/-- Is a load or store home-served (R162): bypass, or ordered at a scope where the L1 takes part? -/
def homeServedOf (o : MOp) : Bool := o.tag == 3 || (o.ord != .plain && scopeWide o.scope)
/-- The memory operation of a global word. -/
def globOp (o : MOp) (kind : AccKind) (parts : List Part) : MemOp :=
  { mkOp o false kind parts with homeServed := homeServedOf o }

/-! ## WAITGE (R180) -/

/-- The reads of a WAITGE: home-served reads of the lanes that still wait. A read that must wait at its slice is not made
yet (R326, R329); one that a peer cannot be reached for ends its lane's wait as an error does (R471). -/
def waitgeRead (s : State) (core : Nat) (g : Group) (m : MemOp) : State × MemOp :=
  (List.range m.parts.length).foldl (fun acc j =>
    match acc.2.parts[j]? with
    | none => acc
    | some p =>
      if p.done || !(g.ops.all fun o => !o.kind.blocks false p) then acc
      else
        match acc.1.wakeFor g.tenant p.addr with
        | some s => (s, acc.2)
        | none =>
          let s := acc.1.engineRead g.tenant p.addr p.n false
          if s.stall && !acc.1.stall then ({ acc.1 with asks := s.asks }, acc.2)
          else if !isStore p.addr && tierOf p.addr == 2 && !s.routed p.addr then (acc.1, acc.2.setPart j (p.tryWait 2 0 true))
          else
          let s := s.haltDirty core g.asid p.addr p.n
          let bad := s.badMerged core g.asid p.addr p.n
          let v := leNat (s.readMerged core g.asid p.addr p.n)
          (s.refreshL1 core g.asid p.addr, acc.2.setPart j (p.tryWait 2 v bad))) (s, m)

/-- After the reads of a WAITGE: it ends, or its fragment waits. -/
def waitgeNext (s : State) (gk : Nat) (g : Group) (f : Frag) (m : MemOp) : State :=
  let r := waitgeRead s (coreOf gk) g m
  let g := g.waitErr m r.2
  if r.2.performed then endMemWait r.1 gk g f r.2
  else r.1.setGroup gk (g.setFrag { f with wait := .waitge r.2 })

/-- A re-read of a waiting WAITGE (R180). -/
def waitgeAgain (s : State) (gk fid : Nat) : State :=
  match s.group gk with
  | none => s
  | some g =>
    match g.frag fid with
    | none => s
    | some f =>
      match f.wait with
      | .waitge m => if s.stopped g || !f.free then s else waitgeNext s gk g f m
      | _ => s

/-! ## FENCE (R179) -/

/-- Has every earlier load, atomic and CAS of the group returned? -/
def Group.allReturned (g : Group) : Bool :=
  g.ops.all fun o =>
    match o.kind with
    | .mem m => (match m.kind with
      | .load => false
      | .atom _ _ _ => false
      | .cas => false
      | _ => true)
    | .scalars _ acq => !acq
    | _ => true

/-- A FENCE that has issued: it waits for what its order needs, then makes its release action, then its acquire action,
then the fragment proceeds. -/
def fenceStep (s : State) (gk : Nat) (g : Group) (f : Frag) (ord : Ord) (scope : Scope) : State :=
  let rel := ordRel ord
  let acq := ordAcq ord
  let act := rel && (scopeWide scope || ord == .sc)
  let begun := match f.wait with | .fence r => r | _ => none
  let hold (s : State) (g : Group) (r : Option (List Nat)) : State :=
    s.setGroup gk (g.setFrag { f with wait := .fence r, since := s.clock })
  let done (s : State) (g : Group) : State :=
    let s := (s.setGroup gk (g.setFrag f.advance)).released g.tenant (if act then scope else .group)
    if acq && scopeWide scope then s.acquireAction (coreOf gk) g.asid else s
  if (acq && !g.allReturned) || (rel && !(g.ops.all fun o => o.kind.performed)) then hold s g begun
  else if !act then done s g
  else
    match begun with
    | some ids => if s.wbDone (coreOf gk) ids then done s g else hold s g begun
    | none =>
      let r := s.releaseAction (coreOf gk) g.asid
      if r.2 = [] then done r.1 g else hold r.1 g (some r.2)

/-! ## Meanings -/

/-- LDG (R175). -/
def execLdg (o : MOp) (s : State) : Host.Outcome State Fault Refusal :=
  .next (memWord (.ldg o) s o o.c (gloChk o globTags permR) fun _ _ l => globOp o .load (loadParts o l))
/-- STG (R176). -/
def execStg (o : MOp) (s : State) : Host.Outcome State Fault Refusal :=
  .next (memWord (.stg o) s o o.d (gloChk o globTags permW) fun g f l => globOp o .store (storeParts g f o l))
/-- LDS (R175): home-served. -/
def execLds (o : MOp) (s : State) : Host.Outcome State Fault Refusal :=
  .next (memWord (.lds o) s o o.c (gloChk o storeTags permR) fun _ _ l => globOp o .load (loadParts o l))
/-- STS (R176): home-served. -/
def execSts (o : MOp) (s : State) : Host.Outcome State Fault Refusal :=
  .next (memWord (.sts o) s o o.d (gloChk o storeTags permW) fun g f l => globOp o .store (storeParts g f o l))
/-- ATOMG (R177). -/
def execAtomg (o : MOp) (s : State) : Host.Outcome State Fault Refusal :=
  .next (memWord (.atomg o) s o 0 (gloChk o homeTags (permR + permW)) fun g f l =>
    { mkOp o false (atomKind o) (atomParts g f o l) with homeServed := true, hint := 0 })
/-- REDG (R178). -/
def execRedg (o : MOp) (s : State) : Host.Outcome State Fault Refusal :=
  .next (memWord (.redg o) s o 0 (gloChk o homeTags (permR + permW)) fun g f l =>
    { mkOp o false (.red o.tag.toNat (o.x.getLsbD 0) (o.x.getLsbD 1)) (atomParts g f o l) with
      homeServed := true, hint := 0 })
/-- CASG (R177). -/
def execCasg (o : MOp) (s : State) : Host.Outcome State Fault Refusal :=
  .next (memWord (.casg o) s o 0 (gloChk o homeTags (permR + permW)) fun g f l =>
    { mkOp o false .cas (casParts g f o l) with homeServed := true })
/-- FENCE (R179): it acts once when a lane is Enabled, and else does nothing. -/
def execFence (o : MOp) (s : State) : Host.Outcome State Fault Refusal :=
  .next (s.orWait (onWord (.fence o) s never never fun gk g f =>
    if g.frags.any (fun x => x.id != f.id && x.fencing) then waitWord s gk g f .fenceHold
    else if enabled g f o.guard = 0 then s.setGroup gk (g.setFrag f.advance)
    else fenceStep s gk g f o.ord o.scope))
/-- WAITGE (R180). -/
def execWaitge (o : MOp) (s : State) : Host.Outcome State Fault Refusal :=
  .next (laneWord (.waitge o) s o none 0 (gloChk o homeTags permR) fun s gk g f l =>
    waitgeNext s gk g { f with since := s.clock }
      { mkOp o false .load (atomParts g f o l) with homeServed := true, cond := 2 })
/-- WAITGE_SATISFIED (R180). -/
def execWaitgeSatisfied (gk fid : Nat) (s : State) : Host.Outcome State Fault Refusal :=
  .next (s.orWait (waitgeAgain s gk fid))
/-- WAITGE_REPOLL (R180): a lane without a watch is read again. -/
def execWaitgeRepoll (gk fid : Nat) (s : State) : Host.Outcome State Fault Refusal :=
  .next (s.orWait (waitgeAgain s gk fid))

/-- PREF (R181): a lane that would fault is ignored, as are all where the base pair reaches the budget, and as is one whose request must wait or reaches no peer (R471); the line is filled into the L1 by its HINT, and the home slice
fetches it into the store cache. -/
def execPref (o : MOp) (s : State) : Host.Outcome State Fault Refusal :=
  .next (onWord (.pref o) s never never fun gk g f =>
    if g.fencing then waitWord s gk g f .fenceHold
    else
      let s := s.setGroup gk (g.setFrag f.advance)
      (if (overBudget (.pref o) g).isSome then [] else memLanes g f o).foldl (fun s i =>
        let r := globalCheck (coreOf gk) 1 g globTags permR s (effAddr g f o o.c i)
        s.orSkip (match r.2 with
        | .error _ => r.1
        | .ok a =>
          if tierOf a = 2 ∧ r.1.routed a = false then r.1
          else
          match r.1.wakeFor g.tenant a with
          | some s => s
          | none =>
            let s := r.1.engineRead g.tenant (a / 128 * 128) 128 (o.tag == 1)
            if o.tag = 3 then s else s.fillL1 (coreOf gk) g.asid (a / 128) (hintClass o.tag.toNat))) s)

/-- WBL1 and INVL1 (R182): write-backs of lines are sent; the word completes when they are applied. -/
def lineOp (s : State) (gk : Nat) (g : Group) (f : Frag) (o : MOp) (lines : List Nat) (inval : Bool) : State :=
  match selFlag f o.fs with
  | none => s
  | some n =>
    if 63 ≤ g.flag n then waitWord s gk g f (.flagFull n)
    else
      let here := lines.filter fun l => (s.l1Line (coreOf gk) g.asid l).isSome
      let r := s.sendWb (coreOf gk) g.asid here inval
      trackWord r.1 gk g f o.fs (.mem { mkOp o false (.wb inval) [] with release := some r.2 })

/-- The form that names lines by address. -/
def lineWord (i : Instr) (s : State) (o : MOp) (inval : Bool) : State :=
  laneWord i s o (some o.fs) o.c (gloChk o globTags permR) fun s gk g f l =>
    lineOp s gk g f o ((l.map fun x => x.2.2 / 128).eraseDups) inval
/-- The form that names every line of the ASID; with no lane Enabled it names none. -/
def allWord (i : Instr) (s : State) (o : MOp) (inval : Bool) : State :=
  onWord i s never never fun gk g f =>
    if g.fencing then waitWord s gk g f .fenceHold
    else
      let mine := (s.core (coreOf gk)).l1.filter fun l => l.asid == g.asid
      lineOp s gk g f o (if enabled g f o.guard = 0 then [] else mine.map fun l => l.line) inval

/-- WBL1 (R182). -/
def execWbl1 (o : MOp) (s : State) : Host.Outcome State Fault Refusal := .next (lineWord (.wbl1 o) s o false)
/-- WBL1.all (R182). -/
def execWbl1All (o : MOp) (s : State) : Host.Outcome State Fault Refusal := .next (allWord (.wbl1All o) s o false)
/-- INVL1 (R182). -/
def execInvl1 (o : MOp) (s : State) : Host.Outcome State Fault Refusal := .next (lineWord (.invl1 o) s o true)
/-- INVL1.all (R182). -/
def execInvl1All (o : MOp) (s : State) : Host.Outcome State Fault Refusal := .next (allWord (.invl1All o) s o true)

/-- GLOBAL_ACCESS_COMPLETE (R175-R178, R182): lanes are written, and the word completes once nothing is left. A REDG
completes when its reductions are accepted: its flag falls, and it stays outstanding until they are applied. -/
def globalComplete (s : State) (gk id : Nat) (lanes : Lanes) : State :=
  match s.memOp gk id with
  | none => s
  | some (g, o, m) =>
    if m.isLocal then s
    else
      match m.kind with
      | .red _ _ _ =>
        if m.performed then finishMem s gk g o m
        else if o.flag < 12 then
          s.setGroup gk { g.completeFlag o.flag with ops := g.ops.map fun x => if x.id = id then { x with flag := 12 } else x }
        else s
      | .wb _ =>
        if s.wbDone (coreOf gk) (m.release.getD []) then finishMem s gk g o m else s
      | _ => settleMem s gk g o m lanes

/-- GLOBAL_ACCESS_COMPLETE. -/
def execGlobalAccessComplete (gk op : Nat) (lanes : Lanes) (s : State) : Host.Outcome State Fault Refusal :=
  .next (globalComplete s gk op lanes)
/-- HOME_ACCESS (R326). -/
def execHomeAccess (gk op part : Nat) (s : State) : Host.Outcome State Fault Refusal := .next (s.orWait (homeAccess s gk op part))
/-- WRITE_BACK_ARRIVE (R330). -/
def execWriteBackArrive (core k : Nat) (s : State) : Host.Outcome State Fault Refusal :=
  .next (s.orWait (writeBackArrive s core k))
/-- MISS_FILL (R329). -/
def execMissFill (slice line : Nat) (s : State) : Host.Outcome State Fault Refusal := .next (s.orWait (missFill s slice line))

end Sys2Proof.Machine
end

