-- ==== Sys2Proof/Machine/Room.lean ====
section
/-! DEFINITION. What a core has room for (R29, R102, R396), team barriers (R106), and the retirement of a team's group
(R129). -/
namespace Sys2Proof.Machine

/-! ## Room on a core -/

/-- The groups that hold a slot of a core. -/
def State.groupsOn (s : State) (core : Nat) : List (Nat × Group) := s.groups.filter fun x => x.1 / 32 == core
/-- The team contexts of a core. -/
def State.teamsOn (s : State) (core : Nat) : List (Nat × Team) := s.teams.filter fun x => x.1 / 8 == core
/-- The core's free pool of group-registers (R102): 2048, less the budgets and the team reserves. -/
def State.freeRegs (s : State) (core : Nat) : Nat :=
  2048 - ((s.groupsOn core).map fun x => x.2.budget).sum - ((s.teamsOn core).map fun t => 8 * t.2.reserve).sum
/-- The launch budget of a slalom grid's groups (R396). -/
def Grid.launchBudget (g : Grid) : Nat := 8 * g.obj.vbudget
/-- The registers of the escape slot of a core (R396). -/
def State.escapeRegs (s : State) (core : Nat) : Nat :=
  match (s.core core).leap with
  | none => 0
  | some l => ((s.grid l.grid).map Grid.launchBudget).getD 0
/-- The registers that a CLAIM may draw on in a core (R102, R396). -/
def State.claimable (s : State) (core : Nat) : Nat := s.freeRegs core - s.escapeRegs core
/-- The lowest free group slot of a core. -/
def State.freeSlot (s : State) (core : Nat) : Option Nat :=
  ((List.range 32).map fun i => 32 * core + i).find? fun k => (s.group k).isNone
/-- The number of free group slots of a core. -/
def State.freeSlots (s : State) (core : Nat) : Nat := 32 - (s.groupsOn core).length
/-- The lowest free team context of a core. -/
def State.freeTeam (s : State) (core : Nat) : Option Nat :=
  ((List.range 8).map fun i => 8 * core + i).find? fun k => (s.team k).isNone
/-- Is a core live (R2)? -/
def State.liveCore (s : State) (core : Nat) : Bool := s.liveCl.contains (clusterOf core)
/-- Does a slalom grid hold a core, from the acceptance of its launch on (R393)? -/
def State.slalomHeld (s : State) (core : Nat) : Bool :=
  s.grids.any fun g =>
    (match g.2.slalom with | some x => x.cores.contains core | none => false)
    && s.held.all fun h => h.grid != some g.1 || h.ready
/-- The live cores of a partition, in increasing order. -/
def State.partCores (s : State) (p : Nat) : List Nat :=
  (List.range 192).filter fun c => (s.partn p).hasCluster (clusterOf c) && s.liveCore c

/-! ## Team barriers (R106) -/

/-- A barrier that nothing has arrived at. -/
def Barrier.fresh : Barrier := { expect := 0, arrived := 0, gen := 0 }
/-- A barrier of a team. -/
def Team.barrier (t : Team) (b : Nat) : Barrier := Tab.get Barrier.fresh t.barriers b
/-- The number of arrived bits. -/
def Barrier.count (b : Barrier) : Nat := ((List.range 16).filter fun i => b.arrived.getLsbD i).length
/-- Check(b) of R106. -/
def Team.check (t : Team) (b : Nat) : Team :=
  let x := t.barrier b
  let e := if x.expect = 0 then t.live else x.expect
  if e ≤ x.count then { t with barriers := Tab.put t.barriers b { x with arrived := 0, gen := x.gen + 1 } } else t
/-- Arrive(b, cnt) of R106 for the group numbered `n`: the team after it, and the group's arrival generation where it
changes. -/
def Team.arrive (t : Team) (b n cnt : Nat) : Team × Option Nat :=
  let x := t.barrier b
  if x.arrived.getLsbD n then (t, none)
  else
    let x := if x.arrived = 0 then { x with expect := cnt } else x
    let t := { t with barriers := Tab.put t.barriers b { x with arrived := x.arrived ||| BitVec.ofNat 16 (2 ^ n) } }
    (t.check b, some x.gen.toNat)
/-- Passed(b) of R106. -/
def Group.passed (g : Group) (t : Team) (b : Nat) : Bool :=
  match Tab.find g.arrgen b with
  | none => true
  | some n => n != (t.barrier b).gen.toNat
/-- Check on every barrier that expects all groups: a group of the team has retired (R106). -/
def Team.checkAll (t : Team) : Team :=
  (List.range 16).foldl (fun t b => if (t.barrier b).expect = 0 then t.check b else t) t

/-! ## Retirement of a group -/

/-- The unit number of a group in an error record (R437): linear team or group ID, or task queue. -/
def Group.unitNo (g : Group) : Nat := g.lin
/-- The GRIDID of a group in an error record: none for a task. -/
def State.gridIdOf (s : State) (g : Group) : Nat :=
  match g.unit with
  | .task _ => 0xFFFFFFFF
  | _ => ((s.grid g.grid).map fun x => x.gridid).getD 0xFFFFFFFF
/-- A GUARD report that is pending at retirement is written to the fault log (R107, R437 kind 3). -/
def State.logGuard (s : State) (core : Nat) (g : Group) : State :=
  match g.guardRep with
  | none => s
  | some r =>
    s.faultLog g.tenant { kind := 3, cause := 6, part := g.part, gridid := s.gridIdOf g, unit := g.unitNo, core := core
                          epc := g.trap.epc.toNat, eaddr := r % 2 ^ 20, einfo := 2 ^ 24 * 6 + r / 2 ^ 20 % 32 }
/-- A GUARD report pending for the group is delivered at the boundary after a barrier wait (R107, R117). -/
def Group.takeGuard (g : Group) : Group :=
  match g.guardRep with
  | none => g
  | some r => { g.record 6 { eaddr := BitVec.ofNat 64 (r % 2 ^ 20), detail := r / 2 ^ 20 % 32 } with guardRep := none }

/-- A group of a team retires (R102, R106, R129): its slot is free, its registers go to the team reserve, and barriers
that expect every group are checked. A copy error that it never delivered stays with its team (R437 kind 7). -/
def State.retireTeamGroup (s : State) (gk : Nat) (g : Group) (tk : Nat) : State :=
  let s := s.logGuard (coreOf gk) g
  let s := { s with groups := Tab.del s.groups gk }
  let err := if g.trap.cause.getLsbD 17 then Tab.find g.trap.info 17 else none
  s.updTeam tk fun t =>
    ({ t with reserve := t.reserve + g.budget / 8, live := t.live - 1
              copyErr := if err.isSome then err else t.copyErr }).checkAll

end Sys2Proof.Machine
end

