-- ==== Sys2Proof/Machine/Fetch.lean ====
section
/-! DEFINITION. Fetching the words of a clause: under translation, or from the instruction store of a slalom grid's core
(R51, R58, R128, R399; log 9). -/
namespace Sys2Proof.Machine

/-- The lowest live lane of a fragment: the lane that a faulting fetch reports. -/
def Frag.lowLane (f : Frag) : Nat := ((laneList (liveLanes f)).head?).getD 0

/-- The word at a code address, for a fragment; or the cause that its fetch raises. Code is global and executable
(R128), and a byte of memory with an uncorrectable error is free (log 12); a core of a slalom grid fetches only from its
instruction store (R399). -/
def State.fetchWord (s : State) (gk : Nat) (g : Group) (f : Frag) (a : Nat) : State × Except (Nat × CauseRec) W64 :=
  let core := coreOf gk
  let pc := BitVec.ofNat 64 a
  let bad (d : Nat) : Nat × CauseRec := (2, { eaddr := pc, detail := f.lowLane + d })
  match g.unit with
  | .slalom n =>
    (match (s.core core).leap, s.grid n with
    | some l, some gr => (s, .ok (BitVec.ofNat 64 (leNat (Memory.readN l.store (a - gr.code.toNat) 8))))
    | _, _ => (s, .error (bad 0)))
  | _ =>
    match globalBody pc with
    | none => (s, .error (bad 0))
    | some va =>
      match s.translate core g.tenant g.asid va permX with
      | (s, .error x) => (s, .error (bad (xlateFault x).detail))
      | (s, .ok pa) => (s, .ok (BitVec.ofNat 64 (leNat (s.gather ((List.range 8).map fun i => pa + i)))))

/-- The number of a word of a core's instruction store in the list of words that show an uncorrectable error (R477). -/
def storeWordNo (core off : Nat) : Nat := 2 ^ 61 + 2 ^ 60 + 2 ^ 20 * core + off / 8 * 8
/-- Does a fetch of a slalom group meet such a word? -/
def State.badFetch (s : State) (core : Nat) (g : Group) (a : Nat) : Bool :=
  match g.unit with
  | .slalom n =>
    s.plat.bad ≠ [] && s.plat.bad.contains (storeWordNo core (a - ((s.grid n).map fun x => x.code.toNat).getD 0))
  | _ => false
/-- The header at an address (R53): one that is misaligned or illegal raises ILLEGAL. -/
def State.fetchHeader (s : State) (gk : Nat) (g : Group) (f : Frag) (a : Nat) :
    State × Except (Nat × CauseRec) Header :=
  if a % 8 ≠ 0 then (s, .error (plainCause 0))
  else
    match s.fetchWord gk g f a with
    | (s, .error c) => (s, .error c)
    | (s, .ok w) =>
      match decodeHeader w with
      | .ok h => (s, .ok h)
      | .error _ => (s, .error (plainCause 0))

/-! ## Eligibility (R99) -/

/-- Every access that the group issued is performed: an arrival is a release at TEAM scope (R107). -/
def Group.allPerformed (g : Group) : Bool := g.ops.all fun o => o.kind.performed

/-- A fragment that is due to depart (R401): by a LEAP, or because its PC lies outside the segment. -/
def State.dueDepart (s : State) (gk : Nat) (g : Group) (f : Frag) : Option (Nat × Option (List W32)) :=
  match f.wait with
  | .depart t l => some (t, l)
  | _ => if s.inSegment (coreOf gk) g f.addr then none else some (f.addr, none)
/-- Does a fragment of the group wait to depart, so that no long-latency word of the group issues (R402)? -/
def State.departing (s : State) (gk : Nat) (g : Group) : Bool := g.frags.any fun f => (s.dueDepart gk g f).isSome

/-- The waits that R108 counts. -/
def Wait.counts (w : Wait) : Bool :=
  match w with
  | .waita _ => true
  | .waitge _ => true
  | .barrier _ => true
  | .sleep _ => true
  | _ => false
/-- SR.SWAPT in cycles (R109); none where the group is never swapped out. -/
def Group.swapAfter (g : Group) : Option Nat := if g.swapt = 0xFFFFFFFF then none else some (max 256 g.swapt)
/-- Has what a fragment waits for come, so that it may issue as far as its own wait goes (R54, R56, R99)? A FENCE that has
issued goes on towards its end though a handler holds its fragment (R179). -/
def State.waitEnded (s : State) (gk : Nat) (g : Group) (f : Frag) : Bool :=
  match f.wait with
  | .none => true
  | .header => (match f.hw with
    | some h => g.flagsClear h.waitmask.toNat
    | none => true)
  | .flagFull n => g.flag n < 63
  | .flags m => g.flagsClear m
  | .mfence m => g.flagsClear m
  | .allFlags => g.allFlagsClear
  | .performs => g.allPerformed
  | .fence r => (match r with
    | some ids => s.wbDone (coreOf gk) ids
    | none => g.allReturned || g.allPerformed)
  | .fenceHold => !g.fencing && !s.departing gk g
  | .waita m => m.denied.isSome
  | _ => false

/-- Does every fragment still wait, one of them beyond SR.SWAPT? A fragment that a handler holds waits, and so does one that
has waited for flags alone and may now go on. -/
def State.idle (s : State) (g : Group) : Bool :=
  match g.swapAfter with
  | none => false
  | some n =>
    g.frags != [] && (g.frags.all fun f => !f.free || f.wait != .none)
    && g.frags.any fun f => f.wait.counts && f.since + n < s.clock
/-- The first two conditions of R108: every fragment waits, for something that has not come, one of them beyond SR.SWAPT. -/
def State.drainBegins (s : State) (gk : Nat) (g : Group) : Bool :=
  s.idle g && g.frags.all fun f => !f.free || !s.waitEnded gk g f
/-- Has a group met the first two conditions of R108? It then issues nothing more, although the flags for which a fragment
waits fall meanwhile. DESIGN CHOICE (log 48): where a wait on something else ends before its flags have drained, the group
goes on. -/
def State.swappable (s : State) (gk : Nat) (g : Group) : Bool := s.drainBegins gk g || (g.draining && s.idle g)
/-- A group as R108 leaves it after a turn. -/
def State.noteDrain (s : State) (gk : Nat) (g : Group) : Group :=
  let d := s.swappable gk g
  if d = g.draining then g else { g with draining := d }

/-- The header in force for a fragment: the one it has read, or, where a return or an image has put it into a clause, the one
that its next issue reads again (R58). -/
def State.headerInForce (s : State) (gk : Nat) (g : Group) (f : Frag) : Option Header :=
  match f.hw with
  | some h => some h
  | none =>
    match (s.fetchHeader gk g f f.hdr).2 with
    | .ok h => some h
    | .error _ => none
/-- Is the fragment's next word one that would take its flag from 63 to 64 (R56)? -/
def State.flagHeld (s : State) (gk : Nat) (g : Group) (f : Frag) : Bool :=
  if f.word = 0 ∨ (List.range 12).all fun n => g.flag n < 63 then false
  else
    match s.headerInForce gk g f with
    | none => false
    | some h =>
      match (s.fetchWord gk g f f.addr).2 with
      | .error _ => false
      | .ok w =>
        match decodeWord w with
        | .error _ => false
        | .ok i =>
          match (Instr.flagSel i).bind (selFlag { f with hw := some h }) with
          | some n => 63 ≤ g.flag n
          | none => false

/-- May a fragment's team begin execution, if it has not (R47): has every team of its grid with a lower linear ID begun, or
ended? Teams are dispatched in increasing order, so such a team is resident or captured. -/
def State.teamTurn (s : State) (g : Group) (f : Frag) : Bool :=
  f.word ≠ 0 ||
    (match g.unit with
    | .team tk =>
      (match s.team tk with
      | none => true
      | some t => t.begun ||
          ((s.teams.all fun x => x.2.grid != t.grid || t.linear ≤ x.2.linear || x.2.begun)
            && s.held.all fun h => h.grid != some t.grid || t.linear ≤ h.unit || h.begun))
    | _ => true)

/-- May a fragment issue, as far as its waits and its group go (R47, R54, R56, R99, R108, R113)? -/
def State.mayIssue (s : State) (gk : Nat) (g : Group) (f : Frag) : Bool :=
  !s.stopped g && (f.free || f.fencing) && (s.dueDepart gk g f).isNone && !s.swappable gk g && s.teamTurn g f
  && !s.flagHeld gk g f && s.waitEnded gk g f

/-! ## The wait limit (R451) -/

/-- The wait limit of a group's partition in cycles (R438); 0 for none. -/
def State.waitLimit (s : State) (g : Group) : Nat := 1024 * bits (s.partn g.part).cfg 127 96
/-- The TIMEOUT record of a wait that R451 counts: the watched address, or 0 for a barrier. -/
def Frag.timeoutRec (f : Frag) : Option CauseRec :=
  let va (m : MemOp) : W64 := ((m.parts.find? fun p => !p.done).map fun p => p.va).getD 0
  match f.wait with
  | .waita m => some { eaddr := va m, detail := 1 }
  | .waitge m => some { eaddr := va m, detail := 2 }
  | .barrier _ => some { eaddr := 0, detail := 3 }
  | _ => none
/-- Has a wait of the fragment lasted beyond the limit? -/
def State.timedOut (s : State) (g : Group) (f : Frag) : Bool :=
  f.timeoutRec.isSome && s.waitLimit g != 0 && f.since + s.waitLimit g < s.clock
/-- Is TIMEOUT recorded, and can it be delivered now (R115)? -/
def Group.timeoutDue (g : Group) : Bool := g.trap.cause.getLsbD 19 && !g.trap.tmask.getLsbD 19 && g.trap.plevel == 0

end Sys2Proof.Machine
end

