-- ==== Sys2Proof/Machine/Func.lean ====
section
/-! DEFINITION. The values of the function-and-conversion engine (R231-R256): functions, conversions, blocks. RCP and
SQRT are computed exactly; the other functions answer the device's own result where it lies within the bound of
R245, and otherwise the nearest value (log 11). -/
namespace Sys2Proof.Machine

/-- Integer square root, bit by bit from bit `k`. -/
def isqrtAux (n : Nat) : Nat → Nat → Nat
  | 0, r => r
  | k + 1, r => let r' := r + 2 ^ k; isqrtAux n k (if r' * r' ≤ n then r' else r)
/-- The floor of the square root. -/
def isqrt (n : Nat) : Nat := isqrtAux n (bitLen n / 2 + 1) 0

/-- RCP: 1/a correctly rounded to nearest even (R245), with its special values and flags. -/
def fRcp (f : Fmt) (a : Nat) : FRes :=
  match f.decode a with
  | .nan s => f.nanRes (if s then flInvalid else 0)
  | .inf n => ⟨f.signBit n, 0⟩
  | .fin n m e =>
    if m = 0 then ⟨f.signBit n + f.infCode, flDivZero⟩
    else
      let k := bitLen m + 128
      f.round .rne false n (2 ^ k / m) (-(k : Int) - e) (2 ^ k % m != 0)

/-- SQRT: correctly rounded (R245). -/
def fSqrt (f : Fmt) (rm : Rm) (a : Nat) : FRes :=
  match f.decode a with
  | .nan s => f.nanRes (if s then flInvalid else 0)
  | .inf n => if n then f.nanRes flInvalid else ⟨f.infCode, 0⟩
  | .fin n m e =>
    if m = 0 then ⟨f.signBit n, 0⟩
    else if n then f.nanRes flInvalid
    else
      let odd : Nat := (e % 2).toNat
      let x := m * 2 ^ (odd + 256)
      let r := isqrt x
      f.round rm false false r ((e - odd - 256) / 2) (r * r != x)

/-- An enclosure: the true value lies between lo * 2^-prec and hi * 2^-prec. -/
structure Encl where
  lo : Int
  hi : Int
deriving DecidableEq, Repr

/-- Binary places of the fixed-point enclosures. -/
def prec : Nat := 512

/-- exp x for x = a * 2^-prec, 0 ≤ x < 1, by its series to n terms; each step cuts by less than one unit. -/
def expSeries (a : Nat) : Nat → Nat → Nat → Nat → Nat
  | 0, _, _, acc => acc
  | n + 1, k, t, acc => let t' := t * a / 2 ^ prec / k; expSeries a n (k + 1) t' (acc + t')
/-- exp x, to within 2^-480 (110 terms of a series whose cuts and tail stay below 200 units). -/
def expFix (a : Nat) : Nat := expSeries a 110 1 (2 ^ prec) (2 ^ prec)

/-- Sum of z^(2k+1)/(2k+1) with sign s, for z = a * 2^-prec. -/
def atanSeries (alt : Bool) (sq : Nat) : Nat → Nat → Nat → Int → Int
  | 0, _, _, acc => acc
  | n + 1, k, t, acc =>
    let term : Int := (t / (2 * k + 1) : Nat)
    atanSeries alt sq n (k + 1) (t * sq / 2 ^ prec) (if alt && k % 2 == 1 then acc - term else acc + term)
/-- artanh z for z at most 1/3. -/
def artanhFix (a : Nat) : Int := atanSeries false (a * a / 2 ^ prec) 180 0 a 0
/-- arctan z for z at most 1/5. -/
def arctanFix (a : Nat) : Int := atanSeries true (a * a / 2 ^ prec) 130 0 a 0
/-- The natural logarithm of 2. -/
def ln2Fix : Nat := (2 * artanhFix (2 ^ prec / 3)).toNat
/-- Pi, by Machin's formula. -/
def piFix : Nat := (16 * arctanFix (2 ^ prec / 5) - 4 * arctanFix (2 ^ prec / 239)).toNat

/-- Alternating sum of x^k/k! over every second k. -/
def trigSeries (sq : Nat) : Nat → Nat → Nat → Bool → Int → Int
  | 0, _, _, _, acc => acc
  | n + 1, k, t, minus, acc =>
    let t' := t * sq / 2 ^ prec / ((k + 1) * (k + 2))
    trigSeries sq n (k + 2) t' (!minus) (if minus then acc - t' else acc + t')
/-- sin r for 0 ≤ r < 2. -/
def sinFix (r : Nat) : Int := trigSeries (r * r / 2 ^ prec) 70 1 r true r
/-- cos r for 0 ≤ r < 2. -/
def cosFix (r : Nat) : Int := trigSeries (r * r / 2 ^ prec) 70 0 (2 ^ prec) true (2 ^ prec : Nat)

/-- The slack of every enclosure: 2^-300. -/
def slack : Int := 2 ^ (prec - 300)
/-- The enclosure around a fixed-point value. -/
def around (x : Int) : Encl := ⟨x - slack, x + slack⟩

/-- m * 2^e as a fixed-point number; exact for e ≥ -prec. -/
def toFix (m : Nat) (e : Int) : Nat :=
  if 0 ≤ e + prec then m * 2 ^ (e + prec).toNat else m / 2 ^ (-(e + prec)).toNat

/-- 2^x for a finite FP32 x of magnitude below 256. -/
def exp2Encl (neg : Bool) (m : Nat) (e : Int) : Encl :=
  let x : Int := if neg then -(toFix m e : Int) else toFix m e
  let n := x / 2 ^ prec
  let f := (x % 2 ^ prec).toNat
  let y := expFix (f * ln2Fix / 2 ^ prec)
  if 0 ≤ n then ⟨(y * 2 ^ n.toNat : Nat) - slack * 2 ^ n.toNat, (y * 2 ^ n.toNat : Nat) + slack * 2 ^ n.toNat⟩
  else ⟨(y / 2 ^ (-n).toNat : Nat) - slack, (y / 2 ^ (-n).toNat : Nat) + slack⟩

/-- log2 of a positive finite value. -/
def log2Encl (m : Nat) (e : Int) : Encl :=
  let l := bitLen m
  let frac := toFix m (1 - (l : Int))
  let z := (frac - 2 ^ prec) * 2 ^ prec / (frac + 2 ^ prec)
  let ln := 2 * artanhFix z
  around ((e + l - 1) * 2 ^ prec + ln * 2 ^ prec / ln2Fix)

/-- sin or cos of a finite value, with the argument reduced against pi to `prec` places. -/
def trigEncl (cos neg : Bool) (m : Nat) (e : Int) : Encl :=
  let x := toFix m e
  let h := piFix / 2
  let q := x / h % 4
  let r := x % h
  let s := sinFix r
  let c := cosFix r
  let v : Int :=
    if cos then (match q with | 0 => c | 1 => -s | 2 => -c | _ => s)
    else (match q with | 0 => s | 1 => c | 2 => -s | _ => -c)
  around (if neg && !cos then -v else v)

/-- An enclosure of a value that is below 1: no code above its bound is admitted for the enclosure's own width. -/
def Encl.belowOne (en : Encl) : Encl := { en with hi := min en.hi (2 ^ prec - 1) }
/-- tanh of a positive finite value. -/
def tanhEncl (m : Nat) (e : Int) : Encl :=
  let x := toFix m e
  if x ≥ 64 * 2 ^ prec then ⟨2 ^ prec - slack, 2 ^ prec - 1⟩
  else
    let t := 2 * x
    let n := t / ln2Fix
    let y := expFix (t % ln2Fix) * 2 ^ n
    (around ((y - 2 ^ prec : Nat) * 2 ^ prec / (y + 2 ^ prec : Nat))).belowOne

/-- Terms of the series of erf. -/
def erfSeries (sq : Nat) : Nat → Nat → Nat → Bool → Int → Int
  | 0, _, _, _, acc => acc
  | n + 1, k, t, minus, acc =>
    let t' := t * sq / 2 ^ prec / (k + 1)
    let u : Int := (t' / (2 * k + 3) : Nat)
    erfSeries sq n (k + 1) t' (!minus) (if minus then acc - u else acc + u)
/-- erf of a positive finite value. -/
def erfEncl (m : Nat) (e : Int) : Encl :=
  let x := toFix m e
  if x ≥ 8 * 2 ^ prec then ⟨2 ^ prec - slack, 2 ^ prec - 1⟩
  else (around (2 * erfSeries (x * x / 2 ^ prec) 400 0 x true x * 2 ^ prec / isqrt (piFix * 2 ^ prec))).belowOne

/-- 1/√a as an enclosure in units of 2^(-prec + shift): answers the enclosure and the exponent to add. -/
def rsqEncl (m : Nat) (e : Int) : Encl × Int :=
  let odd : Nat := (e % 2).toNat
  let x := m * 2 ^ odd
  (around (2 ^ (2 * prec) / isqrt (x * 2 ^ (2 * prec)) : Nat), -((e - odd) / 2))

/-- How far from the true value a result may lie (R245): in units in the last place, or absolutely. -/
structure Bound where
  ulps : Nat
  abs : Option Nat
deriving DecidableEq, Repr

/-- Inexact, which the bounded functions raise with a nonzero result (R246). -/
def inexactOf (c : Nat) : FFlags := if c % 2 ^ 31 = 0 then 0 else flInexact

/-- 2^(max(E, minimum exponent) - M) of R245, in units of 2^-prec (with `ex` added to the exponent). -/
def ulpFix (f : Fmt) (mag : Nat) (ex : Int) : Nat :=
  let top : Int := (bitLen mag : Int) - 1 - prec + ex
  toFix 1 (max top (1 - f.bias) - f.mbits - ex)

/-- Is the code a finite number, a zero included, of the sign of the enclosed value, and within the bound of it? The value is
scaled by 2^ex. A code on the very edge counts as inside. -/
def within (f : Fmt) (en : Encl) (ex : Int) (b : Bound) (code : Nat) : Bool :=
  match f.decode code with
  | .fin n m e =>
    let y : Int := if n then -(toFix m (e - ex) : Int) else toFix m (e - ex)
    let mag := min en.lo.natAbs en.hi.natAbs
    let tol : Int :=
      match b.abs with
      | some k => max (toFix 1 (-(k : Int))) 1
      | none => b.ulps * ulpFix f mag ex
    code < 2 ^ f.width && n == decide (en.lo < 0) && en.lo - tol ≤ y && y ≤ en.hi + tol
  | _ => false

/-- The result of a function whose bits the manual leaves to the device within a bound. -/
def boundedResult (opc : Nat) (f : Fmt) (ftz : Bool) (a : Nat) (en : Encl) (ex : Int) (b : Bound) : Nat :=
  let c := Config.funcResult opc f.width a ftz
  if within f en ex b c then c
  else (f.round .rne false (en.lo < 0) en.lo.natAbs (ex - prec)).code

/-- Is m * 2^e a power of two, and which? -/
def pow2Of (m : Nat) (e : Int) : Option Int :=
  if m = 2 ^ (bitLen m - 1) then some (e + bitLen m - 1) else none
/-- Is m * 2^e an integer? -/
def intOf (m : Nat) (e : Int) : Option Int :=
  if 0 ≤ e then some (m * 2 ^ e.toNat : Nat)
  else if m % 2 ^ (-e).toNat = 0 then some (m / 2 ^ (-e).toNat : Nat) else none

/-- RSQ (R245): 1/√a. -/
def fRsq (f : Fmt) (ftz : Bool) (a : Nat) : FRes :=
  match f.decode a with
  | .nan s => f.nanRes (if s then flInvalid else 0)
  | .inf n => if n then f.nanRes flInvalid else ⟨0, 0⟩
  | .fin n m e =>
    if m = 0 then ⟨f.signBit n + f.infCode, flDivZero⟩
    else if n then f.nanRes flInvalid
    else
      match pow2Of m e with
      | some k =>
        if k % 2 = 0 then ⟨(f.round .rne false false 1 (-(k / 2))).code, 0⟩
        else let r := rsqEncl m e; ⟨boundedResult 0x81 f ftz a r.1 r.2 ⟨1, none⟩, flInexact⟩
      | none => let r := rsqEncl m e; ⟨boundedResult 0x81 f ftz a r.1 r.2 ⟨1, none⟩, flInexact⟩

/-- EXP2 (R245, R246): 2^a in FP32. -/
def fExp2 (ftz : Bool) (a : Nat) : FRes :=
  match fp32.decode a with
  | .nan s => fp32.nanRes (if s then flInvalid else 0)
  | .inf n => if n then ⟨0, 0⟩ else ⟨fp32.infCode, 0⟩
  | .fin n m e =>
    if m = 0 then ⟨(fp32.round .rne false false 1 0).code, 0⟩
    else if (e + bitLen m > 7) ∧ !n then ⟨fp32.infCode, flOverflow ||| flInexact⟩
    else if e + bitLen m > 8 then ⟨0, flUnderflow ||| flInexact⟩
    else
      match intOf m e with
      | some k =>
        let k' := if n then -k else k
        if -149 ≤ k' then ftzRes fp32 ftz ⟨(fp32.round .rne false false 1 k').code, 0⟩
        else
          let c := boundedResult 0x83 fp32 ftz a (exp2Encl n m e) 0 ⟨2, some 150⟩
          ftzRes fp32 ftz ⟨c, flUnderflow ||| flInexact⟩
      | none =>
        let en := exp2Encl n m e
        let tiny := n && m * 2 ^ (e + 200).toNat > 126 * 2 ^ 200
        let c := boundedResult 0x83 fp32 ftz a en 0 (if tiny then ⟨2, some 150⟩ else ⟨2, none⟩)
        ftzRes fp32 ftz ⟨c, if c < 2 ^ 23 then flUnderflow ||| flInexact else flInexact⟩

/-- LOG2 (R245, R246). -/
def fLog2 (ftz : Bool) (a : Nat) : FRes :=
  match fp32.decode a with
  | .nan s => fp32.nanRes (if s then flInvalid else 0)
  | .inf n => if n then fp32.nanRes flInvalid else ⟨fp32.infCode, 0⟩
  | .fin n m e =>
    if m = 0 then ⟨fp32.signBit true + fp32.infCode, flDivZero⟩
    else if n then fp32.nanRes flInvalid
    else
      match pow2Of m e with
      | some k => ⟨(fp32.round .rne false (k < 0) k.natAbs 0).code, 0⟩
      | none =>
        let inside := e + bitLen m = 0 ∨ e + bitLen m = 1
        let c := boundedResult 0x84 fp32 ftz a (log2Encl m e) 0 (if inside then ⟨2, some 22⟩ else ⟨2, none⟩)
        ftzRes fp32 ftz ⟨c, inexactOf c⟩

/-- SIN and COS (R245, R246). -/
def fTrig (cos ftz : Bool) (a : Nat) : FRes :=
  match fp32.decode a with
  | .nan s => fp32.nanRes (if s then flInvalid else 0)
  | .inf _ => fp32.nanRes flInvalid
  | .fin n m e =>
    if m = 0 then (if cos then ⟨(fp32.round .rne false false 1 0).code, 0⟩ else ⟨a, 0⟩)
    else if !cos && e + bitLen m ≤ -12 then ⟨a, 0⟩
    else ftzRes fp32 ftz
      (let c := boundedResult (if cos then 0x86 else 0x85) fp32 ftz a (trigEncl cos n m e) 0 ⟨2, some 22⟩
       ⟨c, inexactOf c⟩)

/-- TANH and ERF (R245, R246), which are odd functions. -/
def fOdd (erf ftz : Bool) (a : Nat) : FRes :=
  match fp32.decode a with
  | .nan s => fp32.nanRes (if s then flInvalid else 0)
  | .inf n => ⟨(fp32.round .rne false n 1 0).code, 0⟩
  | .fin n m e =>
    if m = 0 then ⟨a, 0⟩
    else if !erf && e + bitLen m ≤ -12 then ⟨a, 0⟩
    else
      let en := if erf then erfEncl m e else tanhEncl m e
      let en' : Encl := if n then ⟨-en.hi, -en.lo⟩ else en
      let c := boundedResult (if erf then 0x88 else 0x87) fp32 ftz a en' 0 ⟨2, none⟩
      ftzRes fp32 ftz ⟨c, inexactOf c⟩

/-- A function of R243 on the code `a`: operands read and results written under FTZ in FP32 (R244). -/
def funcEval (opc : Nat) (f : Fmt) (rm : Rm) (ftz : Bool) (a : Nat) : FRes :=
  let x := ftzIn f ftz a
  match opc with
  | 0x80 => ftzRes f ftz (fRcp f x)
  | 0x81 => ftzRes f ftz (fRsq f ftz x)
  | 0x82 => ftzRes f ftz (fSqrt f rm x)
  | 0x83 => fExp2 ftz x
  | 0x84 => fLog2 ftz x
  | 0x85 => fTrig false ftz x
  | 0x86 => fTrig true ftz x
  | 0x87 => fOdd false ftz x
  | _ => fOdd true ftz x

/-- The floating format of a code of R235. -/
def fmtOfCode (c : Nat) : Option Fmt :=
  match c with
  | 0 => some fp32
  | 1 => some fp64
  | 2 => some fp16
  | 3 => some bf16
  | 4 => some e5m2
  | 5 => some e4m3
  | 6 => some e3m2
  | 7 => some e2m3
  | 8 => some e2m1
  | _ => none

/-- Two's complement value of the low `w` bits. -/
def sVal (w x : Nat) : Int := let y := x % 2 ^ w; if y < 2 ^ (w - 1) then y else (y : Int) - 2 ^ w

/-- An integer as an exact value. -/
def intVal (i : Int) : FVal := .fin (i < 0) i.natAbs 0

/-- The value of an element in the format of a code of R235: floats, E8M0 (R231), S8, N8 and S4 (R232). -/
def elemVal (fmt x : Nat) : FVal :=
  match fmtOfCode fmt with
  | some f => f.decode (x % 2 ^ f.width)
  | none =>
    match fmt with
    | 9 => if x % 256 = 255 then .nan false else .fin false 1 ((x % 256 : Nat) - 127)
    | 10 => intVal (sVal 8 x)
    | 11 => intVal ((x % 256 : Nat) : Int)
    | _ => intVal (sVal 4 x)

/-- Conversion to an integer range (R236-R238, R249): the code is two's complement of `w` bits. A result of 0 from a value
that is not 0 raises inexact alone, as R249 lists it. -/
def toIntRange (rm : Rm) (lo hi : Int) (w : Nat) (v : FVal) : FRes :=
  let enc : Int → Nat := fun i => (i % 2 ^ w).toNat
  match v with
  | .nan _ => ⟨0, flInvalid⟩
  | .inf n => ⟨enc (if n then lo else hi), flInvalid⟩
  | .fin n m e =>
    let (q, inexact) := roundIntMag rm n m e
    let i : Int := if n then -(q : Int) else q
    if i < lo then ⟨enc lo, flInvalid⟩
    else if hi < i then ⟨enc hi, flInvalid⟩
    else ⟨enc i, if inexact then flInexact else 0⟩

/-- Conversion to S8, N8 or S4 (R252), with the flags of R83: a result of 0 from a value that is not 0 raises underflow too. -/
def toPackedInt (rm : Rm) (lo hi : Int) (w : Nat) (v : FVal) : FRes :=
  let r := toIntRange rm lo hi w v
  if r.code = 0 ∧ r.fl = flInexact then { r with fl := flUnderflow ||| flInexact } else r

/-- Conversion to E8M0 (R231, R236-R238). -/
def toE8m0 (rm : Rm) (sat : Bool) (v : FVal) : FRes :=
  match v with
  | .nan _ => ⟨0xFF, flInvalid⟩
  | .inf n => ⟨if n || !sat then 0xFF else 0xFE, flInvalid⟩
  | .fin n m e =>
    if n || m == 0 then ⟨0xFF, flInvalid⟩
    else
      let top := bitLen m - 1
      let ex : Int := e + top
      if ex < -127 then ⟨0, flUnderflow ||| flInexact⟩
      else
        let r := m - 2 ^ top
        let oddCode := (ex + 127) % 2 == 1
        let up : Bool :=
          match rm with
          | .rne => 2 * r > 2 ^ top || (2 * r == 2 ^ top && oddCode)
          | .rna => 2 * r ≥ 2 ^ top
          | .rtz => false
          | .rdn => false
          | .rup => r != 0
          | .sr rnd => r != 0 && 2 ^ 32 * r / 2 ^ top + rnd ≥ 2 ^ 32
        let up := up && r != 0
        let code : Int := ex + 127 + (if up then 1 else 0)
        if code > 254 then ⟨if sat then 0xFE else 0xFF, flOverflow ||| flInexact⟩
        else ⟨code.toNat, if r = 0 then 0 else flInexact⟩

/-- Conversion of a value to a format code of R235 (R236-R238, R251, R252). -/
def convTo (fmt : Nat) (rm : Rm) (sat : Bool) (v : FVal) : FRes :=
  match fmtOfCode fmt with
  | some f =>
    match v with
    | .nan s => if f.special = .none then ⟨0, flInvalid⟩ else f.nanRes (if s then flInvalid else 0)
    | .inf n =>
      match f.special with
      | .ieee => ⟨f.signBit n + f.infCode, 0⟩
      | .nanOnly => ⟨if sat then f.signBit n + f.maxCode else f.nanCode, flInvalid⟩
      | .none => ⟨f.signBit n + f.maxCode, flInvalid⟩
    | .fin n m e => f.round rm sat n m e
  | none =>
    match fmt with
    | 9 => toE8m0 rm sat v
    | 10 => toPackedInt rm (-128) 127 8 v
    | 11 => toPackedInt rm 0 255 8 v
    | _ => toPackedInt rm (-8) 7 4 v

/-- The lane's random word rotated left by 8k bits (R236). -/
def rotRnd (rnd k : Nat) : Nat := (BitVec.ofNat 32 rnd).rotateLeft (8 * k % 32) |>.toNat

/-- F2I (R249): X is the integer type of R65. -/
def f2iVal (x sf rnd c a : Nat) : FRes :=
  let w := if 2 ≤ x then 64 else 32
  let rm := rmOfRnd rnd c
  if x % 2 = 0 then toIntRange rm (-(2 ^ (w - 1))) (2 ^ (w - 1) - 1) w (elemVal sf a)
  else toIntRange rm 0 (2 ^ w - 1) w (elemVal sf a)

/-- I2F (R250). -/
def i2fVal (x df rnd c a : Nat) : FRes :=
  let w := if 2 ≤ x then 64 else 32
  convTo df (rmOfRnd rnd c) false (if x % 2 = 0 then intVal (sVal w a) else intVal ((a % 2 ^ w : Nat) : Int))

/-- E of a block (R254) of FP32 codes, with the flag of a NaN or an infinity: none where a value is not finite. -/
def bfpExp (w : Nat) (vs : List Nat) : Option Nat :=
  let vals := vs.map fp32.decode
  if vals.any fun v => v.isNan || (match v with | .inf _ => true | _ => false) then none
  else
    let mx : Option Int := vals.foldl (fun acc v =>
      match v with
      | .fin _ m e =>
        if m = 0 then acc
        else
          let k : Int := e + bitLen m - 1
          match acc with
          | some k' => some (max k k')
          | none => some k
      | _ => acc) none
    match mx with
    | none => some 0
    | some k => some (max 0 (k - ((w : Int) - 2) + 127)).toNat

/-- q of one lane (R254): the value scaled by 2^(127 - E), rounded with the flags of Round (R83) and held to w bits; the code
is 32 bits wide. -/
def bfpQuant (w rnd c ex a : Nat) : FRes :=
  let lim : Int := 2 ^ (w - 1) - 1
  match fp32.decode a with
  | .fin n m e =>
    if m = 0 then ⟨0, 0⟩
    else
      let (q, inexact) := roundIntMag (rmOfRnd rnd c) n m (e + 127 - ex)
      let tooBig := lim < q
      let mag : Int := if tooBig then lim else q
      ⟨((if n then -mag else mag) % 2 ^ 32).toNat, 
        (if inexact || tooBig then flInexact else 0) ||| (if inexact && q == 0 then flUnderflow else 0)⟩
  | _ => ⟨0, 0⟩

/-- BFPX (R255): q * 2^(E - 127) in FP32. -/
def bfpExpand (w rnd c q e : Nat) : FRes :=
  if e % 256 = 255 then fp32.nanRes 0
  else
    let i := sVal w q
    fp32.round (rmOfRnd rnd c) false (i < 0) i.natAbs ((e % 256 : Nat) - 127)

/-- The FP16 pattern of an E2M1 code (R229). -/
def e2m1ToFp16 (c : Nat) : Nat :=
  c / 8 % 2 * 0x8000 + [0x0000, 0x3800, 0x3C00, 0x3E00, 0x4000, 0x4200, 0x4400, 0x4600].getD (c % 8) 0

/-- E2MXD of one lane (R256): the eight halves and the flags, from the nibbles of `a` and the side list. -/
def e2mxd (a : Nat) (side : Nat) : List Nat × FFlags :=
  ((List.range 8).foldl (fun (acc : List Nat × Nat × FFlags) k =>
    let c := a / 16 ^ k % 16
    if c = 8 then
      if acc.2.1 < 4 then (acc.1 ++ [side / 2 ^ (16 * acc.2.1) % 2 ^ 16], acc.2.1 + 1, acc.2.2)
      else (acc.1 ++ [0x7E00], acc.2.1 + 1, acc.2.2 ||| flInvalid)
    else (acc.1 ++ [e2m1ToFp16 c], acc.2.1, acc.2.2)) ([], 0, 0)) |> fun r => (r.1, r.2.2)

end Sys2Proof.Machine
end

