-- ==== Sys2Proof/Machine/MxArith.lean ====
section
/-! DEFINITION. The arithmetic of a matrix pass (R266, R272, R273) and of MSCA (R279). -/
namespace Sys2Proof.Machine

/-- Element `k` of a row value: `w` bits from bit `stride * k` (R266). -/
def mxElem (stride w row k : Nat) : Nat := row / 2 ^ (stride * k) % 2 ^ w

/-- K of a pass (R266). -/
def mxK (opc : Nat) : Nat := if opc = 0xA0 then 16 else if opc = 0xA3 then 64 else 32
/-- The distance between elements of a row, in bits (R266). -/
def mxStride (opc : Nat) : Nat := if opc = 0xA0 then 16 else if opc = 0xA3 then 4 else 8
/-- The format that a format code names (R278). -/
def mxFmt (opc code : Nat) : Fmt :=
  match opc with
  | 0xA0 => if code = 0 then fp16 else bf16
  | 0xA1 => if code = 0 then e4m3 else e5m2
  | 0xA2 => if code = 0 then e3m2 else e2m3
  | _ => e2m1
/-- Does the pass accumulate integers? -/
def mxInt (opc : Nat) : Bool := opc == 0xA4 || opc == 0xA5

/-- The floating elements of a row, negated where the word says (R272, R278). -/
def mxRowF (opc code : Nat) (neg : Bool) (row : List Byte) : List FVal :=
  let f := mxFmt opc code
  let n := leNat row
  (List.range (mxK opc)).map fun k =>
    let v := f.decode (mxElem (mxStride opc) f.width n k)
    if neg then v.neg else v
/-- An integer element (R273): S8, N8, or a mantissa of `w` bits. Code 2 + w names the mantissa. -/
def mxIntElem (code x : Nat) : Int :=
  match code with
  | 0 => sVal 8 x
  | 1 => (x % 256 : Nat)
  | w + 2 => sVal w x
/-- The integer elements of a row. -/
def mxRowI (code : Nat) (neg : Bool) (row : List Byte) : List Int :=
  let n := leNat row
  (List.range 32).map fun k =>
    let v := mxIntElem code (mxElem 8 8 n k)
    if neg then -v else v

/-- The exact product of two elements: none where an operand is a NaN or the product is 0 * infinity (R272). -/
def mxTerm (a b : FVal) : Option FVal := if a.isNan || b.isNan then none else prodV a b

/-- floor(|t| / 2^g) with the sign of the term, for a finite term (R272). -/
def mxTrunc (g : Int) (neg : Bool) (m : Nat) (e : Int) : Int :=
  let q := if g ≤ e then m * 2 ^ (e - g).toNat else m / 2 ^ (g - e).toNat
  if neg then -(q : Int) else q

/-- The sum of the terms of an element (R272). -/
def mxSum (terms : List (Option FVal)) : W32 :=
  let ts := terms.filterMap id
  let infs := ts.filterMap fun t => match t with | .inf n => some n | _ => none
  if terms.contains none || (infs.contains true && infs.contains false) then 0x7FC00000
  else
    match infs with
    | n :: _ => BitVec.ofNat 32 (fp32.signBit n + fp32.infCode)
    | [] =>
      let zero : W32 := if !ts.isEmpty && ts.all (fun t => t.sign && t.isZero) then 0x80000000 else 0
      let nz := ts.filter fun t => !t.isZero
      let tops := nz.map fun t => match t with | .fin _ m e => e + bitLen m - 1 | _ => 0
      match tops with
      | [] => zero
      | t0 :: r =>
        let g : Int := r.foldl max t0 - 39
        let sum : Int := nz.foldl (fun (acc : Int) t =>
          match t with
          | .fin n m e => acc + mxTrunc g n m e
          | _ => acc) 0
        if sum = 0 then zero else BitVec.ofNat 32 (fp32.round .rne false (sum < 0) sum.natAbs g).code

/-- One element of an FP32 pass (R272). -/
def mxDotF (a b : List FVal) (zc : Bool) (c : W32) : W32 :=
  let cv := fp32.decode c.toNat
  mxSum (List.zipWith mxTerm a b ++ (if zc then [] else [if cv.isNan then none else some cv]))
/-- One element of an integer pass (R273). -/
def mxDotI (a b : List Int) (zc : Bool) (c : W32) : W32 :=
  BitVec.ofInt 32 ((if zc then 0 else c.toInt) + (List.zipWith (fun x y => x * y) a b).sum)

/-- The result of a pass on one array (R278): rows of A, rows of B that stand for its columns, and the accumulator. -/
def mxPass (opc fn : Nat) (ra rb : List (List Byte)) (acc : List (List W32)) : List (List W32) :=
  let na := fn.testBit 0
  let nb := fn.testBit 1
  let zc := fn.testBit 2
  if mxInt opc then
    let ca := if opc = 0xA5 then fn / 16 % 8 + 4 else fn / 16 % 16
    let cb := if opc = 0xA5 then fn / 128 % 8 + 4 else fn / 256 % 8
    let eb := rb.map (mxRowI cb nb)
    List.zipWith (fun a row => let ea := mxRowI ca na a; List.zipWith (fun b c => mxDotI ea b zc c) eb row) ra acc
  else
    let eb := rb.map (mxRowF opc (fn / 256 % 8) nb)
    List.zipWith (fun a row =>
      let ea := mxRowF opc (fn / 16 % 16) na a; List.zipWith (fun b c => mxDotF ea b zc c) eb row) ra acc

/-- One element of MSCA (R279): scales, partial and target. -/
def mscaElem (sa sb : Nat) (int neg zc : Bool) (p t : W32) : W32 :=
  let pv : FVal := if int then
      let x : Int := if neg then -p.toInt else p.toInt
      .fin (x < 0) x.natAbs 0
    else (let v := fp32.decode p.toNat; if neg then v.neg else v)
  let tv := if zc then .fin false 0 0 else fp32.decode t.toNat
  let k : Int := (sa + sb : Nat) - (254 : Int)
  let scaled : FVal := match pv with | .fin n m e => .fin n m (e + k) | v => v
  if sa = 255 ∨ sb = 255 then 0x7FC00000 else BitVec.ofNat 32 (fAddV fp32 .rne tv scaled).code

/-- MSCA on one array (R279): `half` 1 takes the scales of columns 64 to 127. `rows` holds the scale words of lanes 0
to 63. -/
def mscaTile (fn : Nat) (int : Bool) (half : Nat) (rows : List (List Byte)) (p t : List (List W32)) :
    List (List W32) :=
  let byte (k : Nat) (r : List Byte) : Nat := (r[k]?.getD 0).toNat
  let sbs := rows.map (byte (1 + half))
  List.zipWith (fun (x : List Byte × List W32) trow =>
    List.zipWith (fun (y : Nat × W32) e => mscaElem (byte 0 x.1) y.1 int (fn.testBit 0) (fn.testBit 2) y.2 e)
      (sbs.zip x.2) trow) (rows.zip p) t

end Sys2Proof.Machine
end

