-- ==== Sys2Proof/Machine/Matrix.lean ====
section
/-! DEFINITION. The matrix engine (R259-R285): requests, their reservation table and arbitration, descriptors, wide
passes, relay tokens, MFENCE, MWAIT, MXSTAT. -/
namespace Sys2Proof.Machine

/-! ## Descriptors (R269) -/

/-- A scratchpad descriptor; `hi` holds the bits that must be zero. -/
structure Desc where
  base : Nat
  pitch : Nat
  rot : Nat
  tilePitch : Nat
  hi : Nat
deriving DecidableEq, Repr

/-- The descriptor in scalars n and n + 1. -/
def descOf (g : Group) (f : Frag) (n : Nat) : Desc :=
  let lo := (readS g f n).toNat
  let hi := (readS g f (n + 1)).toNat
  { base := lo % 2 ^ 20, pitch := lo / 2 ^ 20, rot := hi / 2 ^ 16 % 8, tilePitch := hi % 2 ^ 16, hi := hi / 2 ^ 19 }
/-- The operand that a descriptor names. -/
def Desc.src (d : Desc) : MxSrc := .tile d.base d.pitch d.rot d.tilePitch
/-- The lowest offset outside the cluster scratchpad that 64 rows of `n` bytes touch, if any. -/
def tileFar (base pitch rot n : Nat) : Option Nat :=
  if base + 63 * pitch * 16 + n ≤ 2 ^ 20 then none
  else
    match (mxOffsets base pitch rot n 64).filter fun o => 2 ^ 20 ≤ o with
    | [] => none
    | o :: r => some (r.foldl min o)

/-- A descriptor that a word checks: its scalar, the bytes of a row, whether a second tile is used (R271), and whether
ROT must be 0. -/
structure DescUse where
  n : Nat
  bytes : Nat
  second : Bool
  strict : Bool
deriving DecidableEq, Repr

/-- Check 1 of R269: ILLEGAL. -/
def DescUse.bad (u : DescUse) (g : Group) (f : Frag) : Bool :=
  let d := descOf g f u.n
  4 ≤ d.rot || d.hi != 0 || (u.strict && d.rot != 0)
/-- Check 2 of R269: ALIGN. DESIGN CHOICE (log 18): where both descriptors of a word fail it, A's is reported. -/
def DescUse.align (u : DescUse) (g : Group) (f : Frag) : Option (Nat × CauseRec) :=
  let d := descOf g f u.n
  if d.base % 128 = 0 then none else some (3, { eaddr := BitVec.ofNat 64 d.base, detail := 0 })
/-- The lower of two numbers, where there are any. -/
def minOpt : Option Nat → Option Nat → Option Nat
  | some x, some y => some (min x y)
  | some x, none => some x
  | none, y => y
/-- The lowest offset out of range that a descriptor's tiles touch. -/
def DescUse.far (u : DescUse) (g : Group) (f : Frag) : Option Nat :=
  let d := descOf g f u.n
  let one := tileFar d.base d.pitch d.rot u.bytes
  let two := if u.second then tileFar (d.base + d.tilePitch * 128) d.pitch d.rot u.bytes else none
  minOpt one two
/-- Check 3 of R269: SPACE, with the lowest offset out of range that the request would touch. -/
def spaceOf (us : List DescUse) (g : Group) (f : Frag) : Option (Nat × CauseRec) :=
  (us.foldl (fun m u => minOpt m (u.far g f)) none).map fun x => (4, { eaddr := BitVec.ofNat 64 x, detail := 0 })

/-! ## Issue of a request (R262, R268, R276) -/

/-- A long-latency word with no Enabled lane (R276): its flag rises and falls at once; at 63 it first waits. -/
def idleTrack (s : State) (gk : Nat) (g : Group) (f : Frag) (fs : Bool) : State :=
  match selFlag f fs with
  | none => s
  | some n => if 63 ≤ g.flag n then s.holdWord gk g f (.flagFull n) else s.setGroup gk (g.setFrag f.advance)

/-- What a request is: kind, index, whether it involves the follower's array, operands. -/
structure MxSpec where
  kind : MxKind
  idx : Nat
  wide : Bool
  a : MxSrc
  b : MxSrc
deriving DecidableEq, Repr

/-- The request that a word sends. -/
def mkReq (s : State) (gk : Nat) (g : Group) (x : MxSpec) : MxReq :=
  { uid := g.uid, unit := g.unit, tenant := g.tenant, core := coreOf gk, prio := g.prio, kind := x.kind, idx := x.idx
    a := x.a, b := x.b, wide := x.wide, issued := s.clock, stage := .sent, age := 0, taint := false, layout := none
    mxfault := none, dataerr := none, rowsA := [], rowsB := [] }

/-- A request word: its ILLEGAL checks (a register operand with FENCED = 0, bad descriptors, FN[3] on a follower core)
whether or not it acts; then, with a lane Enabled, the other checks of its descriptors; then the request is sent, its
flag is pending, and the fragment waits for acceptance. -/
def mxWord (i : Instr) (s : State) (o : FOp) (regOp fn3 : Bool) (us : List DescUse) (spec : Group → Frag → MxSpec) :
    State :=
  let illegal (_ : State) (gk : Nat) (g : Group) (f : Frag) : Bool :=
    (regOp && !g.fenced) || us.any (fun u => u.bad g f) || (fn3 && coreOf gk % 2 == 1)
  onWord i s illegal never fun gk g f =>
    if enabled g f o.guard = 0 then idleTrack s gk g f o.fs
    else
      let g0 := (s.group gk).getD g
      match us.findSome? fun u => u.align g f with
      | some c => takeTrap s gk g0 f [c]
      | none =>
        match spaceOf us g f with
        | some c => takeTrap s gk g0 f [c]
        | none =>
          match selFlag f o.fs with
          | none => s
          | some n =>
            if 63 ≤ g.flag n then s.holdWord gk g f (.flagFull n)
            else
              let id := s.nextUid
              let g' := (g.startOp id n f.id (.request id)).setFrag (f.waitFor (.accept id) s.clock)
              let s := { s.setGroup gk g' with nextUid := id + 1 }
              s.updCluster (clusterOf (coreOf gk)) fun c => { c with mx := Tab.put c.mx id (mkReq s gk g (spec g f)) }

/-- An operand in a register or under a descriptor. -/
def mxArg (g : Group) (f : Frag) (isS : Bool) (n : Nat) : MxSrc := if isS then (descOf g f n).src else .regs n
/-- The index of a B operand. -/
def bIdx (o : FOp) : Nat := match o.b with | .v n => n.toNat | .s n => n.toNat | .imm _ => 0
/-- FN of a matrix word. -/
def mxFn (o : FOp) : Nat := o.c.toNat

/-- A word of the MMA family (R278). -/
def mmaWord (i : Instr) (opc : Nat) (o : FOp) (s : State) : State :=
  let wide := (mxFn o).testBit 3
  let us := (if o.a.isS then [({ n := o.a.idx.toNat, bytes := 32, second := false, strict := false } : DescUse)] else [])
    ++ (if o.b.isS then [({ n := bIdx o, bytes := 32, second := wide, strict := false } : DescUse)] else [])
  mxWord i s o (!o.a.isS || !o.b.isS) wide us fun g f =>
    { kind := .mma opc (mxFn o), idx := o.d.toNat % 16, wide := wide, a := mxArg g f o.a.isS o.a.idx.toNat
      b := mxArg g f o.b.isS (bIdx o) }

/-- MMAH (R278). -/
def execMmah (o : FOp) (s : State) : Host.Outcome State Fault Refusal := .next (mmaWord (.mmah o) 0xA0 o s)
/-- MMAQ8 (R278). -/
def execMmaq8 (o : FOp) (s : State) : Host.Outcome State Fault Refusal := .next (mmaWord (.mmaq8 o) 0xA1 o s)
/-- MMAQ6 (R278). -/
def execMmaq6 (o : FOp) (s : State) : Host.Outcome State Fault Refusal := .next (mmaWord (.mmaq6 o) 0xA2 o s)
/-- MMAQ4 (R278). -/
def execMmaq4 (o : FOp) (s : State) : Host.Outcome State Fault Refusal := .next (mmaWord (.mmaq4 o) 0xA3 o s)
/-- MMAI8 (R278). -/
def execMmai8 (o : FOp) (s : State) : Host.Outcome State Fault Refusal := .next (mmaWord (.mmai8 o) 0xA4 o s)
/-- MMABFP (R278). -/
def execMmabfp (o : FOp) (s : State) : Host.Outcome State Fault Refusal := .next (mmaWord (.mmabfp o) 0xA5 o s)

/-- MSCA (R279). -/
def execMsca (o : FOp) (s : State) : Host.Outcome State Fault Refusal :=
  .next (mxWord (.msca o) s o true ((mxFn o).testBit 3) [] fun _ _ =>
    { kind := .msca (mxFn o) (o.x.getLsbD 0) (bIdx o % 16), idx := o.d.toNat % 16, wide := (mxFn o).testBit 3
      a := .regs o.a.idx.toNat, b := .none })
/-- MACCLD from registers (R280). -/
def execMaccld (o : FOp) (s : State) : Host.Outcome State Fault Refusal :=
  .next (mxWord (.maccld o) s o true ((mxFn o).testBit 3) [] fun _ _ =>
    { kind := .maccld (mxFn o % 8) ((mxFn o).testBit 3), idx := o.d.toNat % 16, wide := (mxFn o).testBit 3
      a := .regs o.a.idx.toNat, b := .none })
/-- MACCLD from a scratchpad tile (R280). -/
def execMaccldScratch (o : FOp) (s : State) : Host.Outcome State Fault Refusal :=
  .next (mxWord (.maccldScratch o) s o false ((mxFn o).testBit 3)
    [{ n := o.a.idx.toNat, bytes := 256, second := false, strict := true }] fun g f =>
    { kind := .maccld 0 ((mxFn o).testBit 3), idx := o.d.toNat % 16, wide := (mxFn o).testBit 3
      a := (descOf g f o.a.idx.toNat).src, b := .none })
/-- MACCST to registers (R280). -/
def execMaccst (o : FOp) (s : State) : Host.Outcome State Fault Refusal :=
  .next (mxWord (.maccst o) s o false ((mxFn o).testBit 3) [] fun _ _ =>
    { kind := .maccst (mxFn o % 8) ((mxFn o).testBit 3) (.regs o.d.toNat), idx := o.a.idx.toNat % 16
      wide := (mxFn o).testBit 3, a := .none, b := .none })
/-- MACCST to a scratchpad tile (R280). -/
def execMaccstScratch (o : FOp) (s : State) : Host.Outcome State Fault Refusal :=
  .next (mxWord (.maccstScratch o) s o false ((mxFn o).testBit 3)
    [{ n := o.d.toNat, bytes := 256, second := false, strict := true }] fun g f =>
    { kind := .maccst 0 ((mxFn o).testBit 3) (descOf g f o.d.toNat).src, idx := o.a.idx.toNat % 16
      wide := (mxFn o).testBit 3, a := .none, b := .none })

/-- The mask operand of MACCZ and MWAIT: the immediate, or scalar B. -/
def mxMask (o : FOp) (g : Group) (f : Frag) : Nat :=
  match o.b with
  | .imm x => x.toNat
  | _ => (readS g f (bIdx o)).toNat
/-- MACCZ (R280). On a follower core, which has no follower, bit 16 selects nothing. -/
def execMaccz (o : FOp) (s : State) : Host.Outcome State Fault Refusal :=
  .next (mxWord (.maccz o) s o false false [] fun g f =>
    let m := mxMask o g f
    let even := match selected s with | some x => coreOf x.1 % 2 == 0 | none => false
    { kind := .maccz (m % 2 ^ 16) (m.testBit 16), idx := 0, wide := m.testBit 16 && even, a := .none, b := .none })

/-- MFENCE (R281): with a lane Enabled it waits for its flags, then sets FENCED. Vector writes of fixed latency are made
as their words issue. -/
def execMfence (o : FOp) (s : State) : Host.Outcome State Fault Refusal :=
  .next (onWord (.mfence o) s never never fun gk g f =>
    let m := o.b.immVal.toNat % 2 ^ 12
    if enabled g f o.guard = 0 then s.setGroup gk (g.setFrag f.advance)
    else if g.flagsClear m then s.setGroup gk (({ g.passFlags m with fenced := true }).setFrag f.advance)
    else waitWord s gk g f (.mfence m))

/-! ## Acceptance (R260, R262, R271) -/

/-- Does a request hold an entry of the reservation table? -/
def MxStage.inTable (x : MxStage) : Bool :=
  match x with
  | .accepted _ => true
  | .running _ => true
  | _ => false
/-- Has a request not yet retired? -/
def MxStage.live (x : MxStage) : Bool :=
  match x with
  | .retired _ => false
  | _ => true
/-- Entries that a core's requests hold. -/
def ClusterSt.entries (c : ClusterSt) (core : Nat) : Nat :=
  (c.mx.filter fun x => x.2.core == core && x.2.stage.inTable).length
/-- Is an entry free for a core (R262): one of its own two, or one of the 24 shared? -/
def ClusterSt.hasEntry (c : ClusterSt) (cl core : Nat) : Bool :=
  c.entries core < 2 || ((List.range 4).map fun k => c.entries (4 * cl + k) - 2).sum < 24

/-- Does the array of a core admit a unit's own request (R260, R271)? -/
def ArraySt.admits (a : ArraySt) (u : UnitRef) : Bool :=
  match a.owner with
  | none => true
  | some w => w.unit == u && !w.follower
/-- Does an array admit a unit's wide request as a follower (R271)? -/
def ArraySt.admitsWide (a : ArraySt) (u : UnitRef) : Bool :=
  match a.owner with
  | none => true
  | some w => w.unit == u

/-- An array as its owner claims it: accumulators zero, counts at 0 (R260, R283). -/
def ArraySt.claim (a : ArraySt) (u : UnitRef) (follower : Bool) : ArraySt :=
  match a.owner with
  | some w => { a with owner := some { w with follower := w.follower || follower } }
  | none =>
    { a with owner := some { unit := u, follower := follower, wrote := [], last := 0 }, acc := [], bad := []
             passes := 0, tokwait := 0 }
/-- A wide request of a group, with its number, writes the follower's accumulators (R285). Requests may be accepted in
another order than that of their issue, which their numbers keep. -/
def ArraySt.wideWrites (a : ArraySt) (uid rq : Nat) (ms : List Nat) : ArraySt :=
  { a with owner := a.owner.map fun w =>
      { w with
        wrote := ms.foldl (fun l m => if l.contains m then l else l ++ [m]) w.wrote
        last := if w.lastRq ≤ rq then uid else w.last
        lastRq := max w.lastRq rq } }
/-- Change the array of a core. -/
def State.updArray (s : State) (core : Nat) (f : ArraySt → ArraySt) : State :=
  s.updCore core fun c => { c with array := f c.array }
/-- The arrays that a request involves. -/
def MxReq.arrays (r : MxReq) : List Nat := r.core :: (if r.wide then [r.core + 1] else [])
/-- A unit releases its arrays (R260, R271). -/
def State.releaseArrays (s : State) (u : UnitRef) : State :=
  { s with cores := s.cores.map fun (x : Nat × CoreSt) =>
      if (x.2.array.owner.any fun w => w.unit == u) = true then
        (x.1, { x.2 with array := { x.2.array with owner := none } })
      else x }
/-- Does a unit have a request in a reservation table (R285)? -/
def State.mxBusy (s : State) (u : UnitRef) : Bool :=
  s.clusters.any fun (c : Nat × ClusterSt) => c.2.mx.any fun x => x.2.unit == u && x.2.stage.inTable
/-- Requests that a test names are forgotten. -/
def State.dropReqs (s : State) (p : MxReq → Bool) : State :=
  { s with clusters := s.clusters.map fun (c : Nat × ClusterSt) =>
      (c.1, { c.2 with mx := c.2.mx.filter fun (x : Nat × MxReq) => !p x.2 }) }

/-- Does MACCST hold its flag until it retires (R265)? -/
def MxKind.isStore (k : MxKind) : Bool :=
  match k with
  | .maccst _ _ _ => true
  | _ => false
/-- The flag of a request's word falls, if it is still up. -/
def Group.endRequest (g : Group) (rq : Nat) : Group :=
  match g.ops.find? fun o => o.kind == .request rq with
  | some o => g.endOp o
  | none => g

/-- MATRIX_REQUEST_ACCEPT (R262): no sooner than 4 cycles after issue, with an entry free and the arrays admitting it. -/
def matrixAccept (s : State) (cl rq : Nat) : State :=
  match Tab.find (s.cluster cl).mx rq with
  | none => s
  | some r =>
    let ok := r.stage == .sent && r.issued + 4 ≤ s.clock && (s.cluster cl).hasEntry cl r.core
      && (s.core r.core).array.admits r.unit && (!r.wide || (s.core (r.core + 1)).array.admitsWide r.unit)
    if !ok then s
    else
      let s := s.updArray r.core fun a => a.claim r.unit false
      let s := if r.wide then s.updArray (r.core + 1) fun a =>
          (a.claim r.unit true).wideWrites r.uid rq ((r.dests.filter fun d => d.1 != r.core).map fun d => d.2)
        else s
      let id := s.nextUid
      let s := { s.updCluster cl fun c => { c with mx := Tab.put c.mx rq { r with stage := .accepted id } } with
                 nextUid := id + 1 }
      s.updUid r.uid fun g =>
        let g := { g with frags := g.frags.map fun f => if f.wait = .accept rq then f.advance else f }
        if r.kind.isStore then g else g.endRequest rq

/-- MATRIX_REQUEST_ACCEPT. -/
def execMatrixRequestAccept (cl rq : Nat) (s : State) : Host.Outcome State Fault Refusal := .next (matrixAccept s cl rq)

/-! ## Arbitration (R263-R265) -/

/-- Is a request a pass, which needs tokens (R265)? -/
def MxReq.isPass (r : MxReq) : Bool :=
  match r.kind with
  | .mma _ _ => true
  | _ => false
/-- The cycles for which a request occupies its arrays (R265). -/
def MxReq.occupancy (r : MxReq) : Nat :=
  let tile : Bool := match r.kind with
    | .maccld _ _ => (match r.a with | .tile _ _ _ _ => true | _ => false)
    | .maccst _ _ (.tile _ _ _ _) => true
    | _ => false
  match r.kind with
  | .mma opc fn => if opc = 0xA5 then max 1 (((fn / 16 % 8 + 2) * (fn / 128 % 8 + 2) + 7) / 8) else 4
  | .maccld _ _ => if tile then 128 else 8
  | .maccst _ _ _ => if tile then 128 else 8
  | _ => 4
/-- The order of acceptance. -/
def MxReq.order (r : MxReq) : Nat := match r.stage with | .accepted n => n | _ => 0
/-- Do requests accepted earlier leave a request's accumulators alone (R263)? -/
def ClusterSt.clear (c : ClusterSt) (r : MxReq) : Bool :=
  c.mx.all fun x =>
    match x.2.stage with
    | .accepted n => r.order ≤ n || !(x.2.accs.any fun m => r.accs.contains m)
    | .running _ => !(x.2.accs.any fun m => r.accs.contains m)
    | _ => true
/-- The time from which timing lets a request start: 8 cycles after issue, and its arrays not occupied. -/
def ClusterSt.freeFrom (c : ClusterSt) (r : MxReq) : Nat :=
  c.mx.foldl (fun (t : Nat) (x : Nat × MxReq) =>
    match x.2.stage with
    | .running e => if (x.2.arrays.any fun a => r.arrays.contains a) = true then max t e else t
    | _ => t) (r.issued + 8)
/-- Does an array hold a token that has passes left (R274)? -/
def ArraySt.mayPass (a : ArraySt) : Bool := a.token.isSome && a.passesHeld < 1024
/-- Is a request held by nothing but time and tokens? -/
def ClusterSt.waitsOnly (c : ClusterSt) (r : MxReq) : Bool :=
  (match r.stage with | .accepted _ => true | _ => false) && c.clear r
/-- Does a request have the tokens it needs? -/
def State.hasTokens (s : State) (r : MxReq) : Bool := !r.isPass || r.arrays.all fun a => (s.core a).array.mayPass
/-- The ready requests that involve an array (R264): those of its core, and the wide ones of its leader. -/
def State.mxReady (s : State) (core : Nat) : List (Nat × MxReq) :=
  let c := s.cluster (clusterOf core)
  c.mx.filter fun x => x.2.arrays.contains core && c.waitsOnly x.2 && c.freeFrom x.2 ≤ s.clock && s.hasTokens x.2
/-- Is one ready request chosen before another (R264)? -/
def MxReq.before (a b : MxReq) : Bool :=
  let rank (r : MxReq) : Nat := (if 64 ≤ r.age then 2 ^ 20 else 0) + r.prio * 2 ^ 10 + r.age
  rank b < rank a || (rank a == rank b && a.order < b.order)

/-! ## Operand reads (R266, R267, R270, R284) -/

/-- What an operand read gives: rows, and the marks it leaves. -/
structure MxRead where
  rows : List (List Byte)
  fault : Option W64
  layout : Option W64
  dataerr : Option W64
  guardKey : Option Nat

/-- Rows of a register operand: lanes 0 to 63, `k` registers each, low byte first. -/
def readRegRows (g : Group) (n k : Nat) : List (List Byte) :=
  (List.range 64).map fun r => leBytes (4 * k) (readVk g n r k)
/-- Does a register operand hold a word with an uncorrectable error (R284)? -/
def Group.badRows (g : Group) (n k : Nat) : Bool :=
  g.regs.bad.any fun w => w < 2 ^ 20 && n ≤ w / 96 && w / 96 < n + k && w % 96 < 64
/-- Rows of a scratchpad operand. DESIGN CHOICE (log 49): a guard granule is reported (R144) also where its page does not
permit the read, which marks the request MXFAULT (R284). `rep` is the BASE of its descriptor, which LAYOUT and MXFAULT report (R282). -/
def readTile (s : State) (cl tenant : Nat) (u : UnitRef) (base pitch rot n rep : Nat) : MxRead :=
  let key (o : Nat) : Nat := scratchKey cl o
  let os := mxOffsets base pitch rot n 64
  let granules := (os.map fun o => o / 128).eraseDups
  let mark (b : Bool) : Option W64 := if b then some (BitVec.ofNat 64 rep) else none
  { rows := (List.range 64).map fun r => (List.range n).map fun j =>
      let k := key (mxPhys base pitch rot r j)
      if s.guarded k then 0 else Memory.read s.scratch k
    fault := mark (granules.any fun x => !s.mayReach tenant u (key (128 * x)))
    layout := mark (granules.any fun x => Tab.get 0 s.tags (key (128 * x) / 128) != rot)
    dataerr := (os.find? fun o => s.badScratch (key o)).map fun o => BitVec.ofNat 64 o
    guardKey := (os.find? fun o => s.guarded (key o)).map key }
/-- Read one operand of a request. The manual gives a failed register no address, and that of its DATAERR is a free value. -/
def State.mxOperand (s : State) (cl : Nat) (r : MxReq) (x : MxSrc) (n : Nat) : MxRead :=
  match x with
  | .none => { rows := [], fault := none, layout := none, dataerr := none, guardKey := none }
  | .regs v =>
    (match s.byUid r.uid with
    | some g =>
      { rows := readRegRows g v r.kind.regs, fault := none, layout := none, guardKey := none
        dataerr := if g.badRows v r.kind.regs then some (Config.freeWord s.freeCtr 2 ++ Config.freeWord s.freeCtr 3)
          else none }
    | none => { rows := [], fault := none, layout := none, dataerr := none, guardKey := none })
  | .tile base pitch rot _ => readTile s cl r.tenant r.unit base pitch rot n base
/-- The second tile of a wide pass (R271). -/
def State.mxSecond (s : State) (cl : Nat) (r : MxReq) : MxRead :=
  match r.kind, r.b with
  | .mma _ _, .tile base pitch rot tp =>
    if r.wide then readTile s cl r.tenant r.unit (base + tp * 128) pitch rot 32 base else s.mxOperand cl r .none 0
  | _, _ => s.mxOperand cl r .none 0

/-- The accumulators that a request reads: C of a pass, partial and target of MSCA, the source of MACCST. -/
def MxReq.reads (r : MxReq) : List (Nat × Nat) :=
  match r.kind with
  | .mma _ fn => if fn.testBit 2 then [] else r.accs
  | .msca fn _ _ => if fn.testBit 2 then r.accs.filter fun m => !r.dests.contains m else r.accs
  | .maccst _ _ _ => r.accs
  | _ => []
/-- The elements of an accumulator that a request reads, by 64 * row + column: MACCST to registers reads a slab's eight
columns (R280). -/
def MxReq.readsElem (r : MxReq) (e : Nat) : Bool :=
  match r.kind with
  | .maccst j _ (.regs _) => e % 64 / 8 == j
  | _ => true
/-- Does a request read an element of an accumulator that has an uncorrectable error (R284)? -/
def State.badAcc (s : State) (r : MxReq) (m : Nat × Nat) : Bool :=
  (s.core m.1).array.bad.any fun e => e / 4096 == m.2 && r.readsElem (e % 4096)

/-- A request starts on its array (R264): its operands are read and its marks set. -/
def State.mxBegin (s : State) (cl rq : Nat) (r : MxReq) : State :=
  let a := s.mxOperand cl r r.a r.kind.rowBytes
  let b := s.mxOperand cl r r.b 32
  let b2 := s.mxSecond cl r
  let ends := s.clock + r.occupancy
  let accErr := if r.reads.any (s.badAcc r) then
      some (Config.freeWord (s.freeCtr + 1) 0 ++ Config.freeWord (s.freeCtr + 1) 1 : W64) else none
  let r' := { r with
    stage := .running ends, rowsA := a.rows, rowsB := b.rows ++ b2.rows
    layout := a.layout <|> b.layout <|> b2.layout, mxfault := a.fault <|> b.fault <|> b2.fault
    dataerr := a.dataerr <|> b.dataerr <|> b2.dataerr <|> accErr }
  let s := s.updCluster cl fun c => { c with mx := Tab.put c.mx rq r' }
  let s := if r.isPass then r.arrays.foldl (fun (s : State) x => s.updArray x fun y =>
      { y with passesHeld := y.passesHeld + 1, idleSince := ends }) s else s
  let s := match a.guardKey <|> b.guardKey <|> b2.guardKey with
    | some k => s.updUid r.uid fun g => g.touchGuard k
    | none => s
  s.used.used

/-- The ready request that an array's arbiter chooses (R264). -/
def State.mxFirst (s : State) (core : Nat) : Option (Nat × MxReq) :=
  (s.mxReady core).foldl (fun (best : Option (Nat × MxReq)) (x : Nat × MxReq) =>
    match best with
    | none => some x
    | some y => if x.2.before y.2 then some x else some y) none
/-- MATRIX_REQUEST_START (R264): the array starts its first ready request, and the others that were ready for an array which
now starts this one age. A wide request starts once it is first at both its arrays (R271). -/
def matrixStart (s : State) (core : Nat) : State :=
  let cl := clusterOf core
  match s.mxFirst core with
  | none => s
  | some (rq, r) =>
    if r.arrays.all fun a => (s.mxFirst a).any fun x => x.1 == rq then
      let ready := r.arrays.flatMap s.mxReady
      let s := s.updCluster cl fun c => { c with mx := c.mx.map fun (x : Nat × MxReq) =>
        if (x.1 != rq && ready.any fun y => y.1 == x.1) = true then (x.1, { x.2 with age := min 64 (x.2.age + 1) }) else x }
      s.mxBegin cl rq r
    else s

/-- MATRIX_REQUEST_START. -/
def execMatrixRequestStart (core : Nat) (s : State) : Host.Outcome State Fault Refusal := .next (matrixStart s core)

/-! ## Retirement (R265, R272, R273, R278-R280) -/

/-- An accumulator that is zero. -/
def zeroRows : List (List W32) := List.replicate 64 (List.replicate 64 0)
/-- An accumulator of an array. -/
def ArraySt.rows (a : ArraySt) (m : Nat) : List (List W32) := Tab.get zeroRows a.acc m
/-- Write an accumulator; the errors of the elements (64 * row + column) that are written end. -/
def State.setAcc (s : State) (core m : Nat) (rows : List (List W32)) (written : Nat → Bool) : State :=
  s.updArray core fun a =>
    { a with acc := Tab.set zeroRows a.acc m rows, bad := a.bad.filter fun e => e / 4096 != m || !written (e % 4096) }
/-- The elements of a destination accumulator that a request writes (R280): a slab's eight columns, or all. -/
def MxReq.writes (r : MxReq) (e : Nat) : Bool :=
  match r.kind, r.a with
  | .maccld j _, .regs _ => e % 64 / 8 == j
  | _, _ => true
/-- Eight columns of a row replaced (R280). -/
def slabRow (j : Nat) (new : List W32) (row : List W32) : List W32 := row.take (8 * j) ++ new ++ row.drop (8 * j + 8)
/-- The 32-bit words of bytes. -/
def wordsLe (bs : List Byte) (n : Nat) : List W32 :=
  (List.range n).map fun c => BitVec.ofNat 32 (leNat ((bs.drop (4 * c)).take 4))

/-- The new value of a destination accumulator on one array; `half` is 1 on the follower's. -/
def State.mxResult (s : State) (r : MxReq) (core half : Nat) : List (List W32) :=
  let a := (s.core core).array
  let old := a.rows r.idx
  match r.kind with
  | .mma opc fn => mxPass opc fn r.rowsA ((r.rowsB.drop (64 * half)).take 64) old
  | .msca fn int p => mscaTile fn int half r.rowsA (a.rows p) old
  | .maccld j _ =>
    (match r.a with
    | .regs _ => List.zipWith (fun bs row => slabRow j (wordsLe bs 8) row) r.rowsA old
    | _ => r.rowsA.map fun bs => wordsLe bs 64)
  | _ => zeroRows

/-- MACCST writes its slab to registers (R280); an element with an error leaves a free value. -/
def State.storeSlab (s : State) (r : MxReq) (core j n : Nat) : State :=
  let a := (s.core core).array
  let rows := a.rows r.idx
  let ws := (rows.zip (List.range 64)).flatMap fun (x : List W32 × Nat) =>
    (((x.1.drop (8 * j)).take 8).zip (List.range 8)).map fun (y : W32 × Nat) =>
      let e := 64 * x.2 + 8 * j + y.2
      (n + y.2, x.2, if a.bad.contains (4096 * r.idx + e) then Config.freeWord s.freeCtr e else y.1)
  let s := (s.updUid r.uid fun g => { g with regs := writeVs g.regs ws }).used
  match s.slotOf r.uid with
  | some gk => s.taintV gk ((List.range 8).map fun k => n + k)
  | none => s

/-- MACCST writes its accumulator to scratchpad (R280): refused bytes are discarded and mark the request, guard bytes
are discarded and reported. -/
def State.storeTile (s : State) (cl : Nat) (r : MxReq) (core base pitch : Nat) : State × Option W64 :=
  let a := (s.core core).array
  let ctr := s.freeCtr
  let words := ((a.rows r.idx).zip (List.range 64)).flatMap fun (x : List W32 × Nat) =>
    (x.1.zip (List.range 64)).map fun (y : W32 × Nat) =>
      let e := 64 * x.2 + y.2
      (scratchKey cl (mxPhys base pitch 0 x.2 (4 * y.2)),
       if a.bad.contains (4096 * r.idx + e) then Config.freeWord ctr e else y.1)
  words.foldl (fun (acc : State × Option W64) (w : Nat × W32) =>
    let s := acc.1
    if !s.mayReach r.tenant r.unit w.1 then (s, some (BitVec.ofNat 64 base))
    else
      let s := if s.guarded w.1 then s.updUid r.uid fun g => g.touchGuard w.1 else s
      (s.bankWrite w.1 (leBytes 4 w.2.toNat) 0, acc.2)) (s.used, none)

/-- What a request does as it retires. -/
def State.mxFinish (s : State) (cl : Nat) (r : MxReq) : State × MxReq :=
  match r.kind with
  | .maccst j follower dst =>
    let core := if follower then r.core + 1 else r.core
    (match dst with
    | .regs n => (s.storeSlab r core j n, r)
    | .tile base pitch _ _ =>
      let x := s.storeTile cl r core base pitch
      (x.1, { r with mxfault := r.mxfault <|> x.2 })
    | .none => (s, r))
  | _ =>
    let spoiled := r.taint || r.layout.isSome || r.mxfault.isSome || r.dataerr.isSome
    let new := r.dests.map fun d => (d, s.mxResult r d.1 (d.1 - r.core))
    let s := (new.foldl (fun (s : State) x =>
      s.setAcc x.1.1 x.1.2 (if spoiled then freeRows s.freeCtr x.1.2 else x.2) r.writes) s).used
    let s := if r.isPass then r.arrays.foldl (fun (s : State) c =>
        s.updArray c fun a => { a with passes := a.passes + 1 }) s else s
    (s, r)

/-- MATRIX_REQUEST_RETIRE (R265): 20 cycles after its occupancy ends, a request writes its results and frees its entry;
MACCST's flag falls. -/
def matrixRetire (s : State) (cl rq : Nat) : State :=
  match Tab.find (s.cluster cl).mx rq with
  | none => s
  | some r =>
    match r.stage with
    | .running ends =>
      if s.clock < ends + 20 then s
      else
        let x := s.mxFinish cl r
        let r' := { x.2 with stage := .retired s.clock, rowsA := [], rowsB := [] }
        let s := x.1.updCluster cl fun c => { c with mx := Tab.put c.mx rq r' }
        if r.kind.isStore then s.updUid r.uid fun g => g.endRequest rq else s
    | _ => s

/-- MATRIX_REQUEST_RETIRE. -/
def execMatrixRequestRetire (cl rq : Nat) (s : State) : Host.Outcome State Fault Refusal := .next (matrixRetire s cl rq)

/-! ## MWAIT and MXSTAT (R282, R283) -/

/-- Is a request's index in a mask? -/
def MxReq.inMask (r : MxReq) (mask : Nat) : Bool :=
  match r.kind with
  | .maccz m _ => m &&& mask != 0
  | _ => mask.testBit r.idx

/-- The requests of every cluster, by number. A group that was swapped out may have requests in a cluster it has left. -/
def State.allReqs (s : State) : List (Nat × MxReq) := s.clusters.flatMap fun (c : Nat × ClusterSt) => c.2.mx
/-- Requests, by number, are forgotten. -/
def State.forgetReqs (s : State) (rqs : List Nat) : State :=
  { s with clusters := s.clusters.map fun (c : Nat × ClusterSt) =>
      (c.1, { c.2 with mx := c.2.mx.filter fun (x : Nat × MxReq) => !rqs.contains x.1 }) }

/-- MWAIT (R282): it covers the group's requests so far whose index is in its mask. -/
def execMwait (o : FOp) (s : State) : Host.Outcome State Fault Refusal :=
  .next (onWord (.mwait o) s never never fun gk g f =>
    if enabled g f o.guard = 0 then idleTrack s gk g f o.fs
    else
      let mask := mxMask o g f % 2 ^ 16
      let covers := (s.allReqs.filter fun (x : Nat × MxReq) => x.2.uid == g.uid && x.2.inMask mask).map fun x => x.1
      trackWord s gk g f o.fs (.mwait o.d.toNat mask covers))

/-- The requests that an MWAIT reports: those it covers and no earlier MWAIT of the group does. -/
def Group.matching (g : Group) (o : Op) (covers : List Nat) : List Nat :=
  covers.filter fun rq => !((g.opsBefore o.id).any fun e =>
    match e.kind with
    | .mwait _ _ c => c.contains rq
    | _ => false)

/-- The record of a mark over some requests: the lowest marked accumulator and its address. -/
def markRec (rs : List MxReq) (mark : MxReq → Option W64) : Option CauseRec :=
  (rs.foldl (fun (best : Option MxReq) r =>
    if (mark r).isNone then best
    else
      match best with
      | none => some r
      | some b => if r.idx < b.idx then some r else some b) none).map fun r =>
    { eaddr := (mark r).getD 0, detail := r.idx }
/-- The accumulators of marked requests, as a mask. -/
def markMask (rs : List MxReq) (mark : MxReq → Bool) : Nat :=
  ((List.range 16).filter fun m => rs.any fun r => mark r && r.idx == m).foldl (fun a m => a + 2 ^ m) 0
/-- Record a cause where there is a record of it. -/
def Group.recordOpt (g : Group) (c : Nat) (r : Option CauseRec) : Group :=
  match r with
  | none => g
  | some x => g.record c x
/-- The causes that marked requests record: LAYOUT, DATAERR, MXFAULT (R115). -/
def Group.recordMarks (g : Group) (rs : List MxReq) : Group :=
  ((g.recordOpt 7 (markRec rs fun r => r.layout)).recordOpt 11 (markRec rs fun r => r.dataerr)).recordOpt 16
    (markRec rs fun r => r.mxfault)

/-- MWAIT_COMPLETE (R282): 4 cycles after the last covered request has retired; at once where it covers none. -/
def mwaitComplete (s : State) (gk op : Nat) : State :=
  match s.group gk with
  | none => s
  | some g =>
    match g.op op with
    | none => s
    | some o =>
      match o.kind with
      | .mwait d _ covers =>
        let ready := (s.allReqs.filter fun (x : Nat × MxReq) => covers.contains x.1).all fun x =>
          match x.2.stage with
          | .retired t => t + 4 ≤ s.clock
          | _ => false
        if !ready then s
        else
          let mine := g.matching o covers
          let rs := (s.allReqs.filter fun (x : Nat × MxReq) => mine.contains x.1).map fun x => x.2
          let rep := markMask rs (fun r => r.layout.isSome)
            + 2 ^ 16 * markMask rs fun r => r.mxfault.isSome || r.dataerr.isSome
          let g := (g.recordMarks rs).endOp o
          let g := g.writeLate s.clock o.frag (o.vals s.freeCtr [(d, BitVec.ofNat 32 rep)])
          (s.setGroup gk g).forgetReqs mine
      | _ => s

/-- MWAIT_COMPLETE. -/
def execMwaitComplete (gk op : Nat) (s : State) : Host.Outcome State Fault Refusal := .next (mwaitComplete s gk op)

/-- MXSTAT (R283). -/
def execMxstat (o : FOp) (s : State) : Host.Outcome State Fault Refusal :=
  .next (onWord (.mxstat o) s never never fun gk g f =>
    if enabled g f o.guard = 0 then idleTrack s gk g f o.fs
    else trackWord s gk g f o.fs (.mxstat o.d.toNat (o.b.immVal.toNat % 4) s.clock))

/-- A bit as a number. -/
def bitOf (b : Bool) : Nat := if b then 1 else 0
/-- The status that MXSTAT samples (R283). DESIGN CHOICE (log 49): LENT is 1 on an array that is claimed as follower also where
the core's own slalom grid holds the claim, through the leader's core. -/
def State.mxstat (s : State) (gk : Nat) (g : Group) (sel : Nat) : Nat :=
  let core := coreOf gk
  let cl := clusterOf core
  let a := (s.core core).array
  let held (p : MxReq → Bool) : Nat := ((s.cluster cl).mx.filter fun x => x.2.stage.inTable && p x.2).length
  match sel with
  | 0 =>
    let mine := a.owner.any fun w => w.unit == g.unit
    let wide := s.cores.any fun (c : Nat × CoreSt) => c.2.array.owner.any fun w => w.unit == g.unit && w.follower
    let lent := a.owner.any fun w => w.follower
    bitOf mine + 2 * bitOf a.token.isSome + 4 * bitOf wide + 8 * bitOf lent
      + 16 * held (fun _ => true) + 1024 * held fun r => r.uid == g.uid
  | 1 => a.passes.toNat
  | 2 => a.tokwait.toNat
  | _ =>
    let owned := ((s.die (dieOf core)).tokens.filter fun t => t.2.part == some g.part).length
    let tokens := ((List.range 4).filter fun k => (s.core (4 * cl + k)).array.token.isSome).length
    tokens + 256 * owned

/-- MXSTAT_COMPLETE (R283): 4 cycles after issue. -/
def mxstatComplete (s : State) (gk op : Nat) : State :=
  match s.group gk with
  | none => s
  | some g =>
    match g.op op with
    | none => s
    | some o =>
      match o.kind with
      | .mxstat d sel issued =>
        if s.clock < issued + 4 then s
        else
          let v := BitVec.ofNat 32 (s.mxstat gk g sel)
          s.setGroup gk ((g.writeLate s.clock o.frag (o.vals s.freeCtr [(d, v)])).endOp o)
      | _ => s

/-- MXSTAT_COMPLETE. -/
def execMxstatComplete (gk op : Nat) (s : State) : Host.Outcome State Fault Refusal := .next (mxstatComplete s gk op)

/-! ## The relay ring (R274, R275) -/

/-- Does a pass lack only tokens, from a time on? -/
def State.lacksToken (s : State) (cl : Nat) (r : MxReq) : Bool :=
  r.isPass && (s.cluster cl).waitsOnly r && !s.hasTokens r
/-- The reserved partition, formed, that holds a cluster (R275). -/
def State.reservedOf (s : State) (cl : Nat) : Option Nat :=
  (s.parts.find? fun p => p.2.hasCluster cl && p.2.reserved && p.2.formed.isSome).map fun p => p.1
/-- The array of a cluster that captures a token at its position: the one with the oldest pass that lacks only a token,
among arrays that hold none. -/
def State.capturer (s : State) (cl : Nat) : Option Nat :=
  let c := s.cluster cl
  let passes := c.mx.filter fun x => s.lacksToken cl x.2 && c.freeFrom x.2 ≤ s.clock
  let cands := passes.flatMap fun (x : Nat × MxReq) =>
    (x.2.arrays.filter fun a => (s.core a).array.token.isNone).map fun a => (x.2.order, a)
  (cands.foldl (fun (best : Option (Nat × Nat)) y =>
    match best with
    | none => some y
    | some b => if y.1 < b.1 then some y else some b) none).map fun y => y.2

/-- RELAY_TOKEN_MOVE (R274): a free token moves one position every 12 cycles, where a cluster that may use it (R275) captures it. -/
def relayMove (s : State) (die tok : Nat) : State :=
  match Tab.find (s.die die).tokens tok with
  | none => s
  | some t =>
    if t.holder.isSome || s.clock < t.since + 12 then s
    else
      let pos := (t.pos + 1) % 12
      let cl := 12 * die + pos
      let taker := if s.liveCl.contains cl && s.reservedOf cl == t.part then s.capturer cl else none
      let s := s.updDie die fun d => { d with tokens := Tab.put d.tokens tok { t with pos := pos, since := t.since + 12, holder := taker } }
      match taker with
      | none => s
      | some core => s.updArray core fun a =>
          { a with token := some tok, passesHeld := 0, idleSince := s.clock }

/-- RELAY_TOKEN_MOVE. -/
def execRelayTokenMove (die tok : Nat) (s : State) : Host.Outcome State Fault Refusal := .next (relayMove s die tok)

/-- An array lets its token go; it moves on from the cluster's position. -/
def State.releaseToken (s : State) (core : Nat) : State :=
  match (s.core core).array.token with
  | none => s
  | some tok =>
    let s := s.updArray core fun a => { a with token := none, passesHeld := 0 }
    s.updDie (dieOf core) fun d => { d with tokens := Tab.upd d.tokens tok fun (t : Token) => { t with since := s.clock, holder := none } }

/-- TOKEN_RELEASE_PASSES (R274): the occupancy of the 1024th pass has ended. -/
def execTokenReleasePasses (core : Nat) (s : State) : Host.Outcome State Fault Refusal :=
  let a := (s.core core).array
  .next (if 1024 ≤ a.passesHeld ∧ a.idleSince ≤ s.clock then s.releaseToken core else s)
/-- TOKEN_RELEASE_IDLE (R274): 64 cycles with no accepted pass whose occupancy has not ended. -/
def execTokenReleaseIdle (core : Nat) (s : State) : Host.Outcome State Fault Refusal :=
  let a := (s.core core).array
  let waiting := (s.cluster (clusterOf core)).mx.any fun x =>
    x.2.isPass && x.2.arrays.contains core && (match x.2.stage with | .accepted _ => true | _ => false)
  .next (if a.idleSince + 64 ≤ s.clock ∧ !waiting then s.releaseToken core else s)

/-- Cycles in which a pass of an array lacks only a token are counted as they go by (R283, TOKWAIT). -/
def State.countTokwait (s : State) (dt : Nat) : State :=
  s.clusters.foldl (fun (s : State) (c : Nat × ClusterSt) =>
    if c.2.mx = [] then s
    else
      (List.range 4).foldl (fun (s : State) k =>
        let core := 4 * c.1 + k
        let n := (c.2.mx.filter fun x => x.2.arrays.contains core && s.lacksToken c.1 x.2).foldl
          (fun (n : Nat) (x : Nat × MxReq) => max n (s.clock + dt - max s.clock (c.2.freeFrom x.2))) 0
        if n = 0 then s
        else s.updArray core fun a => { a with tokwait := BitVec.ofNat 32 (min 0xFFFFFFFF (a.tokwait.toNat + n)) }) s) s

/-! ## The end of a group or a unit -/

/-- Have a group's requests retired? -/
def State.groupMxDone (s : State) (uid : Nat) : Bool :=
  s.clusters.all fun (c : Nat × ClusterSt) => c.2.mx.all fun x => x.2.uid != uid || !x.2.stage.live
/-- Requests of a group that are marked and that no MWAIT has covered. -/
def State.marked (s : State) (uid : Nat) : List MxReq :=
  (s.clusters.flatMap fun (c : Nat × ClusterSt) => c.2.mx.map fun x => x.2).filter fun r =>
    r.uid == uid && (r.layout.isSome || r.mxfault.isSome || r.dataerr.isSome)
/-- As a group leaves, its retired requests are forgotten; marked ones go to the error record (R282, R437 kind 2). -/
def State.closeRequests (s : State) (core : Nat) (g : Group) : State :=
  let rec1 (s : State) (r : MxReq) (cause : Nat) (ea : Option W64) : State :=
    match ea with
    | none => s
    | some a =>
      s.faultLog g.tenant { kind := 2, cause := cause, part := g.part, gridid := s.gridIdOf g, unit := g.unitNo, core := core
                            epc := g.trap.epc.toNat, eaddr := a.toNat, einfo := 2 ^ 24 * cause + r.idx }
  let s := (s.marked g.uid).foldl (fun (s : State) r =>
    rec1 (rec1 (rec1 s r 7 r.layout) r 11 r.dataerr) r 16 r.mxfault) s
  s.dropReqs fun r => r.uid == g.uid
/-- A group of a team retires (R129): what it used is noted in its team, its uncovered marks are recorded. -/
def State.endTeamGroup (s : State) (gk : Nat) (g : Group) (tk : Nat) : State :=
  let s := s.updTeam tk fun t => { t with usedMatrix := t.usedMatrix || g.usedMx }
  (s.closeRequests (coreOf gk) g).retireTeamGroup gk g tk
/-- The follower accumulators that a captured unit's wide requests wrote are lost: MXFAULT is recorded in the group that
last issued one (R285). -/
def State.loseFollower (s : State) (u : UnitRef) : State :=
  s.cores.foldl (fun (s : State) (c : Nat × CoreSt) =>
    match c.2.array.owner with
    | some w =>
      if w.unit = u ∧ w.follower ∧ w.wrote ≠ [] then
        s.updUid w.last fun g => g.record 16 { eaddr := 0, detail := w.wrote.foldl min 15 }
      else s
    | none => s) s

end Sys2Proof.Machine
end

