-- ==== Sys2Proof/Machine/Owner.lean ====
section
/-! DEFINITION. Writes of management registers by the owner (R429, R431). -/
namespace Sys2Proof.Machine

/-- A discarded write is counted in IGNWR, which saturates (R429, R433). -/
def State.ignore (s : State) : State := s.updFe fun f => { f with ignWr := min 0xFFFFFFFF (f.ignWr + 1) }
/-- Is a master the owner? -/
def State.isOwner (s : State) (m : Nat) : Bool := m < 4 && s.fe.owner == m
/-- A write by the owner restarts its lease (R431). -/
def State.renewLease (s : State) : State := s.updFe fun f => { f with leaseFrom := s.clock }
/-- Is the package in recovery (R474)? Then no queue, launch or management command is served. -/
def State.recovering (s : State) : Bool := s.plat.bootMode == 2
/-- A value with `n` bytes from byte `k` replaced. -/
def mergeBytes (old k n new : Nat) : Nat :=
  old % 2 ^ (8 * k) + new % 2 ^ (8 * n) * 2 ^ (8 * k) + old / 2 ^ (8 * (k + n)) * 2 ^ (8 * (k + n))
/-- The bits that a command register of R433 holds, GO among them: what is written to the others is ignored, and they read
0 (R8). -/
def rawMask (base : Nat) : Nat :=
  match base with
  | 0x0C0 => 2 ^ 31 + 0x7FFC3 + (2 ^ 256 - 1) * 2 ^ 64
  | 0x120 => 2 ^ 31 + (2 ^ 96 - 1) * 2 ^ 32
  | 0x140 => 2 ^ 31 + 0xFF + (2 ^ 256 - 1) * 2 ^ 64
  | 0x180 => 2 ^ 31 + 7 + (2 ^ 512 - 1) * 2 ^ 64
  | 0x200 => 2 ^ 31 + 0x3F07 + (2 ^ 64 - 1) * 2 ^ 64
  | _ => 2 ^ 128 - 1
/-- The bytes of a command register, as last written. -/
def State.rawReg (s : State) (base n : Nat) : Nat := leNat (Memory.readN s.fe.raw base n)
/-- A command register of `len` bytes takes a value. -/
def State.holdRaw (s : State) (base len v : Nat) : State :=
  s.updFe fun f => { f with raw := Memory.writeN f.raw base (leBytes len (v &&& rawMask base)) }
/-- Is a write that reaches the acting byte kept? One with GO of MEASEXT or DBGCTL and another INDEX or OP is discarded
(R433), and so is one of TLBINV with SCOPE 3 (R457). -/
def rawTakes (base v : Nat) : Bool :=
  match base with
  | 0x090 => v % 4 != 3
  | 0x180 => !v.testBit 31 || 4 ≤ v % 8
  | 0x200 => !v.testBit 31 || (1 ≤ v % 8 && v % 8 ≤ 4)
  | _ => true
/-- A command register that takes its bytes as they are last written: the write reaches bytes `k` to `k + n - 1`. It acts
where that holds its byte `go`. A write of BIASFLIP while a flip runs is discarded and counted (R467). -/
def State.rawWrite (s : State) (base len k n v go : Nat) (act : State → Nat → State) : State :=
  let new := mergeBytes (s.rawReg base len) k n v
  if base = 0x078 ∧ s.fe.flip.isSome = true then s.ignore
  else if k ≤ go ∧ go < k + n then
    (if rawTakes base new = false then s else act (s.holdRaw base len new) new)
  else s.holdRaw base len new
/-- A write to a register marked O (R429): from another master it is discarded and counted. -/
def State.asOwner (s : State) (m : Nat) (act : State → State) : State :=
  if s.recovering then s else if s.isOwner m then act s.renewLease else s.ignore

end Sys2Proof.Machine
end

