-- ==== Sys2Proof/Machine/Store.lean ====
section
/-! DEFINITION. The store engine (R327, R336-R358): layer power, interleave regions, residency contracts, key-value
reserves, XPOSE and STQRY. -/
namespace Sys2Proof.Machine

/-! ## The store words (R339, R340) -/

/-- A store word: held by a FENCE or its full flag (R56, R179); with no Enabled lane its flag rises and falls. -/
def storeWord (i : Instr) (s : State) (o : MOp) (run : Nat → Group → Group → Frag → State) : State :=
  onWord i s never never fun gk g f =>
    match memHold g f (some o.fs) with
    | some w => waitWord s gk g f w
    | none =>
      if enabled g f o.guard = 0 then idleTrack s gk g f o.fs else s.orWait (run gk g ((s.group gk).getD g) f)

/-- The pointer in the word's scalar pair A. -/
def ptrA (g : Group) (f : Frag) (o : MOp) : W64 := readS64 g f o.a.idx.toNat
/-- Scalar writes of 32-bit values from register `d`. -/
def scalarsAt (d : Nat) (xs : List Nat) : List (Nat × W32) :=
  ((List.range xs.length).zip xs).map fun x => (d + x.1, BitVec.ofNat 32 x.2)
/-- A word whose results are decided: its scalars are written at its completion. -/
def decided (s : State) (gk : Nat) (g : Group) (f : Frag) (fs : Bool) (d : Nat) (xs : List Nat) (acq : Bool := false) :
    State :=
  trackWord s gk g f fs (.scalars (scalarsAt d xs) acq)
/-- A fault of a scalar pointer (R117): detail bits beyond the lane, which is 0. -/
def ptrCause (f : AccFault) (p : W64) : Nat × CauseRec := (f.cause, { eaddr := p, detail := f.detail })

/-- An outstanding word of scalar results completes: they are written, an acquire acts, its flag falls. -/
def endScalars (s : State) (gk : Nat) (g : Group) (o : Op) (ws : List (Nat × W32)) (acq : Bool) : State :=
  let s := s.setGroup gk ((g.writeLate s.clock o.frag (o.vals s.freeCtr ws)).endOp o)
  if acq then s.acquireAction (coreOf gk) g.asid else s

/-- The pointer of the first byte of a block, read at home addresses from a pointer, that meets an error. -/
def State.badByte (s : State) (p : W64) (as : List Nat) : Option W64 :=
  (((List.range as.length).zip as).find? fun x => s.errAt x.2).map fun x => p + BitVec.ofNat 64 x.1
/-- DATAERR of a byte that an issuing group read (R115, R479). -/
def State.noteData (s : State) (gk : Nat) (p : Option W64) : State :=
  match p, s.group gk with
  | some p, some g => s.setGroup gk (g.record 11 { eaddr := p, detail := 0 })
  | _, _ => s

/-! ## Contracts (R341-R346) -/

/-- What PIN's descriptor asks for. -/
structure PinReq where
  base : W64
  pages : Nat
  terms : Nat
  exprec : W64
  reserved : Bool
deriving DecidableEq, Repr

/-- The descriptor of R341 in scalars C to C + 3. -/
def pinReq (g : Group) (f : Frag) (o : MOp) : PinReq :=
  let c := o.c.toNat
  let w0 := (readS g f c).toNat
  let w1 := (readS g f (c + 1)).toNat
  { base := ptrA g f o, pages := w0 % 2 ^ 20, terms := w1 % 32, exprec := readS64 g f (c + 2)
    reserved := w0 / 2 ^ 20 != 0 || w1 / 32 != 0 }
/-- Is a contract's range one that meets another range, by virtual pages? -/
def Contract.meets (c : Contract) (base pages : Nat) : Bool :=
  c.base < base + 4096 * pages && base < c.base + 4096 * c.pages.length

/-- Translate the pages of a range for reading; none where one is unmapped or unreadable. -/
def State.pinPages (s : State) (core : Nat) (g : Group) (base n : Nat) : State × List Nat × Bool :=
  (List.range n).foldl (fun (acc : State × List Nat × Bool) k =>
    match acc.1.translate core g.tenant g.asid (base + 4096 * k) permR with
    | (s, .ok a) => (s, acc.2.1 ++ [a / 4096], acc.2.2)
    | (s, .error _) => (s, acc.2.1, false)) (s, [], true)

/-- The expiry record (R341): its counter's home address and target; none where it is unreadable or malformed. -/
def State.expiryOf (s : State) (core : Nat) (g : Group) (p : W64) : State × Option (Nat × Nat) :=
  match s.span core g [0] permR p 16 with
  | (s, .error _) => (s, none)
  | (s, .ok as) =>
    let s := (s.engineReads g.tenant as).used
    let bs := s.gather as
    let ptr := BitVec.ofNat 64 (leNat (bs.take 8))
    if ptr.toNat % 8 ≠ 0 then (s, none)
    else
      match s.locate core g [0, 1] permR ptr with
      | (s, .ok a) => (s, some (a, leNat (bs.drop 8)))
      | (s, .error _) => (s, none)

/-- PIN at the contract controller (R342-R346): status and detail. -/
def State.pin (s : State) (core : Nat) (g : Group) (q : PinReq) : State × Nat × Nat :=
  let t := g.tenant
  let base := q.base.toNat
  let expiry := q.terms.testBit 4
  if base % 4096 ≠ 0 then (s, 3, 0)
  else if q.pages = 0 ∨ 2 ^ 57 < base + 4096 * q.pages then (s, 3, 1)
  else if q.reserved then (s, 3, 2)
  else
    let er := if expiry then s.expiryOf core g q.exprec else (s, some (0, 0))
    match er.2 with
    | none => (er.1, 3, 3)
    | some ctr =>
      let s := er.1
      let old := (s.tenant t).contracts.any fun c => c.base == base
      let others := (s.tenant t).contracts.filter fun c => c.base != base
      let total := (s.tenants.map fun x => x.2.contracts.length).sum - bitOf old
      if (s.tenant t).cquota ≤ others.length then (s, 4, 0)
      else if 4096 ≤ total then (s, 4, 1)
      else if s.cacheUnits t = 0 ∧ !((s.tenant t).extents.any fun x => x.kind == 1) then (s, 2, 0)
      else
        let pg := s.pinPages core g base q.pages
        let s := pg.1
        let uncached := pg.2.1.any fun p => (List.range 32).any fun i =>
          match s.homeSlice (4096 * p + 128 * i) with
          | none => true
          | some n => (s.cacheExtents t n).isEmpty
        if uncached then (s, 2, 1)
        else if (others.any fun c => c.meets base q.pages) = true then (s, 2, 2)
        else if !pg.2.2 then (s, 2, 3)
        else
          let c : Contract :=
            { base := base, prio := q.terms % 4, late := q.terms.testBit 3, fill := q.terms.testBit 2, expiry := expiry
              counter := if expiry then some ctr else none, pages := pg.2.1, active := true, order := s.nextUid }
          let fit := s.contractsFit t (c :: others.filter fun x => x.active)
          if !fit.1 then (s, 1, 0)
          else if !fit.2 then (s, 1, 1)
          else
            let ended := expiry && ctr.2 ≤ s.readHomeNat ctr.1 8
            let s := s.fresh.updTenant t fun x => { x with contracts := if ended then others else others ++ [c] }
            (s.reevaluate t, 0, bitOf old)

/-- The byte of the expiry record that a PIN reads with an error (R115, R471). -/
def State.expiryBad (s : State) (core : Nat) (g : Group) (q : PinReq) : Option W64 :=
  if q.terms.testBit 4 && q.base.toNat % 4096 == 0 && q.pages != 0 && q.base.toNat + 4096 * q.pages ≤ 2 ^ 57 && !q.reserved then
    match s.span core g [0] permR q.exprec 16 with
    | (s, .ok as) => s.badByte q.exprec as
    | (_, .error _) => none
  else none

/-- PIN (R341-R343). -/
def execPin (o : MOp) (s : State) : Host.Outcome State Fault Refusal :=
  .next (storeWord (.pin o) s o fun gk g g0 f =>
    let q := pinReq g f o
    match globalBody q.base with
    | none => takeTrap s gk g0 f [ptrCause spaceFault q.base]
    | some _ =>
      let r := s.pin (coreOf gk) g q
      (decided r.1 gk g f o.fs o.d.toNat [r.2.1 + 256 * r.2.2]).noteData gk (s.expiryBad (coreOf gk) g q))

/-- UNPIN (R345). -/
def execUnpin (o : MOp) (s : State) : Host.Outcome State Fault Refusal :=
  .next (storeWord (.unpin o) s o fun gk g g0 f =>
    let p := ptrA g f o
    match globalBody p with
    | none => takeTrap s gk g0 f [ptrCause spaceFault p]
    | some b =>
      let found := (s.tenant g.tenant).contracts.any fun c => c.base == b
      decided (s.endContracts g.tenant fun c => c.base == b) gk g f o.fs o.d.toNat [if found then 0 else 5])

/-! ## Key-value reserves (R350-R354) -/

/-- A block that has never been inserted into. -/
def Block.fresh : Block := { key := none, busy := false, gen := 0, prio := 0, recent := 0, inserted := 0 }
/-- A reserve of a tenant. -/
def TenantSt.reserve (t : TenantSt) (k : Nat) : Reserve := Tab.get { blocks := [], evicts := 0 } t.reserves k
/-- A block of a reserve. -/
def Reserve.block (r : Reserve) (b : Nat) : Block := Tab.get Block.fresh r.blocks b
/-- Change a block. -/
def State.updBlock (s : State) (t k b : Nat) (f : Block → Block) : State :=
  s.updTenant t fun x =>
    let r := x.reserve k
    { x with reserves := Tab.put x.reserves k { r with blocks := Tab.put r.blocks b (f (r.block b)) } }
/-- The extent of a reserve, with its live list. -/
def State.kvExtent (s : State) (t k : Nat) : Option (Extent × List Nat) :=
  ((s.tenant t).extents.find? fun x => x.kind == 4 + k).map fun x => (x, s.liveList x.span x.first)
/-- The blocks of a reserve: B of R350. -/
def kvBlocks (x : Extent) (l : List Nat) : Nat := x.units * l.length
/-- The slice and the slice byte of a block (R350). -/
def kvPlace (x : Extent) (l : List Nat) (b : Nat) : Nat × Nat :=
  ((l[b % l.length]?).getD 0, x.sbase * 4096 + b / l.length * 4096)
/-- Is a block available: not in an OFF layer? -/
def State.kvAvail (s : State) (x : Extent) (l : List Nat) (b : Nat) : Bool :=
  let p := kvPlace x l b
  !s.layerOff (p.1 / 64) (layerOfByte p.2)
/-- The store-space pointer of a block. -/
def kvPtr (x : Extent) (b : Nat) : Nat := 2 ^ 60 + x.obase + 4096 * b
/-- The four results of R351. -/
def kvResult (ptr gen status : Nat) : List Nat := [ptr % 2 ^ 32, ptr / 2 ^ 32, gen, status]

/-- Does policy prefer block `a` to `b` as the victim (R353)? -/
def Block.evictFirst (policy : Nat) (a b : Block) : Bool :=
  match policy with
  | 0 => a.recent < b.recent
  | 1 => a.prio < b.prio || (a.prio == b.prio && a.recent < b.recent)
  | _ => a.inserted < b.inserted

/-- What the directory answers to an insertion (R352). -/
inductive KvAlloc where
  | full
  | wait
  | got (b : Nat) (ev : Bool)
deriving DecidableEq, Repr

/-- The block that an insertion takes (R352, R353). -/
def State.kvChoose (s : State) (t k : Nat) (x : Extent) (l : List Nat) : KvAlloc :=
  let r := (s.tenant t).reserve k
  let avail := (List.range (kvBlocks x l)).filter (s.kvAvail x l)
  match avail.find? fun b => (r.block b).key == none && !(r.block b).busy with
  | some b => .got b false
  | none =>
    if x.policy = 3 ∨ avail = [] then .full
    else
      match (avail.filter fun b => (r.block b).key.isSome && !(r.block b).busy).foldl (fun (best : Option Nat) b =>
          match best with
          | none => some b
          | some v => if (r.block b).evictFirst x.policy (r.block v) then some b else some v) none with
      | some v => .got v true
      | none => .wait

/-- Try to allot a block to an insertion: the block is marked filling, its key dropped and counted. -/
def State.kvAllot (s : State) (t k : Nat) (x : Extent) (l : List Nat) : State × KvAlloc :=
  match s.kvChoose t k x l with
  | .got b ev =>
    let s := s.updBlock t k b fun y => { y with key := none, busy := true }
    let s := if ev then s.updTenant t fun y =>
        let r := y.reserve k
        { y with reserves := Tab.put y.reserves k { r with evicts := min 0xFFFFFFFF (r.evicts + 1) } } else s
    (s, .got b ev)
  | a => (s, a)

/-- Home addresses as runs of consecutive bytes. -/
def runsOf (as : List Nat) : List (Nat × Nat) :=
  (as.foldl (fun (acc : List (Nat × Nat)) a =>
    match acc with
    | (b, n) :: r => if b + n = a then (b, n + 1) :: r else (a, 1) :: (b, n) :: r
    | [] => [(a, 1)]) []).reverse
/-- The addresses of runs. -/
def runAddrs (rs : List (Nat × Nat)) : List Nat := rs.flatMap fun r => (List.range r.2).map fun i => r.1 + i

/-- KVINS (R352): its source is checked; then the directory marks a block filling, or answers at once. -/
def execKvins (o : MOp) (s : State) : Host.Outcome State Fault Refusal :=
  .next (storeWord (.kvins o) s o fun gk g g0 f =>
    let src := ptrA g f o
    let key := readS64 g f o.c.toNat
    let k := o.x.toNat
    let sp := s.span (coreOf gk) g globTags permR src 4096
    let causes := (match sp.2 with | .error e => [ptrCause e.2 e.1] | .ok _ => [])
      ++ (if src.toNat % 128 ≠ 0 then [(3, { eaddr := src, detail := 0 })] else [])
    if causes ≠ [] then takeTrap sp.1 gk g0 f causes
    else
      let s := sp.1
      let runs := match sp.2 with | .ok as => runsOf as | .error _ => []
      match s.kvExtent g.tenant k with
      | none => decided s gk g f o.fs o.d.toNat (kvResult 0 0 4)
      | some (x, l) =>
        let go (s : State) (b : Option Nat) (ev : Bool) : State :=
          trackWord s gk g f o.fs (.kvins o.d.toNat k b ev (o.tag.toNat % 4) key src runs)
        match s.kvAllot g.tenant k x l with
        | (s, .full) => decided s gk g f o.fs o.d.toNat (kvResult 0 0 3)
        | (s, .wait) => go s none false
        | (s, .got b ev) => go s (some b) ev)

/-- The bytes of an insertion's source, an error leaving a free byte, and the source offset of the first error. -/
def State.kvBytes (s : State) (as : List Nat) : List Byte × Option Nat :=
  (((List.range as.length).zip as).map fun x => if s.errAt x.2 then Config.freeByte s.freeCtr x.1 else s.readHome x.2,
   (((List.range as.length).zip as).find? fun x => s.errAt x.2).map fun x => x.1)

/-- The fill and the switch of an insertion (R352), after a release at DEVICE scope (R165, R354): the source bytes go into
block `b` line by line; then the block holds the key, in one step of the reserve order. -/
def State.kvSwitch (s : State) (gk : Nat) (g : Group) (o : Op) (d k b : Nat) (ev : Bool) (prio : Nat) (key src : W64)
    (as : List Nat) (x : Extent) (l : List Nat) : State :=
  let t := g.tenant
  let s := (s.releaseNow (coreOf gk) g.asid).engineReads t as
  let r := s.kvBytes as
  let p := kvPlace x l b
  let s := (List.range 32).foldl (fun (s : State) i =>
    s.writeHomeN (storeAddr p.1 p.2 + 128 * i) ((r.1.drop (128 * i)).take 128)) s.used
  let old := ((s.tenant t).reserve k).blocks.find? fun y => y.2.key == some key
  let s := match old with
    | some y => s.updBlock t k y.1 fun z => { z with key := none }
    | none => s
  let gen := (((s.tenant t).reserve k).block b).gen + 1
  let s := s.updBlock t k b fun y =>
    { y with key := some key, busy := false, gen := gen, prio := prio, recent := s.turnNo, inserted := s.turnNo }
  let g := match r.2 with
    | some i => g.record 11 { eaddr := src + BitVec.ofNat 64 i, detail := 0 }
    | none => g
  let st := if old.isSome then 1 else if ev then 2 else 0
  endScalars s gk g o (scalarsAt d (kvResult (kvPtr x b) gen.toNat st)) false

/-- KVINS_SWITCH (R352): the next stage of an insertion. It waits for a block, for the group's earlier accesses, for
sleeping layers; then it fills and switches. -/
def kvinsSwitch (s : State) (gk op : Nat) : State :=
  match s.group gk with
  | none => s
  | some g =>
    match g.op op with
    | none => s
    | some o =>
      match o.kind with
      | .kvins d k blk ev prio key src runs =>
        let t := g.tenant
        (match s.kvExtent t k with
        | none => endScalars s gk g o (scalarsAt d (kvResult 0 0 4)) false
        | some (x, l) =>
          match blk with
          | some b =>
            if !(((s.tenant t).reserve k).block b).busy then
              s.setGroup gk (g.setOp op (.kvins d k none false prio key src runs))
            else if !((g.opsBefore op).all fun e => e.kind.performed) then s
            else
              let as := runAddrs runs
              let p := kvPlace x l b
              match s.wakeAny t (storeAddr p.1 p.2 :: (as.map fun a => a / 128 * 128).eraseDups) with
              | some s => s
              | none => s.kvSwitch gk g o d k b ev prio key src as x l
          | none =>
            match s.kvAllot t k x l with
            | (s, .full) => endScalars s gk g o (scalarsAt d (kvResult 0 0 3)) false
            | (s, .wait) => s
            | (s, .got b ev) => s.setGroup gk (g.setOp op (.kvins d k (some b) ev prio key src runs)))
      | _ => s

/-- KVINS_SWITCH. -/
def execKvinsSwitch (gk op : Nat) (s : State) : Host.Outcome State Fault Refusal := .next (s.orWait (kvinsSwitch s gk op))

/-- The block of a reserve that holds a key and is available. -/
def State.kvFind (s : State) (t k : Nat) (x : Extent) (l : List Nat) (key : W64) : Option (Nat × Block) :=
  ((s.tenant t).reserve k).blocks.find? fun y => y.2.key == some key && s.kvAvail x l y.1

/-- KVLOOK (R354): a hit updates recency under LRU and PRIORITY-LRU, and acquires at DEVICE scope. -/
def execKvlook (o : MOp) (s : State) : Host.Outcome State Fault Refusal :=
  .next (storeWord (.kvlook o) s o fun gk g _ f =>
    let t := g.tenant
    let k := o.x.toNat
    match s.kvExtent t k with
    | none => decided s gk g f o.fs o.d.toNat (kvResult 0 0 4)
    | some (x, l) =>
      match s.kvFind t k x l (readS64 g f o.c.toNat) with
      | none => decided s gk g f o.fs o.d.toNat (kvResult 0 0 1)
      | some (b, y) =>
        let s := if x.policy < 2 then s.updBlock t k b fun z => { z with recent := s.turnNo } else s
        decided s gk g f o.fs o.d.toNat (kvResult (kvPtr x b) y.gen.toNat 0) true)

/-- KVDROP (R354). -/
def execKvdrop (o : MOp) (s : State) : Host.Outcome State Fault Refusal :=
  .next (storeWord (.kvdrop o) s o fun gk g _ f =>
    let t := g.tenant
    let k := o.x.toNat
    match s.kvExtent t k with
    | none => decided s gk g f o.fs o.d.toNat (kvResult 0 0 4)
    | some (x, l) =>
      match s.kvFind t k x l (readS64 g f o.c.toNat) with
      | none => decided s gk g f o.fs o.d.toNat (kvResult 0 0 1)
      | some (b, y) =>
        decided (s.updBlock t k b fun z => { z with key := none }) gk g f o.fs o.d.toNat
          (kvResult (kvPtr x b) y.gen.toNat 0))

/-! ## XPOSE (R355, R356) -/

/-- A transpose: element size, rows and columns of the source, pitches. -/
structure Shape where
  es : Nat
  rows : Nat
  cols : Nat
  spitch : Nat
  dpitch : Nat
deriving DecidableEq, Repr

/-- The shape in XPOSE's scalars C + 2 and C + 3, and whether it keeps the table of R355. -/
def xposeShape (g : Group) (f : Frag) (o : MOp) : Shape × Bool :=
  let es := o.size.bytes
  let w2 := (readS g f (o.c.toNat + 2)).toNat
  let w3 := (readS g f (o.c.toNat + 3)).toNat
  let h : Shape := { es := es, rows := w2 % 128, cols := w2 / 256 % 128, spitch := w3 % 2 ^ 16, dpitch := w3 / 2 ^ 16 }
  (h, 1 ≤ h.rows && h.rows ≤ 64 && 1 ≤ h.cols && h.cols ≤ 64 && w2 / 128 % 2 == 0 && w2 / 2 ^ 15 == 0
    && h.spitch % es == 0 && h.dpitch % es == 0)
/-- The elements of a transpose, by row and column. -/
def Shape.elems (h : Shape) : List (Nat × Nat) :=
  (List.range h.rows).flatMap fun r => (List.range h.cols).map fun c => (r, c)
/-- The source and destination pointers of an element. -/
def Shape.elemPtrs (h : Shape) (src dst : W64) (e : Nat × Nat) : W64 × W64 :=
  (src + BitVec.ofNat 64 (e.1 * h.spitch + e.2 * h.es), dst + BitVec.ofNat 64 (e.2 * h.dpitch + e.1 * h.es))
/-- The home address of a store-space pointer, or why it is refused (R334). -/
def State.storeAt (s : State) (t : Nat) (p : W64) : Except AccFault Nat :=
  match storeBody p with
  | none => .error spaceFault
  | some o =>
    match s.resolve t o with
    | .at a => .ok a
    | .off => .error storeOff
    | .xlate => .error xlateStore
/-- The home address of a store-space pointer that passed its check (R338 step 4). -/
def State.storePlace (s : State) (t : Nat) (p : W64) : Option Nat := (storeBody p).bind (s.storeSpot t)
/-- The pointers of an element's bytes. -/
def Shape.elemBytes (h : Shape) (src dst : W64) (e : Nat × Nat) : List W64 × List W64 :=
  let p := h.elemPtrs src dst e
  let go (q : W64) : List W64 := (List.range h.es).map fun i => q + BitVec.ofNat 64 i
  (go p.1, go p.2)
/-- The home addresses of an element's bytes. -/
def State.elemPlace (s : State) (t : Nat) (h : Shape) (src dst : W64) (e : Nat × Nat) : List Nat × List Nat :=
  let b := h.elemBytes src dst e
  (b.1.filterMap (s.storePlace t), b.2.filterMap (s.storePlace t))
/-- The first refusal among pointers. -/
def State.storeFaults (s : State) (t : Nat) (ps : List W64) : List (Nat × CauseRec) :=
  match ps.findSome? fun p => match s.storeAt t p with | .error f => some (f, p) | .ok _ => none with
  | some (f, p) => [ptrCause f p]
  | none => []

/-- An element's bytes among others, by the rank of their elements. -/
def insertElem (k : Nat) (v : List (Nat × Byte)) : List (Nat × List (Nat × Byte)) → List (Nat × List (Nat × Byte))
  | [] => [(k, v)]
  | x :: l => if k < x.1 then (k, v) :: x :: l else x :: insertElem k v l
/-- Elements that write a common byte, in an order that is not stated (free), but for the rows of a command, of which the
higher-numbered write later (R300, R356). -/
def inFreeOrder (ctr : Nat) (rowOf : Nat → Nat) (vs : List (List (Nat × Byte))) : List (List (Nat × Byte)) :=
  (((List.range vs.length).zip vs).foldl (fun acc x =>
    insertElem (2 ^ 32 * rowOf x.1 + (Config.freeWord ctr (2 ^ 20 + x.1)).toNat) x.2 acc) []).map fun x => x.2
/-- Elements are moved, each given by the home addresses of its source and destination bytes (R355, R356): every source
element is read before any is written, and each is written whole. Destination bytes that are also source bytes take free
values (R300, R356). `rowOf` gives the row of an element of a copy command. -/
def State.moveElems (s : State) (t : Nat) (rowOf : Nat → Nat) (ms : List (List Nat × List Nat)) : State :=
  let srcs := ms.flatMap fun m => m.1
  let dsts := ms.flatMap fun m => m.2
  let s := s.engineReads t srcs
  let ctr := s.freeCtr
  let vals := ms.map fun m => (m.2.zip (m.1.map fun a => if s.badAt a then Config.freeByte ctr a else s.readHome a)).map
    fun x => (x.1, if srcs.contains x.1 then Config.freeByte ctr x.1 else x.2)
  (if dsts.eraseDups.length = dsts.length then vals else inFreeOrder ctr rowOf vals).foldl
    (fun (s : State) v => s.engineWrites t v) s.used

/-- XPOSE (R355): a bad shape answers 1 and does nothing else; otherwise its elements are checked, and it is
outstanding until they are moved. -/
def execXpose (o : MOp) (s : State) : Host.Outcome State Fault Refusal :=
  .next (storeWord (.xpose o) s o fun gk g g0 f =>
    let src := ptrA g f o
    let dst := readS64 g f o.c.toNat
    let h := xposeShape g f o
    if !h.2 then decided s gk g f o.fs o.d.toNat [1]
    else
      let ps := h.1.elems.map (h.1.elemPtrs src dst)
      let faults := s.storeFaults g.tenant ((ps.map fun p => p.1) ++ ps.map fun p => p.2)
      let causes := faults
        ++ (if src.toNat % h.1.es ≠ 0 then [(3, { eaddr := src, detail := 0 })]
            else if dst.toNat % h.1.es ≠ 0 then [(3, { eaddr := dst, detail := 0 })] else [])
      if causes ≠ [] then takeTrap s gk g0 f causes
      else trackWord s gk g f o.fs
        (.xpose o.d.toNat src dst h.1.es h.1.rows h.1.cols h.1.spitch h.1.dpitch))

/-- The transpose of an outstanding XPOSE, once the group's earlier accesses are performed and no layer sleeps. It goes to
the places checked at its issue: a layer on its way OFF waits for it (R338 step 4). -/
def xposeRun (s : State) (gk : Nat) (g : Group) (o : Op) (d : Nat) (src dst : W64) (h : Shape) : State :=
  if !((g.opsBefore o.id).all fun e => e.kind.performed) then s
  else
    let ms := h.elems.map (s.elemPlace g.tenant h src dst)
    match s.wakeAny g.tenant (ms.flatMap fun m => m.1 ++ m.2) with
    | some s => s
    | none =>
      let bad := ms.any fun m => m.1.any s.badAt
      let g := if bad then g.record 11 { eaddr := src, detail := 0 } else g
      endScalars (s.moveElems g.tenant (fun _ => 0) ms) gk g o [(d, 0)] false

/-- STORE_INSTR_COMPLETE (R340): results reach the scalars and the flag falls; XPOSE makes its moves first. -/
def storeComplete (s : State) (gk op : Nat) : State :=
  match s.group gk with
  | none => s
  | some g =>
    match g.op op with
    | none => s
    | some o =>
      match o.kind with
      | .scalars ws acq => endScalars s gk g o ws acq
      | .xpose d src dst es rows cols sp dp =>
        xposeRun s gk g o d src dst { es := es, rows := rows, cols := cols, spitch := sp, dpitch := dp }
      | _ => s

/-- STORE_INSTR_COMPLETE. -/
def execStoreInstrComplete (gk op : Nat) (s : State) : Host.Outcome State Fault Refusal := .next (s.orWait (storeComplete s gk op))

/-! ## STQRY (R357, R358) -/

/-- Units of some kinds of extent. -/
def State.unitsOf (s : State) (t : Nat) (p : Nat → Bool) : Nat :=
  (((s.tenant t).extents.filter fun x => p x.kind).map fun x => x.units * (s.liveList x.span x.first).length).sum
/-- The code that a layer reads as (R336): its target while a transition runs. -/
def Layer.code (l : Layer) : Nat := if l.ends.isSome then l.target else l.state
/-- Every layer's code, as selector 8 reports it. -/
def State.layerCodes (s : State) : Nat :=
  ((List.range 4).map fun d =>
    (Layer.code (s.layer d 0)) * 2 ^ (4 * d) + (Layer.code (s.layer d 1)) * 2 ^ (4 * d + 2)).sum
/-- Selector 2: the contract whose base is the pointer. -/
def State.queryContract (s : State) (g : Group) (p : W64) : List Nat :=
  match (s.tenant g.tenant).contracts.find? fun c => tagOf p == 0 && BitVec.ofNat 64 c.base == p with
  | none => [0, 0, 0, 0]
  | some c =>
    let terms := c.prio + 4 * bitOf c.fill + 8 * bitOf c.late + 16 * bitOf c.expiry
    let res := (c.lines.filter fun l => (s.homeSlice (128 * l)).any fun n => s.resident n l).length
    [4 * terms + (if c.active then 1 else 2), c.pages.length, res, 32 * c.pages.length]
/-- The report of a selector (R358); selector 2's page is mapped where `mapped`. -/
def State.stqry (s : State) (g : Group) (sel : Nat) (p : W64) (mapped : Bool) : List Nat :=
  let t := g.tenant
  let x := s.tenant t
  match sel with
  | 0 => [s.cacheUnits t, s.unitsOf t fun k => k == 2, s.unitsOf t fun k => 4 ≤ k && k ≤ 7,
          ((List.range 4).map fun k => if (s.kvExtent t k).isSome then 2 ^ k else 0).sum]
  | 1 => [x.cquota * 2 ^ 16 + x.contracts.length,
          ((x.contracts.filter fun c => c.active).map fun c => c.pages.length).sum, s.cacheUnits t * 3 / 4,
          (x.contracts.filter fun c => !c.active).length]
  | 2 => if mapped then s.queryContract g p else [0, 0, 0, 0]
  | 3 => [x.lateHbm, x.lateHost, x.latePeer, x.wakes]
  | 8 => [s.layerCodes, 0, 0, 0]
  | n =>
    if 4 ≤ n ∧ n ≤ 7 then
      match s.kvExtent t (n - 4) with
      | none => [0, 0, 0, 0]
      | some (e, l) =>
        let r := x.reserve (n - 4)
        [4 + e.policy, kvBlocks e l, (r.blocks.filter fun b => b.2.busy || b.2.key.isSome).length, r.evicts]
    else [0xFFFFFFFF, 0, 0, 0]

/-- STQRY (R357). -/
def execStqry (o : MOp) (s : State) : Host.Outcome State Fault Refusal :=
  .next (storeWord (.stqry o) s o fun gk g _ f =>
    let p := ptrA g f o
    let sel := (readS g f o.c.toNat).toNat
    let tr : State × Except AccFault Nat := if sel = 2 then s.locate (coreOf gk) g [0] permR p else (s, .ok 0)
    let mapped := match tr.2 with | .ok _ => true | .error f => f.cause == 2 && f.detail / 2 ^ 10 == 2
    decided tr.1 gk g f o.fs o.d.toNat (tr.1.stqry g sel p mapped))

/-! ## Layer power (R336-R338) -/

/-- A reserve without the blocks of a layer in its directory. -/
def Reserve.without (r : Reserve) (x : Extent) (lv : List Nat) (d l : Nat) : Reserve :=
  { r with blocks := r.blocks.map fun (b : Nat × Block) =>
      let p := kvPlace x lv b.1
      (b.1, if inLayer d l (storeAddr p.1 p.2) then { b.2 with key := none, busy := false } else b.2) }
/-- Every block of a layer leaves its directory (R338 step 2). -/
def State.dropBlocks (s : State) (d l : Nat) : State :=
  { s with tenants := s.tenants.map fun (t : Nat × TenantSt) =>
      (t.1, { t.2 with reserves := t.2.reserves.map fun (k : Nat × Reserve) =>
                (k.1, match s.kvExtent t.1 k.1 with | none => k.2 | some (x, lv) => k.2.without x lv d l) }) }
/-- Every tenant's contracts are re-evaluated (R349). -/
def State.reevaluateAll (s : State) : State := s.tenants.foldl (fun (s : State) (t : Nat × TenantSt) => s.reevaluate t.1) s

/-- The home addresses that an outstanding operation of a tenant's group, checked at its issue, still goes to: a memory
word's parts, an XPOSE's elements, a SEND's payload (R338 step 4, R418). -/
def State.opPlaces (s : State) (t : Nat) (o : Op) : List Nat :=
  match o.kind with
  | .mem m => (m.parts.filter fun p => !p.done).map fun p => p.addr
  | .xpose _ src dst es rows cols sp dp =>
    let h : Shape := { es := es, rows := rows, cols := cols, spitch := sp, dpitch := dp }
    h.elems.flatMap fun e => (s.elemPlace t h src dst e).1 ++ (s.elemPlace t h src dst e).2
  | .send _ _ _ _ _ isScr runs payload _ => if isScr || payload.isSome then [] else runAddrs runs
  | _ => []
/-- Does an outstanding access of a group still go to a layer (R338 step 4)? -/
def State.groupIn (s : State) (g : Group) (d l : Nat) : Bool :=
  g.ops.any fun o => (s.opPlaces g.tenant o).any (inLayer d l)
/-- Does an access of any group that passed its check, or a debug read under way (R483), still go to a layer? -/
def State.layerBusy (s : State) (d l : Nat) : Bool :=
  (s.fe.dbgRead.any fun r => r.2.2 ≤ 1 && inLayer d l (storeAddr r.1 r.2.1)) ||
  (s.groups.any fun x => s.groupIn x.2 d l) || s.swapped.any fun w => s.groupIn w.group d l
/-- The lines of a slice that are dropped as a layer goes OFF: those of tenants that keep no cache units there, and
those beyond what a tenant's remaining units hold, least recently used first (R331, R338 step 5). -/
def State.trimSlice (s : State) (slice : Nat) : State :=
  let ts := ((s.slice slice).lines.map fun x => x.tenant).eraseDups
  ts.foldl (fun (s : State) t =>
    let mine := (s.slice slice).lines.filter fun x => x.tenant == t
    let cap := 32 * s.cacheUnitsIn t slice
    (List.range (mine.length - cap)).foldl (fun (s : State) _ =>
      match s.victim slice t with
      | some v => s.dropLine slice v
      | none =>
        match (s.slice slice).lines.find? fun x => x.tenant == t with
        | some v => s.dropLine slice v
        | none => s) s) s
/-- The bytes of a layer are lost, or zeroed as it powers on (R337). -/
def State.clearLayer (s : State) (d l : Nat) : State :=
  { s with storeMem := s.storeMem.filter fun c => !inLayer d l (storeBase + c.1) }

/-- A layer that was going OFF is off: its lines are gone and its contents lost (R338 steps 5 and 6). -/
def State.layerDead (s : State) (d l : Nat) : State :=
  (((List.range 64).foldl (fun (s : State) k => s.trimSlice (64 * d + k)) s).clearLayer d l).updLayer d l
    fun y => { y with state := 2, ends := none }

/-- A layer's write to a new state begins its transition (R337, R338 steps 1 to 3). A write that meets a drain still
in progress waits for the drain's end. A wake that a debug read began becomes software's (R483). -/
def layerTo (s : State) (d l target : Nat) : State :=
  let s := if (s.layer d l).dbg then s.updLayer d l fun y => { y with dbg := false } else s
  let x := s.layer d l
  if x.target = target then s
  else if x.target = 2 ∧ x.state ≠ 2 ∧ s.layerBusy d l = true then s
  else
    let s := if x.target = 2 ∧ x.state ≠ 2 then s.layerDead d l else s
    let s := s.beginLayer d l target
    if target = 2 ∨ x.target = 2 then (if target = 2 then s.dropBlocks d l else s).reevaluateAll else s

/-- Does a reserved partition's tenant have units in a layer (R441)? Then it may not sleep or go OFF. -/
def State.layerReserved (s : State) (d l : Nat) : Bool :=
  s.parts.any fun p => p.2.formed.isSome
    && (s.tenant p.2.tenant).extents.any fun x =>
      x.layer == l && (s.liveList x.span x.first).any fun n => n / 64 == d
/-- Does a grid's spill ring have a byte in a layer (R412)? -/
def State.ringInLayer (s : State) (gr : Grid) (d l : Nat) : Bool :=
  match gr.slalom.bind fun x => x.spill with
  | none => false
  | some base =>
    let n := match s.resolve gr.tenant base with | .at a => s.readHomeNat a 4 | _ => 0
    (List.range ((base % 4096 + 64 + 0x4000 * n + 4095) / 4096)).any fun k =>
      match s.extentOf gr.tenant (base / 4096 * 4096 + 4096 * k) with
      | none => false
      | some (x, lv) =>
        let u := (base / 4096 * 4096 + 4096 * k - x.obase) / 4096
        (match lv[u % lv.length]? with
        | some slice => inLayer d l (storeAddr slice (x.sbase * 4096 + u / lv.length * 4096))
        | none => false)
/-- The grids whose spill ring loses a layer (R412): a live one ends with STOREOFF, a captured one loses its records. -/
def State.loseRings (s : State) (d l : Nat) : State :=
  let hit := s.grids.filter fun g => s.ringInLayer g.2 d l
  hit.foldl (fun (s : State) g =>
    if s.held.any fun h => h.grid == some g.1 then
      s.updGrid g.1 fun y => { y with slalom := y.slalom.map fun x => { x with lost := true } }
    else s.killSlalom g.1 g.2 12) s

/-- LAYER_ACTIVE (R337). -/
def execLayerActive (m die layer : Nat) (s : State) : Host.Outcome State Fault Refusal :=
  .next (s.orWait (s.asOwner m fun s => if die < 4 ∧ layer < 2 then layerTo s die layer 0 else s))
/-- LAYER_RETENTION (R337). -/
def execLayerRetention (m die layer : Nat) (s : State) : Host.Outcome State Fault Refusal :=
  .next (s.orWait (s.asOwner m fun s =>
    if die < 4 ∧ layer < 2 ∧ s.layerReserved die layer = false then layerTo s die layer 1 else s))
/-- LAYER_OFF (R338): steps 1 to 3 of the drain. -/
def execLayerOff (m die layer : Nat) (s : State) : Host.Outcome State Fault Refusal :=
  .next (s.orWait (s.asOwner m fun s =>
    if die < 4 ∧ layer < 2 ∧ s.layerReserved die layer = false then
      layerTo (if (s.layer die layer).target = 2 then s else s.loseRings die layer) die layer 2
    else s))

/-- LAYER_TRANSITION_DONE (R337, R338): the transition's time has passed. A layer that goes OFF first completes the
accesses that passed their checks, then its lines go to their tiers; its contents are lost. -/
def layerDone (s : State) (d l : Nat) : State :=
  let x := s.layer d l
  match x.ends with
  | none => s
  | some t =>
    if s.clock < t then s
    else if x.target = 2 then
      (if s.layerBusy d l = true then s else s.layerDead d l)
    else s.updLayer d l fun y => { y with state := x.target, ends := none }

/-- LAYER_TRANSITION_DONE. -/
def execLayerTransitionDone (die layer : Nat) (s : State) : Host.Outcome State Fault Refusal :=
  .next (s.orWait (layerDone s die layer))

/-! ## Interleave regions (R327) -/

/-- Are SPAN and FIRST codes of the table, with a live slice (R327)? -/
def State.spanOk (s : State) (span first : Nat) : Bool :=
  span ≤ 4
  && (match span with
      | 0 => s.liveSl.contains first
      | 1 => first % 4 == 0
      | 2 => first % 16 == 0
      | 3 => first % 64 == 0
      | _ => first == 0)
  && s.liveList span first != []
/-- Is a valid region register well formed: codes, FIRST, live slices, LIMIT (R327)? -/
def State.iregOk (s : State) (r : BitVec 128) : Bool :=
  s.spanOk (iregSpan r) (iregFirst r) && iregUnit r ≤ 5 && iregBase r ≤ iregLimit r
/-- Do two valid regions overlap? -/
def iregMeets (a b : BitVec 128) : Bool := iregBase a ≤ iregLimit b && iregBase b ≤ iregLimit a
/-- The write of a region register: refused, and ignored, where it would validate a bad region. What it writes to
reserved fields is ignored (R8). -/
def State.writeIreg (s : State) (n : Nat) (v : BitVec 128) : State :=
  let v := v &&& 0xFFFFFC0000000000FFFFFC000FFFD
  let clash := s.fe.iregions.any fun r => r.1 != n && iregValid r.2 && iregMeets r.2 v
  if 32 ≤ n ∨ (iregValid v && (!s.iregOk v || clash)) then s
  else s.updFe fun f => { f with iregions := Tab.set 0 f.iregions n v }
/-- IREGION_WRITE. -/
def execIregionWrite (m n : Nat) (val : BitVec 128) (s : State) : Host.Outcome State Fault Refusal :=
  .next (s.asOwner m fun s => s.writeIreg n val)

end Sys2Proof.Machine
end

