-- ==== Sys2Proof/Machine/Image.lean ====
section
/-! DEFINITION. Groups as they are made: at launch (R94, R111), and from the group images of pre-emption (R124, R125). -/
namespace Sys2Proof.Machine

/-! ## Launch -/

/-- Registers at a launch: vectors, and for a team's groups scalars and predicates, are free values (log 6, log 7). -/
def Regs.launch (seed : Nat) (free : Bool) : Regs :=
  { v := [], vSeed := seed, uSeed := [], lSeed := [], s := [], sFree := free, p := [], pFree := true }
/-- The trap registers of a group at launch (R111). -/
def TrapSt.launch (hvec : W64) : TrapSt :=
  { cause := 0, tmask := 0, plevel := 0, epc := 0, epcHdr := 0, epcHw := false, hvec := hvec, eaddr := 0, einfo := 0
    savedMask := 0, savedLevel := 0, info := [], uivec := 0, uiepc := 0, uiepcHdr := 0, uiepcHw := false, uisrc := 0
    uien := false, uiact := false, uipend := false }
/-- A group at launch (R94, R111), with one fragment and everything that R111 gives a value; what a launch of each kind
sets is added by that launch. -/
def Group.launch (uid : Nat) (unit : UnitRef) (budget : Nat) (hvec : W64) (f : Frag) (free : Bool) : Group :=
  { uid := uid, unit := unit, grid := 0, role := 0, gnum := 0, lin := 0, tx := 0, ty := 0, tz := 0, asid := 0
    tenant := 0, part := 0, prio := 0, budget := budget, task := none, swapt := 20000, fpmode := 0, fpflags := 0
    regs := Regs.launch uid free, trap := TrapSt.launch hvec, flags := [], flagErr := [], frags := [f], deferred := []
    nextFrag := 1, nextOrder := 0, exited := 0, arrgen := [], guardRep := none, fenced := false, arrivedAt := none
    ops := [], ending := .normal, halted := false }

/-- The one fragment of a launched group: all lanes at a header (R94). -/
def launchFrag (pc now : Nat) : Frag :=
  { id := 0, hdr := pc, word := 0, hw := none, members := allLanes, mask := allLanes, wait := .none, since := now
    age := 0, paused := false, heldTrap := false, heldUi := false }

/-! ## The split table (R125) -/

/-- The WAIT code of a wait, its argument: barrier number or cycles remaining (R125). -/
def Wait.code (w : Wait) (now : Nat) : Nat × Nat :=
  match w with
  | .header => (1, 0)
  | .regang => (2, 0)
  | .regroup _ _ _ => (3, 0)
  | .barrier b => (4, b)
  | .sleep till => (5, till - now)
  | _ => (0, 0)
/-- WAIT and WAITARG of a fragment. A held one has code 6; which handler holds it, and its wait below that, are with the
front end's record of the capture (HeldFrag; log 28). -/
def Frag.waitCode (f : Frag) (now : Nat) : Nat × Nat := if f.heldTrap || f.heldUi then (6, 0) else f.wait.code now
/-- A split-table entry of a fragment. -/
def Frag.entry (f : Frag) (now : Nat) : List Byte :=
  let w := f.waitCode now
  leBytes 8 f.hdr ++ leBytes 1 f.word ++ leBytes 2 0 ++ leBytes 1 w.1 ++ leBytes 4 w.2 ++ leBytes 12 f.mask.toNat
  ++ leBytes 2 f.age ++ leBytes 2 0
/-- A split-table entry of a deferred entry, with its place in push order. -/
def Deferred.entry (d : Deferred) (order : Nat) : List Byte :=
  leBytes 8 d.hdr ++ leBytes 1 0 ++ leBytes 1 1 ++ leBytes 1 d.slice ++ leBytes 1 (if d.heldTrap || d.heldUi then 6 else 0)
  ++ leBytes 4 0
  ++ leBytes 12 d.lanes.toNat ++ leBytes 2 0 ++ leBytes 2 order

/-! ## The group image (R124) -/

/-- Bytes of zero. -/
def zeros (n : Nat) : List Byte := List.replicate n 0
/-- The split-table index of the fragment that holds each slice. Of several that share one (R97), the first with an
idle lane in it, else the first: their MASKs tell the other lanes apart (log 28). -/
def Group.sliceFrag (g : Group) : List Nat :=
  (List.range 24).map fun k =>
    match g.frags.findIdx? fun f => f.members &&& ~~~f.mask &&& sliceLanes k != 0 with
    | some n => n
    | none => (g.frags.findIdx? fun f => f.members &&& sliceLanes k != 0).getD 255
/-- EPCHDR and UIEPCHDR. DESIGN CHOICE (log 28): all ones where the return point has no clause context (R58), because
software wrote it or nothing has set it; the manual gives no encoding for that. -/
def ctxBytes (hw : Bool) (hdr : Nat) : List Byte := leBytes 8 (if hw then hdr else 2 ^ 64 - 1)
/-- The fixed part of a group image, 0x1000 bytes. Scalars s125 to s127 hold the active lanes of all its fragments (R427;
log 28). -/
def Group.imageHead (g : Group) (now : Nat) : List Byte :=
  let t := g.trap
  let active := g.frags.foldl (fun m f => m ||| f.mask) (0 : Lanes)
  let table := g.frags.flatMap (fun f => f.entry now)
    ++ g.deferred.flatMap fun d => d.entry (g.deferred.filter fun e => e.order < d.order).length
  ((List.range 128).flatMap fun n => leBytes 4 (if n < 125 then g.regs.readS n else maskPart active (n - 125)).toNat)
  ++ ((List.range 7).flatMap fun n => leBytes 16 (g.regs.readP n).toNat) ++ zeros 16
  ++ leBytes 4 (t.plevel % 4 + 4 * (t.savedLevel % 4)) ++ leBytes 4 t.tmask.toNat ++ leBytes 4 t.cause.toNat
  ++ leBytes 4 t.einfo.toNat ++ leBytes 8 t.epc.toNat ++ leBytes 8 t.hvec.toNat ++ leBytes 8 t.eaddr.toNat
  ++ leBytes 16 t.savedMask.toNat ++ leBytes 8 t.uivec.toNat ++ leBytes 8 t.uiepc.toNat ++ leBytes 4 t.uisrc.toNat
  ++ leBytes 2 (bitOf t.uien + 2 * bitOf t.uiact + 4 * bitOf t.uipend)
  ++ leBytes 1 ((g.task.map fun x => x.retries).getD 0) ++ zeros 49
  ++ leBytes 4 g.fpmode.toNat ++ leBytes 4 g.fpflags.toNat ++ leBytes 4 g.swapt ++ leBytes 2 g.budget
  ++ leBytes 1 g.role ++ leBytes 1 g.gnum
  ++ ((List.range 16).flatMap fun b => leBytes 4 (Tab.get 0 g.arrgen b)) ++ leBytes 8 (g.guardRep.getD 0)
  ++ leBytes 2 (g.frags.length + g.deferred.length)
  ++ leBytes 2 (((List.range 16).map fun b => if (Tab.find g.arrgen b).isSome then 2 ^ b else 0).sum) ++ zeros 4
  ++ ctxBytes t.epcHw t.epcHdr ++ ctxBytes t.uiepcHw t.uiepcHdr ++ (g.sliceFrag.flatMap fun k => leBytes 1 k)
  ++ leBytes 16 g.exited.toNat ++ zeros 104 ++ (table ++ zeros 3072).take 3072
/-- A group image (R124). -/
def Group.image (g : Group) (now : Nat) : List Byte :=
  g.imageHead now
  ++ (List.range g.budget).flatMap fun n => (List.range 96).flatMap fun i => leBytes 4 (g.regs.readV n i).toNat
/-- The bytes of a group image (R124). -/
def imageSize (budget : Nat) : Nat := 0x1000 + 384 * budget

/-! ## A group from its image -/

/-- A little-endian field of bytes. -/
def fieldAt (bs : List Byte) (off n : Nat) : Nat := leNat ((bs.drop off).take n)
/-- The wait that a code and its argument restore, a REGROUP with the operands that the front end kept; waits saved as 0
issue their word again, and those on a header read it again. -/
def waitOf (code arg now : Nat) (regroup : Option (Nat × Nat × Nat)) : Wait :=
  match code, regroup with
  | 2, _ => .regang
  | 3, some x => .regroup x.1 x.2.1 x.2.2
  | 4, _ => .barrier (arg % 16)
  | 5, _ => .sleep (now + arg)
  | _, _ => .none
/-- The entries of the split table. -/
def splitEntries (bs : List Byte) : List (Nat × List Byte) :=
  (List.range (min 96 (fieldAt bs 0x358 1))).map fun k => (k, (bs.drop (0x400 + 32 * k)).take 32)
/-- What the front end has kept of a split-table entry. -/
def heldFrag (kept : List HeldFrag) (n : Nat) : HeldFrag :=
  (kept.find? fun k => k.idx == n).getD { idx := n, trap := false, ui := false, code := 0, arg := 0, regroup := none }
/-- What holds the `n`th entry: trap handler, user interrupt. -/
def heldBy (kept : List HeldFrag) (n : Nat) (e : List Byte) : Bool × Bool :=
  if fieldAt e 11 1 = 6 then ((heldFrag kept n).trap, (heldFrag kept n).ui) else (false, false)
/-- The deferred entries of an image. -/
def imageDeferred (kept : List HeldFrag) (bs : List Byte) : List Deferred :=
  (splitEntries bs).filterMap fun x =>
    let e := x.2
    if fieldAt e 9 1 = 1 then
      some { slice := fieldAt e 10 1, lanes := BitVec.ofNat 96 (fieldAt e 16 12), hdr := fieldAt e 0 8, order := fieldAt e 30 2
             heldTrap := (heldBy kept x.1 e).1, heldUi := (heldBy kept x.1 e).2 }
    else none
/-- The lanes of the MASKs of an image's fragments other than the `n`th. -/
def otherMasks (bs : List Byte) (n : Nat) : Lanes :=
  (splitEntries bs).foldl (fun m x =>
    if x.1 = n ∨ fieldAt x.2 9 1 = 1 then m else m ||| BitVec.ofNat 96 (fieldAt x.2 16 12)) 0
/-- The fragments of an image: their lanes are those of their slices, less exited and deferred ones, and those of their
MASK in a slice that they share. -/
def imageFrags (kept : List HeldFrag) (bs : List Byte) (exited : Lanes) (ds : List Deferred) (now : Nat) : List Frag :=
  let gone := ds.foldl (fun m d => m ||| d.lanes) exited
  (splitEntries bs).filterMap fun x =>
    let e := x.2
    if fieldAt e 9 1 = 1 then none
    else
      let mine := (List.range 24).foldl (fun (m : Lanes) k =>
        if fieldAt bs (0x370 + k) 1 = x.1 then m ||| sliceLanes k else m) 0
      let mask := BitVec.ofNat 96 (fieldAt e 16 12) &&& ~~~gone
      let members := mine &&& ~~~gone &&& ~~~otherMasks bs x.1 ||| mask
      let h := heldBy kept x.1 e
      let k := heldFrag kept x.1
      let w := if fieldAt e 11 1 = 6 then waitOf k.code k.arg now k.regroup
        else waitOf (fieldAt e 11 1) (fieldAt e 12 4) now k.regroup
      some { id := x.1, hdr := fieldAt e 0 8, word := fieldAt e 8 1 % 16, hw := none, members := members
             mask := mask, wait := w, since := now, age := fieldAt e 28 2
             paused := false, heldTrap := h.1, heldUi := h.2 }
/-- The trap registers of an image. The values kept for causes that are set are not in it: the record of the capture keeps
them (HeldGroup.info), and those of a cause that only the image shows are free (log 28). -/
def imageTrap (bs : List Byte) (ctr : Nat) : TrapSt :=
  let f := fieldAt bs
  let cause := BitVec.ofNat 32 (f 0x288 4)
  let ui := f 0x2CC 1
  { cause := cause, tmask := BitVec.ofNat 32 (f 0x284 4), plevel := f 0x280 1 % 4, epc := BitVec.ofNat 64 (f 0x290 8)
    epcHdr := f 0x360 8, epcHw := f 0x360 8 != 2 ^ 64 - 1, hvec := BitVec.ofNat 64 (f 0x298 8)
    eaddr := BitVec.ofNat 64 (f 0x2A0 8), einfo := BitVec.ofNat 32 (f 0x28C 4), savedMask := BitVec.ofNat 96 (f 0x2A8 12)
    savedLevel := f 0x280 1 / 4 % 4
    info := ((List.range 32).filter fun c => cause.getLsbD c).map fun c =>
      (c, { eaddr := Config.freeWord ctr (2 * c) ++ Config.freeWord ctr (2 * c + 1)
            detail := (Config.freeWord ctr (64 + c)).toNat % 2 ^ 24 })
    uivec := BitVec.ofNat 64 (f 0x2B8 8), uiepc := BitVec.ofNat 64 (f 0x2C0 8), uiepcHdr := f 0x368 8
    uiepcHw := f 0x368 8 != 2 ^ 64 - 1, uisrc := BitVec.ofNat 32 (f 0x2C8 4), uien := ui.testBit 0
    uiact := ui.testBit 1, uipend := ui.testBit 2 }
/-- The registers of an image. -/
def imageRegs (bs : List Byte) (budget seed : Nat) : Regs :=
  { v := (List.range (96 * budget)).map fun k => (k, BitVec.ofNat 32 (fieldAt bs (0x1000 + 4 * k) 4))
    vSeed := seed, uSeed := [], lSeed := []
    s := (List.range 125).map fun n => (n, BitVec.ofNat 32 (fieldAt bs (4 * n) 4)), sFree := false
    p := (List.range 7).map fun n => (n, BitVec.ofNat 96 (fieldAt bs (0x200 + 16 * n) 12)), pFree := false }
/-- A group from its image (R121, R124), onto what its unit gives it: `base` holds its identity, `kept` what the front end
kept of its fragments. FENCED is 0 (R268). -/
def Group.ofImage (base : Group) (kept : List HeldFrag) (bs : List Byte) (now ctr : Nat) : Group :=
  let exited := BitVec.ofNat 96 (fieldAt bs 0x388 12)
  let ds := imageDeferred kept bs
  let guard := fieldAt bs 0x350 8
  let valid := fieldAt bs 0x35A 2
  let fs := imageFrags kept bs exited ds now
  { base with
    role := fieldAt bs 0x30E 1, gnum := fieldAt bs 0x30F 1, budget := fieldAt bs 0x30C 2
    task := base.task.map fun t => { t with retries := fieldAt bs 0x2CE 1 }
    swapt := fieldAt bs 0x308 4, fpmode := BitVec.ofNat 32 (fieldAt bs 0x300 4)
    fpflags := BitVec.ofNat 32 (fieldAt bs 0x304 4), regs := imageRegs bs (fieldAt bs 0x30C 2) ctr
    trap := imageTrap bs ctr, flags := [], flagErr := [], frags := fs, deferred := ds, nextFrag := 96
    nextOrder := ds.foldl (fun m d => max m (d.order + 1)) 0, exited := exited
    arrgen := ((List.range 16).filter valid.testBit).map fun b => (b, fieldAt bs (0x310 + 4 * b) 4)
    guardRep := if guard.testBit 31 then some (guard % 2 ^ 32) else none, fenced := false, arrivedAt := none, ops := []
    ending := .normal, halted := false }
/-- A capture keeps a group's undelivered DATAERRs in its causes, for its flags are zero then (R120). -/
def Group.forImage (g : Group) : Group := g.passFlags 0xFFF

end Sys2Proof.Machine
end

