-- ==== Sys2Proof/Machine/Swap.lean ====
section
/-! DEFINITION. Swapping groups out and in (R108, R109, R167, R413, R435), and posting user interrupts to a group
wherever it is (R110, R376, R411). -/
namespace Sys2Proof.Machine

/-! ## Swapping out -/

/-- Bytes of a core's swap pool (R435). -/
def swapPool : Nat := 8 * 2 ^ 20 - 128 * 1024
/-- Where a swap pool with some images (offset, size) has room for one more of `n` bytes: the lowest offset, 0 or the end
of an image there, at which it meets none (R435). DESIGN CHOICE (log 37): the manual does not say where in the pool an image lies. -/
def poolPlace (used : List (Nat × Nat)) (n : Nat) : Option Nat :=
  let free (o : Nat) : Bool := o + n ≤ swapPool && used.all fun x => o + n ≤ x.1 || x.1 + x.2 ≤ o
  let ends := 0 :: used.map fun x => x.1 + x.2
  (ends.filter free).foldl (fun m o => match m with | none => some o | some p => some (min p o)) none
/-- The images in a core's swap pool: offset and size. -/
def State.poolUsed (s : State) (core : Nat) : List (Nat × Nat) :=
  (s.swapped.filter fun x => x.core == core).map fun x => (x.off, imageSize x.group.budget)
/-- The place of one more image in a core's pool. -/
def State.swapPlace (s : State) (core budget : Nat) : Option Nat := poolPlace (s.poolUsed core) (imageSize budget)
/-- Do several images find room one after another? -/
def poolFits : List (Nat × Nat) → List Nat → Bool
  | _, [] => true
  | used, n :: r =>
    match poolPlace used n with
    | none => false
    | some o => poolFits ((o, n) :: used) r
/-- Has a core's swap pool room for a group's image (R435)? -/
def State.swapRoom (s : State) (core budget : Nat) : Bool :=
  s.fe.saveBase != 0 && (s.swapPlace core budget).isSome
/-- A group joins the wake list of a core, with its image in the core's swap pool (R108, R435). No program and no engine
reaches the pool, so its bytes are plain memory. -/
def State.addSwapped (s : State) (core : Nat) (g : Group) : State :=
  let off := (s.swapPlace core g.budget).getD 0
  { s with swapped := s.swapped ++ [{ core := core, off := off, group := g, due := none }]
           mem := Memory.writeN s.mem (s.fe.saveBase.toNat + 2 ^ 23 * core + 2 ^ 17 + off) (g.image s.clock) }
/-- A fragment as it is saved: one that is due to depart stays so, wherever the group returns (R413). -/
def State.saveDue (s : State) (gk : Nat) (g : Group) (f : Frag) : Frag :=
  match s.dueDepart gk g f with
  | some (t, live) => { f with wait := .depart t live }
  | none => f
/-- A group gives up its slot and budget; its release action comes first (R167). -/
def State.swapAway (s : State) (gk : Nat) (g : Group) : State :=
  let g := { g with frags := g.frags.map (s.saveDue gk g) }
  let s := s.releaseNow (coreOf gk) g.asid
  { s with groups := Tab.del s.groups gk }.addSwapped (coreOf gk) g

/-! ## Swapping in -/

/-- The segment that holds a PC (R397). -/
def Grid.segOf (gr : Grid) (pc : Nat) : Option Nat :=
  (gr.slalom.map fun x => x.segs).bind fun l =>
    l.findIdx? fun x => gr.code.toNat + x.off ≤ pc && pc < gr.code.toNat + x.off + x.len
/-- The cores that list a segment. -/
def Grid.segCores (gr : Grid) (k : Nat) : List Nat :=
  ((gr.slalom.bind fun x => x.segs[k]?).map fun x => x.cores).getD []
/-- The cores to which a swapped group may return (R108, R413). -/
def State.mayReturn (s : State) (w : Swapped) (core : Nat) : Bool :=
  match w.group.unit with
  | .team tk => core == tk / 8
  | .task _ => (s.partCores w.group.part).contains core && !s.slalomHeld core
  | .slalom n =>
    match s.grid n with
    | none => false
    | some gr =>
      let stay := (w.group.frags.filter fun f => match f.wait with | .depart _ _ => false | _ => true).filterMap fun f =>
        gr.segOf f.addr
      match stay with
      | k :: _ => (gr.segCores k).contains core
      | [] => core == w.core || (match (s.core w.core).leap with
        | some l => (l.seg.map fun k => (gr.segCores k).contains core).getD false
        | none => false)
/-- Does a group that is due to be re-admitted keep new work from a core (R108)? -/
def State.heldForReturn (s : State) (core : Nat) : Bool :=
  s.swapped.any fun w => w.due.isSome && !s.stopped w.group && s.mayReturn w core
/-- Has a core a slot and registers for a returning group, beyond an escape slot (R108, R396)? -/
def State.fits (s : State) (core budget : Nat) : Bool :=
  let spare := if (s.core core).leap.isSome then 1 else 0
  spare < s.freeSlots core && budget + s.escapeRegs core ≤ s.freeRegs core
/-- Is a swapped group the next of its wake list: none of the same core was due earlier? -/
def State.nextDue (s : State) (w : Swapped) : Bool :=
  s.swapped.all fun x => x.core != w.core || x.group.uid == w.group.uid || s.stopped x.group
    || (match x.due, w.due with
        | some a, some b => b ≤ a
        | none, _ => true
        | _, none => false)

/-- A fragment of a group that returns: a wait on flags has ended, for the group's flags are zero, and its word or header
issues again. -/
def Frag.backIn (f : Frag) : Frag :=
  match f.wait with
  | .header => { f with wait := .none }
  | .flagFull _ => { f with wait := .none }
  | .flags _ => { f with wait := .none }
  | .mfence _ => { f with wait := .none }
  | .allFlags => { f with wait := .none }
  | .performs => { f with wait := .none }
  | .fenceHold => { f with wait := .none }
  | _ => f
/-- A group that returns to a slot. DESIGN CHOICE (log 48): FENCED is kept, for R124 names no place for it in the image of a
swapped group, and R268 sets it to 0 on a resume alone. -/
def Group.backIn (g : Group) : Group := { g with draining := false, frags := g.frags.map Frag.backIn }

/-- SWAP_IN (R108): a group that is due takes a slot, after an acquire action (R167). -/
def swapIn (s : State) (core uid : Nat) : State :=
  match s.swapped.find? fun w => w.group.uid == uid with
  | none => s
  | some w =>
    if w.due.isSome && !s.stopped w.group && s.mayReturn w core && s.nextDue w && s.fits core w.group.budget then
      match s.freeSlot core with
      | none => s
      | some gk =>
        let s := { s with swapped := s.swapped.filter fun x => x.group.uid != uid }
        (s.setGroup gk w.group.backIn).acquireAction core w.group.asid
    else s
/-- SWAP_IN. -/
def execSwapIn (core uid : Nat) (s : State) : Host.Outcome State Fault Refusal := .next (swapIn s core uid)

/-! ## The spill ring (R412) -/

/-- The home address of a byte of a grid's spill ring. -/
def State.spillAt (s : State) (gr : Grid) (base i : Nat) : Option Nat :=
  match s.resolve gr.tenant (base + i) with
  | .at a => some a
  | _ => none
/-- A field of the spill ring. -/
def State.spillRead (s : State) (gr : Grid) (base off n : Nat) : List Byte :=
  (List.range n).map fun i => ((s.spillAt gr base (off + i)).map s.readHome).getD 0
/-- Write bytes of the spill ring, in runs of one slice. -/
def State.spillWrite (s : State) (gr : Grid) (base off : Nat) (bs : List Byte) : State :=
  (List.range (bs.length / 64 + 1)).foldl (fun (s : State) k =>
    s.applyQuiet ((((List.range 64).zip ((bs.drop (64 * k)).take 64))).filterMap fun x =>
      (s.spillAt gr base (off + 64 * k + x.1)).map fun a => (a, x.2))) s
/-- The slots of a grid's spill ring. -/
def State.spillSlots (s : State) (gr : Grid) (base : Nat) : Nat := leNat (s.spillRead gr base 0 4)
/-- The offset of a slot. -/
def spillSlot (j : Nat) : Nat := 0x40 + 0x4000 * j
/-- The spilled records for a core: SPSEQ and slot. -/
def State.spilledFor (s : State) (gr : Grid) (base core : Nat) : List (Nat × Nat) :=
  (List.range (s.spillSlots gr base)).filterMap fun j =>
    if leNat (s.spillRead gr base (spillSlot j + 0x2C) 4) = 0 then none
    else if leNat (s.spillRead gr base (spillSlot j + 0x0E) 2) = core then
      some (leNat (s.spillRead gr base (spillSlot j + 0xE4) 4), j)
    else none
/-- The lowest free slot of the ring. -/
def State.spillFree (s : State) (gr : Grid) (base : Nat) : Option Nat :=
  (List.range (s.spillSlots gr base)).find? fun j => leNat (s.spillRead gr base (spillSlot j + 0x2C) 4) == 0
/-- The offset of a grid's ring, where it has one. -/
def Grid.spill (gr : Grid) : Option Nat := gr.slalom.bind fun x => x.spill
/-- Is there room for a record of a core (R402, R412)? -/
def State.recordRoom (s : State) (gr : Grid) (core : Nat) : Bool :=
  let spilled := match gr.spill with | some b => s.spilledFor gr b core | none => []
  ((s.core core).leap.any fun l => l.qcount < 8 && spilled.isEmpty)
  || (match gr.spill with | some b => (s.spillFree gr b).isSome | none => false)

/-! ## Wake events -/

/-- Does the wait of a swapped fragment end (R108, R121, R413)? Its group's flags are zero, and nothing of it is
outstanding. -/
def State.wakes (s : State) (w : Swapped) (f : Frag) : Bool :=
  let g := w.group
  match f.wait with
  | .none => f.free
  | .header => f.free
  | .flags _ => f.free
  | .mfence _ => f.free
  | .flagFull _ => f.free
  | .allFlags => f.free
  | .performs => f.free
  | .fence _ => f.free
  | .fenceHold => f.free && !g.frags.any Frag.fencing
  | .sleep till => till ≤ s.clock
  | .barrier b =>
    (match g.unit with
    | .team tk => (match s.team tk with | some t => g.passed t b | none => false)
    | _ => true)
  | .waita m => m.denied.isSome || m.parts.all fun p => p.done || !s.mayReach g.tenant g.unit p.addr || s.guarded p.addr
      || (p.tryWait m.cond (leNat (s.bankRead p.addr p.n)) false).done
  | .waitge m => m.parts.all fun p => p.done || s.errAt p.addr || (p.tryWait 2 (s.readHomeNat p.addr p.n) false).done
  | .depart t _ =>
    (match g.unit with
    | .slalom n => (match s.grid n with
      | some gr => (match gr.segOf t with
        | some k => (gr.segCores k).any fun c => s.recordRoom gr c
        | none => true)
      | none => false)
    | _ => false)
  | _ => false
/-- A wait that outlasts the wait limit while its group is swapped out records TIMEOUT (R451). -/
def State.noteTimeout (s : State) (g : Group) : Group :=
  match g.frags.find? fun f => s.timedOut g f with
  | some f => if g.trap.cause.getLsbD 19 then g else (f.timeoutRec.map fun r => g.record 19 r).getD g
  | none => g
/-- Has a wait of a group ended, or must a TIMEOUT be delivered to it (R115)? -/
def State.awake (s : State) (w : Swapped) : Bool :=
  w.group.frags.any fun f => s.wakes w f || ((s.noteTimeout w.group).timeoutDue && s.timedOut w.group f)
/-- Wake events are marked as they happen. -/
def State.markDue (s : State) : State :=
  if s.swapped = [] then s
  else
    { s with swapped := s.swapped.map fun w =>
        let due := if w.due.isNone && s.awake w then some s.turnNo else w.due
        { w with group := s.noteTimeout w.group, due := due } }

/-- SWAP_OUT (R108): every fragment waits, its flags are zero and nothing of it is outstanding; its core's pool has room
(R435). -/
def swapOut (s : State) (gk : Nat) : State :=
  match s.group gk with
  | none => s
  | some g =>
    if !s.stopped g && s.swappable gk g && !g.uiDue && g.allFlagsClear && g.ops = [] && s.swapRoom (coreOf gk) g.budget then
      s.swapAway gk g
    else s
/-- SWAP_OUT. -/
def execSwapOut (gk : Nat) (s : State) : Host.Outcome State Fault Refusal := .next (s.orWait (swapOut s gk))

/-! ## User interrupts by identity -/

/-- A user interrupt arrives at a group by its number (R110): resident, or swapped out, when it is a wake event. -/
def State.postUiUid (s : State) (uid source : Nat) : State :=
  { s with
    groups := s.groups.map fun x => if x.2.uid = uid then (x.1, x.2.postUi source) else x
    swapped := s.swapped.map fun w =>
      if w.group.uid = uid then { w with group := w.group.postUi source, due := some (w.due.getD s.turnNo) } else w }

end Sys2Proof.Machine
end

