-- ==== Sys2Proof/Machine/CodeObj.lean ====
section
/-! DEFINITION. Code objects: the header's form and the checks of a launch (R25, R90-R92, R487). -/
namespace Sys2Proof.Machine

/-- Fields of a header that the checks of R92 need and a launched object does not keep. -/
structure ObjExtra where
  magic : Nat
  version : Nat
  hdrSize : Nat
  kindHi : Nat
  dataOff : Nat
  dataSize : Nat
  roleCount : Nat
  teamGroups : Nat
  zeroPad : Bool
  /-- the four role entries: GROUPS, BUDGET, NAMEOFF, and whether the reserved bytes are zero -/
  roles : List (Nat × Nat × Nat × Bool)
deriving DecidableEq, Repr

/-- A role entry (R91). -/
def roleEntry (bs : List Byte) (k : Nat) : Nat × Nat × Nat × Bool :=
  let b := 0x80 + 16 * k
  (fieldAt bs b 1, fieldAt bs (b + 2) 2, fieldAt bs (b + 4) 4, fieldAt bs (b + 1) 1 == 0 && fieldAt bs (b + 8) 8 == 0)
/-- What the checks need of a header. -/
def objExtra (bs : List Byte) : ObjExtra :=
  { magic := fieldAt bs 0 4, version := fieldAt bs 4 2, hdrSize := fieldAt bs 6 2, kindHi := fieldAt bs 8 4 / 4
    dataOff := fieldAt bs 0x38 8, dataSize := fieldAt bs 0x40 8, roleCount := fieldAt bs 0x4E 1
    teamGroups := fieldAt bs 0x4F 1
    zeroPad := fieldAt bs 0x5C 4 == 0 && fieldAt bs 0x6A 22 == 0 && fieldAt bs 0xC0 64 == 0
    roles := (List.range 4).map (roleEntry bs) }
/-- The header's fields (R90). -/
def objOf (bs : List Byte) : CodeObj :=
  { kind := fieldAt bs 8 4 % 4, nargs := fieldAt bs 0x0C 1, prio := fieldAt bs 0x0D 1, vbudget := fieldAt bs 0x0E 2
    features := fieldAt bs 0x10 16, entry := fieldAt bs 0x20 8, textOff := fieldAt bs 0x28 8, textSize := fieldAt bs 0x30 8
    scratch := fieldAt bs 0x48 4, guard := fieldAt bs 0x4C 2, ringOff := fieldAt bs 0x50 4, ringEntries := fieldAt bs 0x54 4
    ctableOff := fieldAt bs 0x58 4, segTab := fieldAt bs 0x60 8, segCount := fieldAt bs 0x68 2
    roles := (List.range (min 4 (fieldAt bs 0x4E 1))).map fun k => (fieldAt bs (0x80 + 16 * k) 1, fieldAt bs (0x82 + 16 * k) 2) }

/-- The offset that stands for none. -/
def noOff : Nat := 0xFFFFFFFF
/-- Has the object a command ring? -/
def CodeObj.hasRing (o : CodeObj) : Bool := o.ringOff != noOff
/-- Has the object a completion table? -/
def CodeObj.hasTable (o : CodeObj) : Bool := o.ctableOff != noOff
/-- The end of the command ring. -/
def CodeObj.ringEnd (o : CodeObj) : Nat := o.ringOff + 64 + 32 * o.ringEntries
/-- The end of the completion table. -/
def CodeObj.tableEnd (o : CodeObj) : Nat := o.ctableOff + 512
/-- E of R487. -/
def CodeObj.guardStart (o : CodeObj) : Nat :=
  (max (if o.hasRing then o.ringEnd else 0) (if o.hasTable then o.tableEnd else 0) + 127) / 128 * 128
/-- The conditions of R487. -/
def CodeObj.layoutOk (o : CodeObj) : Bool :=
  (!o.hasRing || o.ringEnd ≤ o.scratch) && (!o.hasTable || o.tableEnd ≤ o.scratch)
  && (!(o.hasRing && o.hasTable) || o.ringEnd ≤ o.ctableOff || o.tableEnd ≤ o.ringOff)
  && o.guardStart + 256 * o.guard ≤ o.scratch
/-- A ring is named with its entries, or neither is (R90). -/
def CodeObj.ringOk (o : CodeObj) : Bool :=
  if o.hasRing then o.ringOff % 32 == 0 && ((List.range 9).any fun i => o.ringEntries == 2 ^ (i + 2))
  else o.ringEntries == 0
/-- The fields that the object's kind has and lacks (R90). -/
def objKindOk (o : CodeObj) (x : ObjExtra) : Bool :=
  match o.kind with
  | 0 => o.vbudget == 0 && 1 ≤ x.roleCount && x.roleCount ≤ 4 && o.segTab == 0 && o.segCount == 0
  | 1 => 1 ≤ o.vbudget && o.vbudget ≤ 256 && x.roleCount == 0 && x.teamGroups == 0 && o.scratch == 0 && o.segTab == 0
      && o.segCount == 0
  | 2 => 1 ≤ o.vbudget && o.vbudget ≤ 256 && x.roleCount == 0 && x.teamGroups == 0 && o.scratch == 0
      && 1 ≤ o.segCount && o.segCount ≤ 256 && o.segTab != 0 && o.segTab % 64 == 0
  | _ => false
/-- Role entries: reserved bytes and names of those in use, zeros above them (R91). -/
def rolesOk (x : ObjExtra) : Bool :=
  (x.roles.zip (List.range 4)).all fun (r : (Nat × Nat × Nat × Bool) × Nat) =>
    if r.2 < x.roleCount then
      r.1.2.2.2 && (r.1.2.2.1 == noOff || (x.dataOff ≤ r.1.2.2.1 && r.1.2.2.1 < x.dataOff + x.dataSize))
    else r.1 == (0, 0, 0, true)
/-- Step 1 of R92. -/
def objFormatOk (o : CodeObj) (x : ObjExtra) : Bool :=
  x.magic == 0x4F495647 && x.version == 0x0100 && x.hdrSize == 256 && x.kindHi == 0 && x.zeroPad && o.kind != 3
  && o.nargs ≤ 8 && o.prio ≤ 3 && o.textOff % 8 == 0 && o.textSize % 8 == 0 && o.entry % 8 == 0
  && o.textOff ≤ o.entry && o.entry < o.textOff + o.textSize
  && o.scratch % 128 == 0 && o.scratch ≤ 2 ^ 18 && o.guard ≤ 15 && o.ringOk
  && (!o.hasTable || o.ctableOff % 8 == 0) && o.layoutOk && objKindOk o x && rolesOk x
/-- Step 3 of R92. -/
def objShapeOk (o : CodeObj) (x : ObjExtra) : Bool :=
  o.kind != 0
  || ((o.roles.all fun r => 1 ≤ r.1 && r.1 ≤ 16 && 1 ≤ r.2 && r.2 ≤ 256)
      && (o.roles.map fun r => r.1 * r.2 * 8).sum ≤ 2048 && 1 ≤ x.teamGroups && x.teamGroups ≤ 16
      && x.teamGroups == (o.roles.map fun r => r.1).sum)
/-- The checks of R92 in order: 1 LAUNCH_FORMAT, 2 LAUNCH_FEATURE, 3 LAUNCH_SHAPE, or the object. -/
def checkObj (bs : List Byte) : Except Nat CodeObj :=
  let o := objOf bs
  let x := objExtra bs
  if !objFormatOk o x then .error 1
  else if o.features / 2 ^ 10 ≠ 0 then .error 2
  else if !objShapeOk o x then .error 3
  else .ok o

/-- The offsets of the names of an object's roles, and the end of its data section (R91). -/
def objNames (bs : List Byte) : List Nat × Nat :=
  let x := objExtra bs
  (((x.roles.take x.roleCount).map fun r => r.2.2.1).filter fun n => n != noOff, x.dataOff + x.dataSize)

/-- The bytes that a tenant reads through an ASID from a global pointer, as the front end and the dispatchers read. -/
def State.readFe (s : State) (t asid : Nat) (tags : List Nat) (p : W64) (n : Nat) :
    State × Except (W64 × AccFault) (List Byte) :=
  match s.spanFe t asid tags permR p n with
  | (s, .error f) => (s, .error f)
  | (s, .ok as) => (s.engineReads t as, .ok (s.gather as))

/-- Does a zero byte end the name at a code-object offset within `n` bytes (R91)? -/
def State.nameEnds (s : State) (t asid : Nat) (code : Nat) : Nat → Nat → State × Except Unit Bool
  | _, 0 => (s, .ok false)
  | off, n + 1 =>
    match s.readFe t asid [0] (BitVec.ofNat 64 (code + off)) 1 with
    | (s, .error _) => (s, .error ())
    | (s, .ok bs) => if bs = [0] then (s, .ok true) else State.nameEnds s t asid code (off + 1) n
/-- Do all names of an object end within its data section? -/
def State.namesOk (s : State) (t asid : Nat) (code fin : Nat) : List Nat → State × Except Unit Bool
  | [] => (s, .ok true)
  | n :: r =>
    match s.nameEnds t asid code n (fin - n) with
    | (s, .error e) => (s, .error e)
    | (s, .ok false) => (s, .ok false)
    | (s, .ok true) => State.namesOk s t asid code fin r

/-- The code object at a pointer (R92): an unreadable header fails like one of the wrong form. -/
def State.readObj (s : State) (t asid : Nat) (p : W64) : State × Except Nat CodeObj :=
  match s.readFe t asid [0] p 256 with
  | (s, .error _) => (s, .error 1)
  | (s, .ok bs) => (s, checkObj bs)

end Sys2Proof.Machine
end

