-- ==== Sys2Proof/Machine/Seq.lean ====
section
/-! DEFINITION. The sequencer instructions (R126-R135) and the steps of the sequencer: REGANG and REGROUP resolution
(R98, R104, R105), barrier returns (R107), SLEEP (R133), user interrupts (R110) and deferrable causes (R116). -/
namespace Sys2Proof.Machine

/-! ## Headers -/

/-- A team begins execution when its first group issues its first clause header (R47). -/
def State.beginTeam (s : State) (u : UnitRef) : State :=
  match u with
  | .team tk => s.updTeam tk fun t => { t with begun := true }
  | _ => s

/-- A fragment reaches a clause header (R53, R54): an illegal one raises ILLEGAL; otherwise the clause begins once every
flag of WAITMASK is zero. A wait that named flags with a DATAERR records it as it passes (R158). -/
def headerWord (s : State) (h : Header) : State :=
  match selected s with
  | none => s
  | some (gk, g, f) =>
    if f.word ≠ 0 then s
    else if !h.ok then takeTrap s gk g f [plainCause 0]
    else
      let f := { f with hw := some h }
      if g.flagsClear h.waitmask.toNat then
        (s.setGroup gk ((g.passFlags h.waitmask.toNat).setFrag { f with word := 1, wait := .none })).beginTeam g.unit
      else if f.wait = .header then s.setGroup gk (g.setFrag f)
      else s.setGroup gk (g.setFrag (f.waitFor .header s.clock))

/-- CLAUSE_HEADER (R54). -/
def execClauseHeader (h : Header) (s : State) : Host.Outcome State Fault Refusal := .next (headerWord s h)

/-! ## Words that act once for their fragment (R127) -/

/-- A word that acts once when a lane is Enabled, and else only advances. -/
def onceWord (i : Instr) (s : State) (o : FOp) (illegal priv : State → Nat → Group → Frag → Bool)
    (run : Nat → Group → Frag → State) : State :=
  onWord i s illegal priv fun gk g f =>
    if enabled g f o.guard = 0 then s.setGroup gk (g.setFrag f.advance) else run gk g f

/-- A predicate in every member lane (R127). -/
def memberPred (f : Frag) (d : Nat) (v : Nat → Bool) : Eff :=
  { p := (laneList f.members).map fun i => (d, i, v i) }
/-- The B operand of a sequencer word: a scalar or the zero-extended immediate (R126). -/
def seqB (g : Group) (f : Frag) (o : FOp) : Nat := opB g f o .zext 1 0

/-- NOP (R126). -/
def execNop (o : FOp) (s : State) : Host.Outcome State Fault Refusal :=
  .next (onceWord (.nop o) s o never never fun gk g f => s.setGroup gk (g.setFrag f.advance))

/-! ## Control transfers (R128) -/

/-- Is a computed target of a lane that takes it misaligned (R55)? -/
def badTarget (o : FOp) (tgt : Group → Frag → Nat → Nat) (_ : State) (_ : Nat) (g : Group) (f : Frag) : Bool :=
  (laneList (enabled g f o.guard)).any fun i => tgt g f i % 8 ≠ 0

/-- A transfer: the link is written, then the fragment divides (R96). DESIGN CHOICE (log 48): the targets are those of the
registers before the link is written, as for every operand (R198), although R128 writes the link first; a link in s126:s127
changes the mask before the division. -/
def branch (i : Instr) (s : State) (o : FOp) (tgt : Group → Frag → Nat → Nat) (link : Group → Frag → Eff) : State :=
  onWord i s (badTarget o tgt) never fun gk g f =>
    let e := link g f
    let g' := { g with regs := writeSs (writeVs g.regs e.v) e.s }
    let f' := { f with mask := writeMask f.mask f.members e.s }
    let s' := s.setGroup gk (if liveLanes f' = 0 then g'.exitLanes s.clock f' f'.members
      else transfer s.clock g' f' (guardLanes g o.guard) (tgt g f))
    s'.taintV gk (e.v.map fun w => w.1)

/-- The target of BRA and CALL: a signed word offset from the next header. -/
def offTarget (o : FOp) (_ : Group) (f : Frag) (_ : Nat) : Nat :=
  (BitVec.ofNat 64 f.nextHdr + o.b.immVal.signExtend 64 * 8).toNat
/-- The target of BRX, CALLX and RET: a pair of each lane, or of scalars. -/
def regTarget (o : FOp) (g : Group) (f : Frag) (i : Nat) : Nat := opA g f o 2 i
/-- No link. -/
def noLink (_ : Group) (_ : Frag) : Eff := {}
/-- The link of CALL and CALLX: a vector pair of each Enabled lane, or a scalar pair when a lane is Enabled. -/
def linkEff (o : FOp) (g : Group) (f : Frag) : Eff :=
  let m := enabled g f o.guard
  if o.x = 1 then (if m = 0 then {} else { s := wordsOf o.d.toNat f.nextHdr 2 })
  else { v := (laneList m).flatMap fun i => vWrites o.d.toNat i f.nextHdr 2 }

/-- BRA (R128). -/
def execBra (o : FOp) (s : State) : Host.Outcome State Fault Refusal :=
  .next (branch (.bra o) s o (offTarget o) noLink)
/-- BRX (R128). -/
def execBrx (o : FOp) (s : State) : Host.Outcome State Fault Refusal :=
  .next (branch (.brx o) s o (regTarget o) noLink)
/-- CALL (R128). -/
def execCall (o : FOp) (s : State) : Host.Outcome State Fault Refusal :=
  .next (branch (.call o) s o (offTarget o) (linkEff o))
/-- CALLX (R128). -/
def execCallx (o : FOp) (s : State) : Host.Outcome State Fault Refusal :=
  .next (branch (.callx o) s o (regTarget o) (linkEff o))
/-- RET (R128): as BRX. -/
def execRet (o : FOp) (s : State) : Host.Outcome State Fault Refusal :=
  .next (branch (.ret o) s o (regTarget o) noLink)
/-- EXIT (R128): Enabled lanes exit; the others continue at the next header. -/
def execExit (o : FOp) (s : State) : Host.Outcome State Fault Refusal :=
  .next (onWord (.exit o) s never never fun gk g f =>
    s.setGroup gk (g.exitLanes s.clock f.advance (enabled g f o.guard)))

/-! ## REGANG (R97, R98) -/

/-- A fragment begins to wait at REGANG: the youngest deferred entry of each of its slices is released. -/
def Group.regang (g : Group) (f : Frag) (now : Nat) : Group :=
  (slicesOf f.members).foldl (fun g k => g.releaseYoungest now k) (g.setFrag (f.waitFor .regang now))

/-- REGANG (R98). -/
def execRegang (o : FOp) (s : State) : Host.Outcome State Fault Refusal :=
  .next (onWord (.regang o) s never never fun gk g f => s.setGroup gk (g.regang f s.clock))

/-- What a fragment does after a wait that needs no further issue. One restored from an image has its clause's header
read again first, for the LEN and YLD in force (R58, R121). -/
def withHeader (s : State) (gk : Nat) (g : Group) (f : Frag) (go : State → Frag → State) : State :=
  match f.hw with
  | some _ => go s f
  | none =>
    match s.fetchHeader gk g f f.hdr with
    | (s, .error c) => takeTrap s gk g { f with wait := .none } [c]
    | (s, .ok h) => go s { f with hw := some h }
/-- A fragment's wait is over: it goes on to its next word. -/
def waitOver (s : State) (gk : Nat) (g : Group) (f : Frag) : State :=
  withHeader s gk g f fun s f => s.setGroup gk (g.setFrag f.advance)

/-- Fragments at one word fuse and proceed to the header after its clause (R98). While they are gathered, a fragment's
number is the address of its word. -/
def fuseAll : List Frag → List Frag
  | [] => []
  | f :: r =>
    let rest := fuseAll r
    let on := { f.goto f.nextHdr with paused := f.paused || (match f.hw with | some h => h.yld | none => false) }
    match rest.find? fun x => x.hdr == on.hdr && x.id == f.addr with
    | some x =>
      { x with members := x.members ||| f.members, mask := x.mask ||| f.mask, age := max x.age f.age }
        :: rest.filter fun y => !(y.hdr == x.hdr && y.id == x.id)
    | none => { on with id := f.addr } :: rest

/-- REGANG_RESOLVE (R98): every live fragment of the group waits at a REGANG, so that R97 has released every deferred
entry. Headers of restored fragments are read
again first, one a turn. -/
def regangResolve (s : State) (gk : Nat) : State :=
  match s.group gk with
  | none => s
  | some g =>
    if s.stopped g || g.frags = [] || g.frags.any fun f => f.wait != .regang then s
    else
      match g.frags.find? fun (f : Frag) => f.hw.isNone with
      | some f => withHeader s gk g f fun s f => s.setGroup gk (g.setFrag f)
      | none =>
        let fs := fuseAll g.frags
        let fs := (fs.zip (List.range fs.length)).map fun (x : Frag × Nat) =>
          { x.1 with id := g.nextFrag + x.2, since := s.clock }
        s.setGroup gk { g with frags := fs, nextFrag := g.nextFrag + fs.length }

/-- REGANG_RESOLVE. -/
def execRegangResolve (gk : Nat) (s : State) : Host.Outcome State Fault Refusal := .next (s.orWait (regangResolve s gk))

/-! ## REGROUP (R104, R105) -/

/-- A group that waits at REGROUP arrives once its flags are all zero; `t`, the cycle, orders arrivals. -/
def Group.arriveAt (g : Group) (t : Nat) : Group :=
  let here := g.frags.any fun f => match f.wait with | .regroup _ _ _ => true | _ => false
  if here && g.arrivedAt.isNone && g.allFlagsClear then { g with arrivedAt := some t } else g

/-- The end of a REGROUP: pD in every member lane, and the group proceeds. -/
def regroupOut (now : Nat) (g : Group) (f : Frag) (d : Nat) (v : Bool) : Group :=
  applyEff now { g with arrivedAt := none } f (memberPred f d fun _ => v)

/-- REGROUP (R104): a group of a team with one fragment and no deferred entry waits; any other gets pD false. -/
def execRegroup (o : FOp) (s : State) : Host.Outcome State Fault Refusal :=
  .next (onWord (.regroup o) s never never fun gk g f =>
    match g.unit with
    | .team _ =>
      if g.frags.length = 1 && g.deferred = [] then
        s.setGroup gk ((g.setFrag (f.waitFor (.regroup o.d.toNat o.a.idx.toNat o.cv) s.clock)).arriveAt s.clock)
      else s.setGroup gk (regroupOut s.clock g f o.d.toNat false)
    | _ => s.setGroup gk (regroupOut s.clock g f o.d.toNat false))

/-- A group that has arrived at a REGROUP: its key, its fragment, and the word's operands. -/
structure Arrived where
  gk : Nat
  g : Group
  f : Frag
  d : Nat
  a : Nat
  b : Nat
  at_ : Nat

/-- The arrived group in a slot. -/
def State.arrivedIn (s : State) (x : Nat × Group) : Option Arrived :=
  if s.stopped x.2 then none
  else
    match x.2.frags, x.2.arrivedAt with
    | [f], some t =>
      (match f.wait with
      | .regroup d a b => some { gk := x.1, g := x.2, f := f, d := d, a := a, b := b, at_ := t }
      | _ => none)
    | _, _ => none
/-- Earlier of two arrivals: the lower SR.GROUP where they come together. -/
def Arrived.before (a b : Arrived) : Bool := a.at_ < b.at_ || (a.at_ == b.at_ && a.g.gnum < b.g.gnum)
/-- The earliest of a list. -/
def Arrived.first (l : List Arrived) : Option Arrived :=
  l.foldl (fun acc x =>
    match acc with
    | none => some x
    | some y => if x.before y then some x else some y) none
/-- The arrived groups of a team. -/
def State.arrivals (s : State) (tk : Nat) : List Arrived :=
  (s.groups.filter fun x => x.2.unit == .team tk).filterMap s.arrivedIn
/-- The partners of an arrived group: those at the same word. -/
def Arrived.partners (x : Arrived) (l : List Arrived) : List Arrived :=
  l.filter fun y => y.gk != x.gk && y.f.addr == x.f.addr

/-- A lane moves from the second group of a REGROUP to the first: vA to vB and p0 to p6 are copied, and its other
registers hold undefined values, named by a new seed (R104). -/
def moveLane (first second : Regs) (a b old new seed : Nat) : Regs :=
  let r := { first with v := first.v.filter fun x => x.1 % 96 != new, lSeed := Tab.put first.lSeed new seed }
  let r := (List.range (b + 1 - a)).foldl (fun (r : Regs) k => r.writeV (a + k) new (second.readV (a + k) old)) r
  (List.range 7).foldl (fun (r : Regs) p => r.writeP p new ((second.readP p).getLsbD old)) r

/-- Does a REGROUP read, of a group's lanes, a register with an uncorrectable error (R479): vA to vB, or p0 to p6? -/
def regroupBad (r : Regs) (a b : Nat) (lanes : List Nat) : Bool :=
  r.bad ≠ [] && lanes.any fun l =>
    ((List.range (b + 1 - a)).any fun k => r.bad.contains (badReg .v (a + k) l))
    || (List.range 7).any fun p => r.bad.contains (badReg .p p l)
/-- What a REGROUP that has read such a register gives a moved lane is undefined. -/
def freeLane (r : Regs) (a b new ctr : Nat) : Regs :=
  let r := (List.range (b + 1 - a)).foldl (fun (r : Regs) k =>
    r.writeV (a + k) new (Config.freeWord ctr (badReg .v (a + k) new))) r
  (List.range 7).foldl (fun (r : Regs) p => r.writeP p new ((Config.freeWord ctr (badReg .p p new)).getLsbD (new % 32))) r

/-- Two arrived groups are paired (R104). The registers that the moved lanes take are written (R267), and the second group
retires, with the marks of its requests that no MWAIT has covered (R282). A moved register with an uncorrectable error leaves
the word's destinations undefined, and records DATAERR (R479). -/
def fusePair (s : State) (tk : Nat) (x y : Arrived) : State :=
  if 96 < laneCount x.f.mask + laneCount y.f.mask then
    (s.setGroup x.gk (regroupOut s.clock x.g x.f x.d false)).setGroup y.gk (regroupOut s.clock y.g y.f y.d false)
  else
    let src := laneList y.f.mask
    let dst := (laneList (~~~ x.f.mask)).take src.length
    let regs := (src.zip dst).foldl (fun (r : Regs) p => moveLane r y.g.regs x.a x.b p.1 p.2 (s.nextUid + p.2)) x.g.regs
    let new := lanesOf fun i => dst.contains i
    let f := { x.f with members := x.f.members ||| new, mask := x.f.mask ||| new }
    let bad := regroupBad y.g.regs x.a x.b src
    let regs := if bad then dst.foldl (fun (r : Regs) l => freeLane r x.a x.b l s.freeCtr) regs else regs
    let g := { x.g with regs := regs, exited := x.g.exited &&& ~~~ new }
    let out := if bad then
        (applyEff s.clock { g.setFrag f with arrivedAt := none } f (memberPred f x.d fun i =>
          (Config.freeWord s.freeCtr (badReg .p 7 i)).getLsbD (i % 32))).record 11 { eaddr := 0, detail := 0 }
      else regroupOut s.clock (g.setFrag f) f x.d true
    let s := { s.setGroup x.gk out with nextUid := s.nextUid + 96, freeCtr := s.freeCtr + bitOf bad }
    let s := if src = [] then s else s.taintV x.gk ((List.range (x.b + 1 - x.a)).map fun k => x.a + k)
    s.endTeamGroup y.gk y.g tk

/-- A fragment that an image has put at a REGROUP has its clause's header read again, for the LEN and YLD in force (R58,
R121); `go` once it has been read. -/
def State.regroupReady (s : State) (x : Arrived) (go : State) : State :=
  if x.f.hw.isSome then go else withHeader s x.gk x.g x.f fun s f => s.setGroup x.gk (x.g.setFrag f)
/-- REGROUP_FUSE (R104): the earliest arrived group of the team that has a partner is paired with its earliest partner, in
a later cycle, so that all that arrive in one cycle are ordered. What the second group has outstanding without a flag,
reductions and matrix requests, is first applied. -/
def regroupFuse (s : State) (tk : Nat) : State :=
  let l := s.arrivals tk
  match Arrived.first (l.filter fun x => !(x.partners l).isEmpty) with
  | none => s
  | some x =>
    match Arrived.first (x.partners l) with
    | none => s
    | some y =>
      if y.g.ops = [] && y.at_ < s.clock && s.groupMxDone y.g.uid then s.regroupReady x (s.regroupReady y (fusePair s tk x y))
      else s

/-- REGROUP_FUSE. -/
def execRegroupFuse (tk : Nat) (s : State) : Host.Outcome State Fault Refusal := .next (s.orWait (regroupFuse s tk))

/-- Does a group count as waiting for R105, seen from a REGROUP at an address: at a REGROUP of another word, at a
barrier, or in WAITA, WAITGE or SLEEP? -/
def Group.waitsFor (g : Group) (addr : Nat) : Bool :=
  g.frags.all fun f =>
    match f.wait with
    | .regroup _ _ _ => f.addr != addr
    | .barrier _ => true
    | .waita _ => true
    | .waitge _ => true
    | .sleep _ => true
    | _ => false

/-- REGROUP_LONE_RELEASE (R105). -/
def regroupLone (s : State) (gk : Nat) : State :=
  match s.group gk with
  | none => s
  | some g =>
    match g.unit, s.arrivedIn (gk, g) with
    | .team tk, some x =>
      if (x.partners (s.arrivals tk)).isEmpty
          && (s.groups.all fun y => y.1 == gk || y.2.unit != .team tk || y.2.waitsFor x.f.addr)
          && (s.swapped.all fun y => y.group.unit != .team tk || y.group.waitsFor x.f.addr) then
        s.regroupReady x (s.setGroup gk (regroupOut s.clock g x.f x.d false))
      else s
    | _, _ => s

/-- REGROUP_LONE_RELEASE. -/
def execRegroupLoneRelease (gk : Nat) (s : State) : Host.Outcome State Fault Refusal := .next (s.orWait (regroupLone s gk))

/-! ## ELECT, CLAIM, GIVEBACK (R130, R131) -/

/-- ELECT (R130): true in the lowest Enabled lane, false in every other member lane. -/
def execElect (o : FOp) (s : State) : Host.Outcome State Fault Refusal :=
  .next (onWord (.elect o) s never never fun gk g f =>
    let low := (laneList (enabled g f o.guard)).head?
    s.setGroup gk (applyEff s.clock g f (memberPred f o.d.toNat fun i => low == some i)))

/-- Does CLAIM of `n` units succeed (R131)? -/
def claimOk (s : State) (gk : Nat) (g : Group) (n : Nat) : Bool :=
  let reserve := match g.unit with
    | .team tk => ((s.team tk).map fun t => 8 * t.reserve).getD 0
    | _ => 0
  1 ≤ n && n ≤ 256 && g.budget + 8 * n ≤ 2048 && 8 * n ≤ reserve + s.claimable (coreOf gk)

/-- A team's reserve gives or takes units (R102). -/
def State.reserveTake (s : State) (g : Group) (n : Nat) : State :=
  match g.unit with
  | .team tk => s.updTeam tk fun t => { t with reserve := t.reserve - n }
  | _ => s
/-- Units return to the team reserve, or to the core's free pool. -/
def State.reserveGive (s : State) (g : Group) (n : Nat) : State :=
  match g.unit with
  | .team tk => s.updTeam tk fun t => { t with reserve := t.reserve + n }
  | _ => s

/-- A grown budget: the new registers hold undefined values, named by new seeds (R103). -/
def Group.grow (g : Group) (n seed : Nat) : Group :=
  { g with
    budget := g.budget + 8 * n
    regs := { g.regs with uSeed := (List.range n).foldl (fun t k => Tab.put t (g.budget / 8 + k) (seed + k)) g.regs.uSeed } }
/-- A shrunk budget: the released registers' values are lost (R103). -/
def Group.shrink (g : Group) (n : Nat) : Group :=
  let b := g.budget - 8 * n
  { g with budget := b, regs := { g.regs with v := g.regs.v.filter fun x => x.1 / 96 < b } }

/-- CLAIM (R131). -/
def execClaim (o : FOp) (s : State) : Host.Outcome State Fault Refusal :=
  .next (onceWord (.claim o) s o never never fun gk g f =>
    let n := seqB g f o
    let e (ok : Bool) := memberPred f o.d.toNat fun _ => ok
    if claimOk s gk g n then
      { (s.reserveTake g n).setGroup gk (applyEff s.clock (g.grow n s.nextUid) f (e true)) with
        nextUid := s.nextUid + n }
    else s.setGroup gk (applyEff s.clock g f (e false)))

/-- GIVEBACK (R131): it waits until every flag of the group is zero. -/
def execGiveback (o : FOp) (s : State) : Host.Outcome State Fault Refusal :=
  .next (onceWord (.giveback o) s o never never fun gk g f =>
    if !g.allFlagsClear then waitWord s gk g f .allFlags
    else
      let n := seqB g f o
      let e (ok : Bool) := memberPred f o.d.toNat fun _ => ok
      if 1 ≤ n && n ≤ 256 && 8 * n < g.budget then
        (s.reserveGive g n).setGroup gk (applyEff s.clock (g.shrink n) f (e true))
      else s.setGroup gk (applyEff s.clock g f (e false)))

/-! ## Barriers (R106, R107, R132) -/

/-- A barrier word outside a team raises ILLEGAL (R27, R28, R132). -/
def noTeam (_ : State) (_ : Nat) (g : Group) (_ : Frag) : Bool :=
  match g.unit with
  | .team _ => false
  | _ => true

/-- The group arrives at a barrier of its team (R106); a count above 16 is taken as 16 (R132). -/
def State.arriveBar (s : State) (g : Group) (b cnt : Nat) : State × Group :=
  match g.unit with
  | .team tk =>
    (match s.team tk with
    | none => (s, g)
    | some t =>
      let r := t.arrive b g.gnum (min cnt 16)
      ({ s with teams := Tab.put s.teams tk r.1 },
       match r.2 with
       | none => g
       | some n => { g with arrgen := Tab.put g.arrgen b n }))
  | _ => (s, g)

/-- Has the barrier passed, for the group? -/
def State.passedBar (s : State) (g : Group) (b : Nat) : Bool :=
  match g.unit with
  | .team tk => ((s.team tk).map fun t => g.passed t b).getD true
  | _ => true

/-- A wait at a barrier: it returns at once where the barrier has passed (R107). -/
def barWait (s : State) (gk : Nat) (g : Group) (f : Frag) (b : Nat) : State :=
  if s.passedBar g b then s.setGroup gk (g.takeGuard.setFrag f.advance)
  else s.setGroup gk (g.setFrag (f.waitFor (.barrier b) s.clock))

/-- BARARV (R132). -/
def execBararv (o : FOp) (s : State) : Host.Outcome State Fault Refusal :=
  .next (onceWord (.bararv o) s o noTeam never fun gk g f =>
    if !g.allPerformed then waitWord s gk g f .performs
    else
      let r := s.arriveBar g o.d.toNat (seqB g f o)
      r.1.setGroup gk (r.2.setFrag f.advance))
/-- BARWT (R132). -/
def execBarwt (o : FOp) (s : State) : Host.Outcome State Fault Refusal :=
  .next (onceWord (.barwt o) s o noTeam never fun gk g f => barWait s gk g f o.d.toNat)
/-- BARSYN (R132). -/
def execBarsyn (o : FOp) (s : State) : Host.Outcome State Fault Refusal :=
  .next (onceWord (.barsyn o) s o noTeam never fun gk g f =>
    if !g.allPerformed then waitWord s gk g f .performs
    else
      let r := s.arriveBar g o.d.toNat (seqB g f o)
      barWait r.1 gk r.2 f o.d.toNat)

/-- BARRIER_WAIT_RETURN (R107): a fragment that waits at a barrier finds it passed. -/
def barrierReturn (s : State) (gk fid : Nat) : State :=
  match s.group gk with
  | none => s
  | some g =>
    match g.frag fid with
    | none => s
    | some f =>
      match f.wait with
      | .barrier b =>
        if s.stopped g || !f.free || !s.passedBar g b then s else waitOver s gk g.takeGuard f
      | _ => s

/-- BARRIER_WAIT_RETURN. -/
def execBarrierWaitReturn (gk fid : Nat) (s : State) : Host.Outcome State Fault Refusal := .next (s.orWait (barrierReturn s gk fid))

/-! ## YIELD, SLEEP, WAITF (R133) -/

/-- The fragment goes on, and is not considered at the next selection. -/
def yieldNow (s : State) (gk : Nat) (g : Group) (f : Frag) : State :=
  s.setGroup gk (g.setFrag { f.advance with paused := true })

/-- YIELD (R133). -/
def execYield (o : FOp) (s : State) : Host.Outcome State Fault Refusal :=
  .next (onceWord (.yield o) s o never never fun gk g f => yieldNow s gk g f)
/-- SLEEP (R133): SLEEP 0 acts as YIELD. -/
def execSleep (o : FOp) (s : State) : Host.Outcome State Fault Refusal :=
  .next (onceWord (.sleep o) s o never never fun gk g f =>
    let n := seqB g f o
    if n = 0 then yieldNow s gk g f else waitWord s gk g f (.sleep (s.clock + n)))

/-- SLEEP_EXPIRE (R133). -/
def sleepExpire (s : State) (gk fid : Nat) : State :=
  match s.group gk with
  | none => s
  | some g =>
    match g.frag fid with
    | none => s
    | some f =>
      match f.wait with
      | .sleep till =>
        if s.stopped g || !f.free || s.clock < till then s else waitOver s gk g f
      | _ => s

/-- SLEEP_EXPIRE. -/
def execSleepExpire (gk fid : Nat) (s : State) : Host.Outcome State Fault Refusal := .next (s.orWait (sleepExpire s gk fid))

/-- WAITF (R133): it waits whatever lanes are Enabled (R127); a flag that held a DATAERR records it now. -/
def execWaitf (o : FOp) (s : State) : Host.Outcome State Fault Refusal :=
  .next (onWord (.waitf o) s never never fun gk g f =>
    let m := o.b.immVal.toNat % 2 ^ 12
    if g.flagsClear m then s.setGroup gk ((g.passFlags m).setFrag f.advance) else waitWord s gk g f (.flags m))

/-! ## Special registers (R111, R134) -/

/-- The value of special register `n` in lane `i` (R111). -/
def srValue (s : State) (gk : Nat) (g : Group) (n i : Nat) : Nat :=
  let core := coreOf gk
  match n with
  | 0 => i
  | 1 => i / 4
  | 2 => g.gnum
  | 3 => g.role
  | 4 => g.tx
  | 5 => g.ty
  | 6 => g.tz
  | 7 => core % 4
  | 8 => clusterOf core % 12
  | 9 => dieOf core
  | 10 => s.clock % 2 ^ 64
  | 11 => g.budget
  | 12 => (match g.unit with
    | .slalom _ => ((s.core core).leap.bind fun l => l.seg).getD 0xFFFFFFFF
    | _ => 0xFFFFFFFF)
  | 13 => g.swapt
  | 14 => g.fpmode.toNat
  | 15 => g.fpflags.toNat
  | 16 => g.trap.cause.toNat
  | 17 => g.trap.tmask.toNat
  | 18 => g.trap.plevel
  | 19 => g.trap.epc.toNat
  | 20 => g.trap.hvec.toNat
  | 21 => g.trap.eaddr.toNat
  | 22 => g.trap.einfo.toNat
  | 23 => g.trap.uivec.toNat
  | 24 => g.trap.uiepc.toNat
  | 25 => g.trap.uisrc.toNat
  | _ => if g.trap.uien then 1 else 0

/-- RDSR (R134). -/
def execRdsr (o : FOp) (s : State) : Host.Outcome State Fault Refusal :=
  .next (onceWord (.rdsr o) s o never never fun gk g f =>
    let n := o.a.idx.toNat
    let k := if sr64 n then 2 else 1
    let e : Eff :=
      if o.x = 1 then { s := wordsOf o.d.toNat (srValue s gk g n 0) k }
      else { v := (laneList (enabled g f o.guard)).flatMap fun i => vWrites o.d.toNat i (srValue s gk g n i) k }
    (s.setGroup gk (applyEff s.clock g f e)).taintV gk (e.v.map fun w => w.1))

/-- The writable bits of SR.TMASK (R111). -/
def tmaskBits : W32 := 0x000B0FC0

/-- Write a special register under its field rules (R109, R111, R134); a write of SR.EPC or SR.UIEPC discards its clause
context (R58). DESIGN CHOICE (log 48): SR.SWAPT keeps and reads back a written value below 256, which R109 takes as 256. -/
def writeSr (g : Group) (n : Nat) (x : Nat) : Group :=
  let w32 := BitVec.ofNat 32 x
  let w64 := BitVec.ofNat 64 x
  match n with
  | 13 => { g with swapt := x % 2 ^ 32 }
  | 14 => { g with fpmode := w32 &&& 0x3F }
  | 15 => { g with fpflags := w32 &&& 0x1F }
  | 17 => { g with trap := { g.trap with tmask := w32 &&& tmaskBits } }
  | 19 => { g with trap := { g.trap with epc := w64, epcHw := false } }
  | 23 => { g with trap := { g.trap with uivec := w64 } }
  | 24 => { g with trap := { g.trap with uiepc := w64, uiepcHw := false } }
  | 26 => { g with trap := { g.trap with uien := x % 2 == 1 } }
  | _ => g

/-- The write level of a special register above the group's level raises PRIV (R111, R112). -/
def wrsrPriv (o : FOp) (_ : State) (_ : Nat) (g : Group) (_ : Frag) : Bool :=
  let n := o.d.toNat
  n == 20 || (n == 19 && g.trap.plevel == 0)

/-- WRSR (R134); from a register with an uncorrectable error, it writes an undefined value (R479). -/
def execWrsr (o : FOp) (s : State) : Host.Outcome State Fault Refusal :=
  .next (onceWord (.wrsr o) s o never (wrsrPriv o) fun gk g f =>
    let n := o.d.toNat
    let x := if readsBad (.wrsr o) g f then (Config.freeWord s.freeCtr 0).toNat + 2 ^ 32 * (Config.freeWord s.freeCtr 1).toNat
      else if o.b.isImm then o.b.immVal.toNat else opA g f o (if sr64 n then 2 else 1) 0
    s.setGroup gk ((writeSr g n x).setFrag f.advance))

/-! ## Traps (R119, R135) -/

/-- At level 0, TRET and CAUSECLR raise PRIV (R127, R135). -/
def atLevel0 (_ : State) (_ : Nat) (g : Group) (_ : Frag) : Bool := g.trap.plevel == 0

/-- TRAP (R135): SWTRAP with IMM22 in SR.EINFO. -/
def execTrap (o : FOp) (s : State) : Host.Outcome State Fault Refusal :=
  .next (onceWord (.trap o) s o never never fun gk g f =>
    takeTrap s gk g f [(13, { eaddr := 0, detail := o.b.immVal.toNat })])

/-- Halt a unit for the debugger (R482): all its groups stop where they are. -/
def State.haltUnit (s : State) (u : UnitRef) : State :=
  { s with
    groups := s.groups.map fun (x : Nat × Group) => if x.2.unit = u then (x.1, { x.2 with halted := true }) else x
    swapped := s.swapped.map fun x => if x.group.unit = u then { x with group := { x.group with halted := true } } else x }

/-- BKPT (R135): the cause BKPT, or, in a partition that a debugger has claimed, a halt of the unit. -/
def execBkpt (o : FOp) (s : State) : Host.Outcome State Fault Refusal :=
  .next (onceWord (.bkpt o) s o never never fun gk g f =>
    if s.fe.claim = some g.part then
      (s.setGroup gk (g.setFrag (f.waitFor (.bkpt o.b.immVal.toNat) s.clock))).haltUnit g.unit
    else takeTrap s gk g f [(14, { eaddr := 0, detail := o.b.immVal.toNat })])

/-- CAUSECLR (R135, R117). -/
def execCauseclr (o : FOp) (s : State) : Host.Outcome State Fault Refusal :=
  .next (onceWord (.causeclr o) s o never atLevel0 fun gk g f =>
    let m := BitVec.ofNat 32 (seqB g f o)
    let t := { g.trap with cause := g.trap.cause &&& ~~~ m, info := g.trap.info.filter fun e => !m.getLsbD e.1 }
    s.setGroup gk ({ g with trap := t }.setFrag f.advance))

/-- TMASK (R135): the old mask in sD, then the new one. -/
def execTmask (o : FOp) (s : State) : Host.Outcome State Fault Refusal :=
  .next (onceWord (.tmask o) s o never never fun gk g f =>
    let b := BitVec.ofNat 32 (seqB g f o)
    let old := g.trap.tmask
    let new := if o.x = 1 then old ||| b else if o.x = 2 then old &&& ~~~ b else b
    let g := { g with trap := { g.trap with tmask := new &&& tmaskBits } }
    s.setGroup gk (applyEff s.clock g f { s := [(o.d.toNat, old)] }))

/-- UIMASK (R135): 1 clears SR.UIEN, 0 sets it. -/
def execUimask (o : FOp) (s : State) : Host.Outcome State Fault Refusal :=
  .next (onceWord (.uimask o) s o never never fun gk g f =>
    s.setGroup gk ({ g with trap := { g.trap with uien := o.b.immVal == 0 } }.setFrag f.advance))

/-- Where a return goes (R58): into the clause that hardware kept, or to a header at the written address. The return ends
its own clause, whose YLD pauses the fragment (R59). -/
def Frag.returnTo (f : Frag) (pc : W64) (hdr : Nat) (hw : Bool) : Frag :=
  let f := { f with paused := f.paused || (match f.hw with | some h => h.yld | none => false) }
  if hw && pc.toNat != hdr then
    { f with hdr := hdr, word := (pc.toNat - hdr) / 8, hw := none, wait := .none }
  else f.goto pc.toNat

/-- URET with no user interrupt active, or back to a misaligned address that software wrote, raises ILLEGAL (R58,
R135). -/
def uretIllegal (_ : State) (_ : Nat) (g : Group) (_ : Frag) : Bool :=
  !g.trap.uiact || (!g.trap.uiepcHw && g.trap.uiepc.toNat % 8 != 0)

/-- URET (R113). -/
def execUret (o : FOp) (s : State) : Host.Outcome State Fault Refusal :=
  .next (onWord (.uret o) s uretIllegal never fun gk g f =>
    let t := g.trap
    let f' := { f.returnTo t.uiepc t.uiepcHdr t.uiepcHw with since := s.clock }
    s.setGroup gk { g with
      trap := { t with uiact := false, uien := true }
      frags := g.frags.map fun x => if x.id = f.id then f' else { x with heldUi := false }
      deferred := g.deferred.map fun d => { d with heldUi := false } })

/-- The cause whose values the handler receives as TRET enters it again: the lowest unmasked deferrable cause that is set
(R117, R119). DESIGN CHOICE (log 36): where only synchronous causes are left, the lowest of them. -/
def leadCause (t : TrapSt) : Option Nat :=
  match dueCauses t with
  | c :: _ => some c
  | [] => (List.range 20).find? fun c => t.cause.getLsbD c && !t.tmask.getLsbD c

/-- The handler has ended: a cause that is still set and not masked enters it again at once (R119). -/
def afterTret (s : State) (gk : Nat) (g : Group) (f : Frag) : State :=
  match leadCause g.trap with
  | none => s.setGroup gk g
  | some c =>
    match g.frag f.id with
    | none => s.setGroup gk g
    | some f =>
      if g.trap.plevel ≠ 0 then s.setGroup gk g
      else if g.trap.hvec = 0 then s.killAt gk g f c
      else if !s.inSegment (coreOf gk) g g.trap.hvec.toNat then s.killVector gk g f g.trap.hvec
      else s.setGroup gk (g.enter s.clock f c)

/-- The cause that a TRET.kill names (R119, R384): the lowest bit set in SR.CAUSE, or 0xFF for none. -/
def killCause (t : TrapSt) : Nat := ((List.range 20).find? fun c => t.cause.getLsbD c).getD 0xFF

/-- A TRET that returns to a misaligned address that software wrote raises ILLEGAL (R58). -/
def tretIllegal (_ : State) (_ : Nat) (g : Group) (_ : Frag) : Bool :=
  g.trap.plevel != 0 && !g.trap.epcHw && g.trap.epc.toNat % 8 != 0

/-- The retry count of a task group (R385). -/
def Group.retry (g : Group) : Group :=
  { g with task := g.task.map fun t => { t with retries := min 255 (t.retries + 1) } }

/-- TRET.resume (R119). -/
def execTretResume (o : FOp) (s : State) : Host.Outcome State Fault Refusal :=
  .next (onWord (.tretResume o) s tretIllegal atLevel0 fun gk g f =>
    let t := g.trap
    let f' := { f.returnTo t.epc t.epcHdr t.epcHw with since := s.clock }
    afterTret s gk (g.retry.leave s.clock f') f')

/-- TRET.skip (R119): a task ends as skipped; otherwise the fragment continues at the word after SR.EPC. At a header, or
with SR.EPC written by software (R58), it acts as kill. -/
def tretSkip (s : State) (gk : Nat) (g : Group) (f : Frag) : State :=
  let t := g.trap
  match g.unit with
  | .task _ =>
    s.setGroup gk { g with frags := [], deferred := [], exited := allLanes, ending := .skipped }
  | _ =>
    if !t.epcHw || t.epc.toNat == t.epcHdr then (s.setGroup gk g).killUnit (coreOf gk) g (killCause t)
    else
      match s.fetchHeader gk g f t.epcHdr with
      | (s, .error c) => takeTrap s gk g f [c]
      | (s, .ok h) =>
        let f' := { ({ f.returnTo t.epc t.epcHdr true with hw := some h }).advance with since := s.clock }
        afterTret s gk (g.leave s.clock f') f'

/-- TRET.skip (R119). -/
def execTretSkip (o : FOp) (s : State) : Host.Outcome State Fault Refusal :=
  .next (s.orWait (onWord (.tretSkip o) s never atLevel0 fun gk g f => tretSkip s gk g f))

/-- TRET.kill (R119). -/
def execTretKill (o : FOp) (s : State) : Host.Outcome State Fault Refusal :=
  .next (onWord (.tretKill o) s never atLevel0 fun gk g _ =>
    (s.setGroup gk g).killUnit (coreOf gk) g (killCause g.trap))

/-! ## Deliveries (R110, R115, R116, R451) -/

/-- Does a fragment stand at an instruction word, not at a header? Deliveries at a boundary take the place of an
instruction word; a header that can be passed is passed first (log 30). -/
def Frag.atWord (f : Frag) : Bool := f.word != 0

/-! ## Selection (R99) -/

/-- The groups of a core with their fragments. -/
def State.fragsOn (s : State) (core : Nat) : List (Nat × Group × Frag) :=
  (s.groupsOn core).flatMap fun x => x.2.frags.map fun f => (x.1, x.2, f)

/-- The rank of an eligible fragment (R99): saturated counters first, then the priority class, the counter, the lower
slot and the lower first slice. -/
def issueRank (x : Nat × Group × Frag) : Nat :=
  let f := x.2.2
  let slice := ((slicesOf f.members).head?).getD 0
  (if 1024 ≤ f.age then 2 ^ 40 else 0) + x.2.1.prio * 2 ^ 32 + f.age * 2 ^ 16 + (31 - x.1 % 32) * 2 ^ 8 + (23 - slice)

/-- The fragment of the highest rank. DESIGN CHOICE (log 36): R99 does not part two fragments of one group that share
their lowest slice and their counter, and the first in the group's list is taken. -/
def pickFrag (l : List (Nat × Group × Frag)) : Option (Nat × Group × Frag) :=
  l.foldl (fun acc x =>
    match acc with
    | none => some x
    | some y => if issueRank y < issueRank x then some x else some y) none

/-- One fragment after a selection: the selected one's ageing counter is zero, one passed over rises (R99), and its pause
ends (R59, R133). -/
def Frag.aged (f : Frag) (gk : Nat) (considered : List (Nat × Group × Frag)) (sel : Option (Nat × Nat)) : Frag :=
  let age := if sel = some (gk, f.id) then 0
    else if considered.any fun y => y.1 == gk && y.2.2.id == f.id then min 1024 (f.age + 1)
    else f.age
  { f with paused := false, age := age }
/-- The fragments of a core after a selection. -/
def State.aged (s : State) (core : Nat) (considered : List (Nat × Group × Frag)) (sel : Option (Nat × Nat)) : State :=
  { s with groups := s.groups.map fun (x : Nat × Group) =>
      if x.1 / 32 = core then (x.1, { x.2 with frags := x.2.frags.map fun f => f.aged x.1 considered sel }) else x }

/-- The fragments that a selection considers: the eligible ones, without those that have paused unless all have (R59, R99,
R133). -/
def State.considered (s : State) (core : Nat) : List (Nat × Group × Frag) :=
  let ready := (s.fragsOn core).filter fun x => s.mayIssue x.1 x.2.1 x.2.2
  let unpaused := ready.filter fun x => !x.2.2.paused
  if unpaused.isEmpty then ready else unpaused
/-- The fragment that a core selects (R99). -/
def State.picked (s : State) (core : Nat) : Option (Nat × Group × Frag) := pickFrag (s.considered core)
/-- Is a fragment the one to which a group's due causes go (R115): the waiting one, where TIMEOUT is due and one still waits
beyond the limit; otherwise the one that its core selects, in this turn or now, before an instruction word? -/
def State.takesDue (s : State) (gk : Nat) (g : Group) (f : Frag) : Bool :=
  if g.timeoutDue && g.frags.any (fun x => x.free && s.timedOut g x) then s.timedOut g f
  else f.atWord && (s.sel == some { gk := gk, fid := f.id }
    || (s.picked (coreOf gk)).any fun x => x.1 == gk && x.2.2.id == f.id)

/-- DEFERRED_TRAP_DELIVER (R115, R116): at the boundary of the fragment that is selected, or, for TIMEOUT, at the fragment
that still waits. -/
def deferredDeliver (s : State) (gk fid : Nat) : State :=
  match s.group gk with
  | none => s
  | some g =>
    match g.frag fid with
    | none => s
    | some f => if s.stopped g || !f.free || !s.takesDue gk g f then s else deliverDue s gk g f

/-- DEFERRED_TRAP_DELIVER. -/
def execDeferredTrapDeliver (gk fid : Nat) (s : State) : Host.Outcome State Fault Refusal :=
  .next (s.orWait (deferredDeliver s gk fid))

/-- May a user interrupt be delivered at a fragment (R110) while it waits: in WAITA, WAITGE, WAITF, SLEEP or
on a header? -/
def Frag.takesUi (f : Frag) : Bool :=
  match f.wait with
  | .header => true
  | .flags _ => true
  | .sleep _ => true
  | .waita _ => true
  | .waitge _ => true
  | _ => false

/-- USER_INTERRUPT_DELIVER (R110). -/
def uiDeliver (s : State) (gk fid : Nat) : State :=
  match s.group gk with
  | none => s
  | some g =>
    match g.frag fid with
    | none => s
    | some f =>
      if s.stopped g || !f.free then s
      else if s.mayIssue gk g f then (if f.atWord then deliverUi s gk g f else s)
      else if f.takesUi then deliverUi s gk g f
      else s

/-- USER_INTERRUPT_DELIVER. -/
def execUserInterruptDeliver (gk fid : Nat) (s : State) : Host.Outcome State Fault Refusal := .next (s.orWait (uiDeliver s gk fid))

/-- WAIT_TIMEOUT (R451): TIMEOUT is recorded, and delivered to the waiting fragment as soon as it can be (R115). -/
def waitTimeout (s : State) (gk fid : Nat) : State :=
  match s.group gk with
  | none => s
  | some g =>
    match g.frag fid with
    | none => s
    | some f =>
      match f.timeoutRec with
      | none => s
      | some r =>
        if s.stopped g || !s.timedOut g f then s
        else
          let g := g.record 19 r
          if g.timeoutDue && f.free then deliverDue s gk g f else s.setGroup gk g

/-- WAIT_TIMEOUT. -/
def execWaitTimeout (gk fid : Nat) (s : State) : Host.Outcome State Fault Refusal := .next (waitTimeout s gk fid)

end Sys2Proof.Machine
end

