-- ==== Sys2Proof/Machine/Slalom.lean ====
section
/-! DEFINITION. Slalom mode and the leap unit (R393-R422): LEAP, departures, leap records, arrival queues, the spill
ring, the segment map, SEND and SEGREP. -/
namespace Sys2Proof.Machine

/-! ## Live sets (R398) -/

/-- The vector registers that a live set names, in increasing order. -/
def liveV (w : List W32) : List Nat :=
  let rng (x : W32) : List Nat := (List.range (bits x 16 11)).map fun i => bits x 10 0 + i
  let l := rng (w.getD 0 0) ++ rng (w.getD 1 0)
  (List.range 4096).filter fun n => l.contains n
/-- The scalars that a live set names, in increasing order. -/
def liveS (w : List W32) : List Nat :=
  let rng (x : W32) : List Nat := (List.range (bits x 14 8)).map fun i => bits x 6 0 + i
  let l := rng (w.getD 2 0) ++ rng (w.getD 3 0)
  (List.range 256).filter fun n => l.contains n
/-- Is a live set valid for a launch budget (R398)? -/
def liveOk (w : List W32) (b : Nat) : Bool :=
  let v (x : W32) : Bool := bits x 31 17 == 0 && bits x 16 11 ≤ 40 && (bits x 16 11 == 0 || bits x 10 0 + bits x 16 11 ≤ b)
  let c (x : W32) : Bool := bits x 31 15 == 0 && !x.getLsbD 7 && bits x 14 8 ≤ 125
    && (bits x 14 8 == 0 || bits x 6 0 + bits x 14 8 ≤ 125)
  v (w.getD 0 0) && v (w.getD 1 0) && c (w.getD 2 0) && c (w.getD 3 0) && (liveV w).length ≤ 40

/-! ## Leap records (R405, R406) -/

/-- The parts of a leap record. -/
structure Rec where
  pc : Nat
  gid : Nat
  seg : Nat
  tcore : Nat
  members : Lanes
  src : Nat
  active : Lanes
  live : List W32
deriving DecidableEq, Repr

/-- Bytes of a record (R406). -/
def recBytes (live : List W32) : Nat :=
  256 + 64 * ((4 * (liveS live).length + 63) / 64) + 384 * (liveV live).length
/-- The header of a record (R405): the registers that travel come from group `g`. -/
def Rec.header (r : Rec) (g : Group) : List Byte :=
  let t := g.trap
  leBytes 8 r.pc ++ leBytes 4 r.gid ++ leBytes 2 r.seg ++ leBytes 2 r.tcore ++ leBytes 12 r.members.toNat
  ++ leBytes 4 r.src ++ leBytes 12 r.active.toNat ++ leBytes 4 (recBytes r.live)
  ++ ((List.range 7).flatMap fun n => leBytes 16 (g.regs.readP n).toNat)
  ++ leBytes 4 g.fpmode.toNat ++ leBytes 4 g.fpflags.toNat ++ leBytes 4 g.swapt ++ leBytes 4 t.tmask.toNat
  ++ leBytes 4 t.cause.toNat ++ leBytes 4 t.uisrc.toNat ++ leBytes 8 t.uivec.toNat ++ leBytes 8 t.hvec.toNat
  ++ leBytes 8 (g.guardRep.getD 0) ++ ((List.range 4).flatMap fun k => leBytes 4 (r.live.getD k 0).toNat)
  ++ leBytes 4 (bitOf t.uien + 4 * bitOf t.uipend) ++ leBytes 4 0 ++ zeros 24
/-- The payload of a record: live scalars, then live vectors; lanes that do not travel leave free bytes. -/
def Rec.payload (r : Rec) (g : Group) (ctr : Nat) : List Byte :=
  let ss := (liveS r.live).flatMap fun n => leBytes 4 (g.regs.readS n).toNat
  ss ++ zeros ((64 - ss.length % 64) % 64)
  ++ ((liveV r.live).flatMap fun n => (List.range 96).flatMap fun i =>
      leBytes 4 (if r.members.getLsbD i then g.regs.readV n i else Config.freeWord ctr (96 * n + i)).toNat)
/-- The fields of a record's bytes. -/
def recOf (bs : List Byte) : Rec :=
  { pc := fieldAt bs 0 8, gid := fieldAt bs 8 4, seg := fieldAt bs 0x0C 2, tcore := fieldAt bs 0x0E 2
    members := BitVec.ofNat 96 (fieldAt bs 0x10 12), src := fieldAt bs 0x1C 4
    active := BitVec.ofNat 96 (fieldAt bs 0x20 12)
    live := (List.range 4).map fun k => BitVec.ofNat 32 (fieldAt bs (0xD0 + 4 * k) 4) }
/-- A record with a field replaced. -/
def setField (bs : List Byte) (off n x : Nat) : List Byte := bs.take off ++ leBytes n x ++ bs.drop (off + n)

/-! ## Arrival queues (R394, R409) -/

/-- The key of slot `j` of a core's arrival queue. -/
def queueKey (core j : Nat) : Nat := scratchKey (core / 4) (core % 4 * 2 ^ 18 + 0x20000 + 0x4000 * j)
/-- The leap unit of a core; one that no grid holds is empty. -/
def State.leap (s : State) (core : Nat) : Option LeapSt := (s.core core).leap
/-- Change a leap unit. -/
def State.updLeap (s : State) (core : Nat) (f : LeapSt → LeapSt) : State :=
  s.updCore core fun c => { c with leap := c.leap.map f }
/-- The bytes of the `k`th queued record. -/
def State.queued (s : State) (core : Nat) (l : LeapSt) (k : Nat) : List Byte :=
  let key := queueKey core ((l.qhead + k) % 8)
  s.bankRead key (leNat (s.bankRead (key + 0x2C) 4))
/-- Append a record to a core's queue, which has room; `fwd` lists the cores that have forwarded it. -/
def State.enqueue (s : State) (core : Nat) (bs : List Byte) (fwd : List Nat) : State :=
  match s.leap core with
  | none => s
  | some l =>
    let j := (l.qhead + l.qcount) % 8
    (s.bankWrite (queueKey core j) bs 0).updLeap core fun x =>
      { x with qcount := x.qcount + 1, fwd := Tab.set [] x.fwd j fwd }
/-- Remove the `k`th record of a queue: later ones move down. A queue left empty starts again at slot 0, as the image of
R427 shows (DEDUCED, log 46). -/
def State.dequeue (s : State) (core k : Nat) : State :=
  match s.leap core with
  | none => s
  | some l =>
    if k = 0 then
      s.updLeap core fun x =>
        { x with qhead := if x.qcount ≤ 1 then 0 else (x.qhead + 1) % 8, qcount := x.qcount - 1, fwd := Tab.del x.fwd x.qhead }
    else
      let rest := (List.range (l.qcount - (k + 1))).map fun i =>
        (s.queued core l (k + 1 + i), Tab.get [] l.fwd ((l.qhead + k + 1 + i) % 8))
      let s := s.updLeap core fun x => { x with qcount := k }
      rest.foldl (fun (s : State) (r : List Byte × List Nat) => s.enqueue core r.1 r.2) s

/-- Spilled records of a core move into its queue as slots free, least SPSEQ first (R412). -/
def State.refill (s : State) (gr : Grid) (gk core : Nat) : Nat → State
  | 0 => s
  | n + 1 =>
    match gr.spill, s.leap core with
    | some base, some l =>
      if 8 ≤ l.qcount then s
      else
        (match (s.spilledFor gr base core).foldl (fun (m : Option (Nat × Nat)) x =>
            match m with
            | none => some x
            | some y => if x.1 < y.1 then some x else some y) none with
        | none => s
        | some (seq, j) =>
          let bs := s.spillRead gr base (spillSlot j) (leNat (s.spillRead gr base (spillSlot j + 0x2C) 4))
          let fwd := (gr.slalom.map fun x => Tab.get [] x.spillFwd seq).getD []
          let s := s.spillWrite gr base (spillSlot j + 0x2C) (leBytes 4 0)
          let s := s.spillWrite gr base 4 (leBytes 4 (leNat (s.spillRead gr base 4 4) + 2 ^ 32 - 1))
          let s := s.updGrid gk fun y => { y with slalom := y.slalom.map fun x => { x with spillFwd := Tab.del x.spillFwd seq } }
          State.refill (s.enqueue core (setField bs 0xE4 4 0) fwd) gr gk core n)
    | _, _ => s

/-- A record goes to a core's queue, or else to the spill ring; none where neither has room (R402, R412). -/
def State.putRecord (s : State) (gr : Grid) (gk core : Nat) (bs : List Byte) (fwd : List Nat) : Option State :=
  let spilled := match gr.spill with | some b => s.spilledFor gr b core | none => []
  if (s.leap core).any (fun l => l.qcount < 8) && spilled.isEmpty then some (s.enqueue core bs fwd)
  else
    match gr.spill with
    | none => none
    | some base =>
      match s.spillFree gr base with
      | none => none
      | some j =>
        let seq := leNat (s.spillRead gr base 8 4)
        let s := s.spillWrite gr base (spillSlot j) (setField bs 0xE4 4 seq)
        let s := s.spillWrite gr base 4 (leBytes 4 (leNat (s.spillRead gr base 4 4) + 1))
        let s := s.spillWrite gr base 8 (leBytes 4 (seq + 1))
        some (s.updGrid gk fun y => { y with slalom := y.slalom.map fun x => { x with spillFwd := Tab.set [] x.spillFwd seq fwd } })

/-! ## Choosing a core (R407) -/

/-- A core's depth: records queued for it, in its queue and the spill ring. -/
def State.depth (s : State) (gr : Grid) (core : Nat) : Nat :=
  ((s.leap core).map fun l => l.qcount).getD 0
    + (match gr.spill with | some b => (s.spilledFor gr b core).length | none => 0)
/-- Choose(s) of R407 at a core, among cores that are not excluded. -/
def State.chooseCore (s : State) (gr : Grid) (core seg gid : Nat) (skip : List Nat) : Option Nat :=
  match s.leap core with
  | none => none
  | some l =>
    let cand := ((l.map[seg]?).getD []).filter fun c => !skip.contains c
    let d (c : Nat) : Nat := if c = core then s.depth gr c else Tab.get 0 l.hints c
    match cand.map d with
    | [] => none
    | d0 :: ds =>
      let m := ds.foldl min d0
      let t := cand.filter fun c => d c == m
      let h := gid * 0x9E3779B1 % 2 ^ 32
      t[h / 2 ^ 16 % t.length]?

/-! ## Departure (R401-R403) -/

/-- SEGEXIT with its code (R403). -/
def segExit (code : Nat) (ea : W64) : Nat × CauseRec := (15, { eaddr := ea, detail := code })
/-- Codes 2 and 3 of R403 for a group. -/
def segCodes (gr : Grid) (g : Group) (live : List W32) : Option (Nat × CauseRec) :=
  if !liveOk live gr.launchBudget then some (segExit 2 0)
  else if g.trap.plevel ≠ 0 ∨ g.trap.uiact then some (segExit 3 0)
  else none

/-- The key of the lanes that a record carries, among those of its grid: no two records hold one lane of one GID (R411). -/
def Rec.lanesKey (r : Rec) : Nat := 96 * r.gid + ((laneList r.members).head?).getD 0
/-- A grid with the values kept for the causes of a departing group's record (R117). -/
def Grid.keepCauses (gr : Grid) (r : Rec) (info : Tab CauseRec) : Grid :=
  { gr with slalom := gr.slalom.map fun x =>
      { x with causes := if info = [] then Tab.del x.causes r.lanesKey else Tab.put x.causes r.lanesKey info } }
/-- The values kept for the causes that a record carries; free ones for a cause that the record's bytes alone show (log 26). -/
def Grid.keptCauses (gr : Grid) (r : Rec) (cause : W32) (ctr : Nat) : Tab CauseRec :=
  let kept := (gr.slalom.map fun x => Tab.get [] x.causes r.lanesKey).getD []
  ((List.range 32).filter fun k => cause.getLsbD k).map fun k =>
    (k, Tab.get { eaddr := Config.freeWord ctr (2 * k) ++ Config.freeWord ctr (2 * k + 1)
                  detail := (Config.freeWord ctr (64 + k)).toNat % 2 ^ 24 } kept k)
/-- DEPARTURE (R402). -/
def departure (s : State) (gk fid : Nat) : State :=
  match s.group gk with
  | none => s
  | some g =>
    match g.unit, g.frag fid with
    | .slalom n, some f =>
      (match s.dueDepart gk g f, s.grid n with
      | some (t, live?), some gr =>
        if s.stopped g || !f.free || !g.allFlagsClear || !g.allPerformed then s
        else
          let core := coreOf gk
          let g := g.passFlags 0xFFF
          let exitLive := ((s.pinned core).map fun x => x.2.live).getD []
          let live := live?.getD exitLive
          let refused := match live? with
            | some _ => none
            | none =>
              match gr.segOf t with
              | none => some (segExit 1 (BitVec.ofNat 64 t))
              | some _ => segCodes gr g live
          (match refused with
          | some c => takeTrap s gk g { f with wait := .none } [c]
          | none =>
            let g := match live? with
              | some _ => g
              | none => { g with trap := { g.trap with epc := BitVec.ofNat 64 t, epcHdr := t, epcHw := true } }
            let s := s.releaseNow core g.asid
            match gr.segOf t with
            | none => s
            | some k =>
              match s.chooseCore gr core k g.lin [] with
              | none => s
              | some c =>
                let r : Rec := { pc := t, gid := g.lin, seg := k, tcore := c, members := f.members, src := core
                                 active := liveLanes f, live := live }
                (match s.putRecord gr n c (r.header g ++ r.payload g s.freeCtr) [] with
                | some s =>
                  ((s.updGrid n fun y => y.keepCauses r g.trap.info).setGroup gk (g.exitLanes s.clock f f.members)).used
                | none =>
                  if g.ops = [] && s.swapRoom core g.budget then
                    s.swapAway gk (g.setFrag { f with wait := .depart t (some live) })
                  else s))
      | _, _ => s)
    | _, _ => s

/-- DEPARTURE. -/
def execDeparture (gk fid : Nat) (s : State) : Host.Outcome State Fault Refusal := .next (s.orWait (departure s gk fid))

/-! ## LEAP (R416) -/

/-- A slice of a LEAP's fragment: lanes that took a target are placed, by target; with them the idle lanes, at the target
of the lowest lane; the others are deferred at the next header. A slice no lane of which took a target stays whole. -/
structure LeapSlice where
  go : List (Lanes × Nat)
  stay : Lanes
  deferred : Lanes

/-- The division of one slice. -/
def leapSlice (f : Frag) (taken : Lanes) (target : Nat → Nat) (k : Nat) : LeapSlice :=
  let mine := f.members &&& sliceLanes k
  let act := mine &&& f.mask
  let ts := laneList (act &&& taken)
  match ts with
  | [] => { go := [], stay := mine, deferred := 0 }
  | t0 :: _ =>
    let idle := mine &&& ~~~ f.mask
    let pcs := (ts.map target).eraseDups
    { go := pcs.map fun pc =>
        ((lanesOf fun i => ts.contains i && target i == pc) ||| (if pc = target t0 then idle else 0), pc)
      stay := 0, deferred := act &&& ~~~ taken }

/-- The transfer of a LEAP (R416): each target's lanes become a fragment that is due to depart with `live`. -/
def leapTransfer (now : Nat) (g : Group) (f : Frag) (taken : Lanes) (target : Nat → Nat) (live : List W32) : Group :=
  let ks := slicesOf f.members
  let parts := ks.map fun k => (k, leapSlice f taken target k)
  let going := mergePlaced (parts.flatMap fun p => p.2.go)
  let stay := parts.foldl (fun (m : Lanes) p => m ||| p.2.stay) 0
  let yld := match f.hw with | some h => h.yld | none => false
  let g := (parts.filter fun p => p.2.deferred != 0).foldl (fun (g : Group) p =>
    { g with
      deferred := g.deferred ++
        [{ slice := p.1, lanes := p.2.deferred, hdr := f.nextHdr, order := g.nextOrder, heldTrap := f.heldTrap
           heldUi := f.heldUi }]
      nextOrder := g.nextOrder + 1 }) g
  let base (id : Nat) (m : Lanes) (pc : Nat) : Frag :=
    { f with id := id, hdr := pc, word := 0, hw := none, members := m, mask := f.mask &&& m, wait := .none, since := now
             paused := yld }
  let new := (going.zip (List.range going.length)).map fun (p : (Lanes × Nat) × Nat) =>
    { base (g.nextFrag + p.2) p.1.1 p.1.2 with wait := .depart p.1.2 (some live) }
  let rest := if stay = 0 then [] else [base (g.nextFrag + going.length) stay f.nextHdr]
  let g := { g with frags := (g.frags.filter fun x => x.id != f.id) ++ new ++ rest
                    nextFrag := g.nextFrag + going.length + 1 }
  ((new ++ rest).filter fun x => x.mask = 0).foldl (fun (g : Group) x => g.exitLanes now x x.members) g

/-- What LEAP raises (R403): code 4 if it holds, else the lowest code that holds for an Enabled lane. -/
def leapCause (s : State) (g : Group) (ts : List Nat) (live : List W32) : Option (Nat × CauseRec) :=
  match g.unit with
  | .slalom n =>
    (match s.grid n with
    | none => some (segExit 4 0)
    | some gr =>
      match ts.find? fun t => (gr.segOf t).isNone with
      | some t => some (segExit 1 (BitVec.ofNat 64 t))
      | none => segCodes gr g live)
  | _ => some (segExit 4 0)

/-- LEAP with the target of each lane. -/
def leapWord (i : Instr) (s : State) (o : FOp) (tgt : Group → Frag → Nat → Nat) : State :=
  onWord i s (badTarget o tgt) never fun gk g f =>
    let m := enabled g f o.guard
    let live := (List.range 4).map fun k => readS g f (o.a.idx.toNat + k)
    let cause := if m = 0 then none else leapCause s g ((laneList m).map (tgt g f)) live
    match cause with
    | some c => takeTrap s gk ((s.group gk).getD g) f [c]
    | none => s.setGroup gk (leapTransfer s.clock g f (guardLanes g o.guard) (tgt g f) live)

/-- LEAP to an immediate target (R416). -/
def execLeap (o : FOp) (s : State) : Host.Outcome State Fault Refusal := .next (leapWord (.leap o) s o (offTarget o))
/-- LEAP to a register target (R416). -/
def execLeapReg (o : FOp) (s : State) : Host.Outcome State Fault Refusal :=
  .next (leapWord (.leapReg o) s o fun g f i => opB g f o .zext 2 i)

/-! ## Arrival (R395, R396, R409, R410) -/

/-- A grid's coordinates of a linear ID (R26): x fastest. -/
def Grid.cell (gr : Grid) (g : Nat) : Nat × Nat × Nat := (g % gr.sx, g / gr.sx % gr.sy, g / (gr.sx * gr.sy))
/-- The group that an admitted record becomes (R410). -/
def recGroup (s : State) (n : Nat) (gr : Grid) (core : Nat) (bs : List Byte) : Group :=
  let r := recOf bs
  let uid := s.nextUid
  let f : Frag := { launchFrag r.pc s.clock with members := r.members, mask := r.active &&& r.members }
  let g := Group.launch uid (.slalom n) gr.launchBudget (BitVec.ofNat 64 (fieldAt bs 0xC0 8)) f false
  let ss := liveS r.live
  let vbase := 0x100 + 64 * ((4 * ss.length + 63) / 64)
  let scal := ((List.range ss.length).zip ss).map fun x => (x.2, BitVec.ofNat 32 (fieldAt bs (0x100 + 4 * x.1) 4))
  let vs := liveV r.live
  let vecs := ((List.range vs.length).zip vs).flatMap fun x => (laneList r.members).map fun i =>
    (x.2, i, BitVec.ofNat 32 (fieldAt bs (vbase + 384 * x.1 + 4 * i) 4))
  let launch := r.src.testBit 8
  let extra : List (Nat × W32) := if launch then
      wordsOf 8 (3 * 2 ^ 60) 2 ++ wordsOf 10 (4 * 2 ^ 60 + core % 4 * 2 ^ 18) 2 else []
  let regs := writeSs (writeVs g.regs vecs) (scal ++ extra)
  let cause := BitVec.ofNat 32 (fieldAt bs 0xB0 4)
  let guard := fieldAt bs 0xC8 8
  let c := gr.cell r.gid
  { g with
    grid := n, lin := r.gid, tx := c.1, ty := c.2.1, tz := c.2.2, asid := gr.asid, tenant := gr.tenant, part := gr.part
    prio := gr.obj.prio, swapt := fieldAt bs 0xA8 4, fpmode := BitVec.ofNat 32 (fieldAt bs 0xA0 4)
    fpflags := BitVec.ofNat 32 (fieldAt bs 0xA4 4)
    regs := { regs with p := (List.range 7).map fun k => (k, BitVec.ofNat 96 (fieldAt bs (0x30 + 16 * k) 12)), pFree := false }
    trap := { g.trap with
      cause := cause, tmask := BitVec.ofNat 32 (fieldAt bs 0xAC 4), uisrc := BitVec.ofNat 32 (fieldAt bs 0xB4 4)
      uivec := BitVec.ofNat 64 (fieldAt bs 0xB8 8), uien := (fieldAt bs 0xE0 1).testBit 0
      uipend := (fieldAt bs 0xE0 1).testBit 2
      info := gr.keptCauses r cause s.freeCtr }
    guardRep := if guard.testBit 31 then some (guard % 2 ^ 32) else none
    exited := ~~~ r.members }

/-- Has a slalom grid stopped (R118, R422)? -/
def State.gridStopped (s : State) (n : Nat) : Bool :=
  (s.kills.any fun k => k.unit == .slalom n) || s.captures.any fun c => c.unit == .slalom n
/-- Has a debugger halted a unit (R482)? -/
def State.unitHalted (s : State) (u : UnitRef) : Bool :=
  (s.groups.any fun x => x.2.unit == u && x.2.halted) || s.swapped.any fun w => w.group.unit == u && w.group.halted
/-- Does a leap unit serve a segment: it pins it and is not being repinned (R408, R420)? -/
def LeapSt.serves (l : LeapSt) (seg : Nat) : Bool := l.seg == some seg && l.repin.isNone

/-- ARRIVAL_ADMIT (R409): the head record becomes a group once a slot and registers are free for it (R396), and its grid is
not halted (R482). -/
def arrivalAdmit (s : State) (core : Nat) : State :=
  match s.leap core with
  | none => s
  | some l =>
    match s.grid l.grid with
    | none => s
    | some gr =>
      if l.qcount = 0 ∨ s.gridStopped l.grid ∨ s.unitHalted (.slalom l.grid) = true then s
      else
        let bs := s.queued core l 0
        let r := recOf bs
        let launch := r.src.testBit 8
        let b := gr.launchBudget
        let room := if launch then 2 ≤ s.freeSlots core && 2 * b ≤ s.freeRegs core && !s.heldForReturn core
          else 1 ≤ s.freeSlots core && b ≤ s.freeRegs core
        if !l.serves r.seg || !room then s
        else
          match s.freeSlot core with
          | none => s
          | some gk =>
            let g := recGroup s l.grid gr core bs
            let s := ((s.dequeue core 0).acquireAction core gr.asid).setGroup gk g
            ((s.updGrid l.grid fun y => y.keepCauses r []).fresh.used).refill gr l.grid core 8

/-- ARRIVAL_ADMIT. -/
def execArrivalAdmit (core : Nat) (s : State) : Host.Outcome State Fault Refusal := .next (s.orWait (arrivalAdmit s core))

/-- RECORD_FORWARD (R408): the `k`th record of a queue whose core does not serve its segment goes to another core of the
segment, none that has forwarded it before. -/
def recordForward (s : State) (core k : Nat) : State :=
  match s.leap core with
  | none => s
  | some l =>
    match s.grid l.grid with
    | none => s
    | some gr =>
      if l.qcount ≤ k ∨ s.gridStopped l.grid then s
      else
        let bs := s.queued core l k
        let r := recOf bs
        let fwd := core :: Tab.get [] l.fwd ((l.qhead + k) % 8)
        if l.serves r.seg then s
        else
          match s.chooseCore gr core r.seg r.gid fwd with
          | none => s
          | some c =>
            match s.putRecord gr l.grid c (setField bs 0x0E 2 c) fwd with
            | none => s
            | some s => (s.dequeue core k).refill gr l.grid core 8

/-- RECORD_FORWARD. -/
def execRecordForward (core k : Nat) (s : State) : Host.Outcome State Fault Refusal := .next (s.orWait (recordForward s core k))

/-- The launch record of group `g` (R395). -/
def launchRec (s : State) (n : Nat) (gr : Grid) (g seg core : Nat) : List Byte :=
  let nargs := gr.obj.nargs
  let live : List W32 := [0, 0, BitVec.ofNat 32 (256 * nargs), 0]
  let r : Rec := { pc := gr.code.toNat + gr.obj.entry, gid := g, seg := seg, tcore := core, members := allLanes
                   src := core + 256, active := allLanes, live := live }
  let grp := Group.launch s.nextUid (.slalom n) gr.launchBudget gr.hvec (launchFrag r.pc s.clock) false
  let grp := { grp with regs := writeSs grp.regs (((List.range nargs).zip gr.args).map fun x => (x.1, x.2)) }
  r.header grp ++ r.payload grp s.freeCtr
/-- LAUNCH_RECORD (R395): the next group's launch record is placed once its queue has a slot. -/
def launchRecord (s : State) (n : Nat) : State :=
  match s.grid n with
  | none => s
  | some gr =>
    match gr.slalom with
    | none => s
    | some x =>
      let g := x.launchNext
      if s.gridStopped n || !x.started || gr.sx * gr.sy * gr.sz ≤ g then s
      else
        match gr.segOf (gr.code.toNat + gr.obj.entry) with
        | none => s
        | some k =>
          let cores := gr.segCores k
          match cores[g % cores.length]? with
          | none => s
          | some c =>
            if (s.leap c).any fun l => l.qcount < 8 then
              let s := (s.enqueue c (launchRec s n gr g k c) []).fresh.used
              s.updGrid n fun y => { y with slalom := y.slalom.map fun z => { z with launchNext := g + 1 } }
            else s
/-- LAUNCH_RECORD. -/
def execLaunchRecord (grid : Nat) (s : State) : Host.Outcome State Fault Refusal := .next (launchRecord s grid)

/-- The cores of a slalom grid. -/
def Grid.cores (gr : Grid) : List Nat := (gr.slalom.map fun x => x.cores).getD []

/-- DEPTH_HINT (R407): a leap unit sends its depth to every leap unit of its grid. -/
def depthHint (s : State) (core : Nat) : State :=
  match s.leap core with
  | none => s
  | some l =>
    match s.grid l.grid with
    | none => s
    | some gr =>
      let d := s.depth gr core
      gr.cores.foldl (fun (s : State) c => s.updLeap c fun x => { x with hints := Tab.put x.hints core d }) s
/-- DEPTH_HINT. -/
def execDepthHint (core : Nat) (s : State) : Host.Outcome State Fault Refusal := .next (depthHint s core)

/-- MAP_UPDATE (R407): a leap unit takes over the segment map. -/
def mapUpdate (s : State) (core : Nat) : State :=
  match s.leap core with
  | none => s
  | some l =>
    match s.grid l.grid with
    | none => s
    | some gr => s.updLeap core fun x => { x with map := ((gr.slalom.map fun y => y.segs).getD []).map fun z => z.cores }
/-- MAP_UPDATE. -/
def execMapUpdate (core : Nat) (s : State) : Host.Outcome State Fault Refusal := .next (mapUpdate s core)

/-- A change of a grid's segment map, in map order: a new generation, in which no record has been forwarded (R408). -/
def State.changeMap (s : State) (n : Nat) (f : List Segment → List Segment) : State :=
  match s.grid n with
  | none => s
  | some gr =>
    let s := s.updGrid n fun y => { y with slalom := y.slalom.map fun x =>
      { x with segs := f x.segs, mapGen := x.mapGen + 1, spillFwd := [] } }
    gr.cores.foldl (fun (s : State) c => s.updLeap c fun l => { l with fwd := [] }) s
/-- Change one segment of a list. -/
def changeSeg (k : Nat) (f : Segment → Segment) (l : List Segment) : List Segment :=
  (l.zip (List.range l.length)).map fun x => if x.2 = k then f x.1 else x.1
/-- The bytes of a segment, by code-object offset. -/
def SlalomSt.segBytes (x : SlalomSt) (k : Nat) : Memory :=
  match x.segs[k]? with
  | none => []
  | some y => x.code.filter fun c => y.off ≤ c.1 && c.1 < y.off + y.len

/-- A load of a core's instruction store ends its errors (R477). -/
def State.cleanStore (s : State) (core : Nat) : State :=
  if s.plat.bad = [] then s
  else s.updPlat fun p => { p with bad := p.bad.filter fun w => w < storeWordNo core 0 || storeWordNo (core + 1) 0 ≤ w }
/-- REPIN_LOAD (R420): an emptied core loads its new segment and joins its list. -/
def repinLoad (s : State) (core : Nat) : State :=
  match s.leap core with
  | none => s
  | some l =>
    match l.repin, s.grid l.grid with
    | some k, some gr =>
      if s.gridStopped l.grid || (s.groupsOn core) != [] || s.depth gr core != 0 then s
      else
        let store := (gr.slalom.map fun x => x.segBytes k).getD []
        let s := (s.updLeap core fun x => { x with seg := some k, repin := none, store := store }).cleanStore core
        s.changeMap l.grid (changeSeg k fun y => { y with cores := y.cores ++ [core] })
    | _, _ => s
/-- REPIN_LOAD. -/
def execRepinLoad (core : Nat) (s : State) : Host.Outcome State Fault Refusal := .next (repinLoad s core)

/-! ## SEGREP (R420) -/

/-- SEGREP (R420): a group that is not of a slalom grid raises SEGEXIT, code 4. -/
def execSegrep (o : FOp) (s : State) : Host.Outcome State Fault Refusal :=
  .next (onWord (.segrep o) s never never fun gk g f =>
    if enabled g f o.guard = 0 then idleTrack s gk g f o.fs
    else
      match g.unit with
      | .slalom _ =>
        trackWord s gk g f o.fs (.segrep o.d.toNat (readS g f o.a.idx.toNat).toNat (opB g f o .zext 1 0))
      | _ => takeTrap s gk ((s.group gk).getD g) f [segExit 4 0])

/-- The status of a SEGREP at the map (R420). -/
def State.segrepStatus (s : State) (gr : Grid) (seg c : Nat) : Nat :=
  let segs := (gr.slalom.map fun x => x.segs).getD []
  match s.leap c with
  | none => if segs.length ≤ seg then 1 else 2
  | some l =>
    if segs.length ≤ seg then 1
    else if !gr.cores.contains c then 2
    else if l.repin.isSome then (if l.seg = some seg then 5 else 6)
    else if l.seg = some seg then 5
    else if (l.seg.any fun k => (gr.segCores k) == [c]) then 3
    else if 8 ≤ (gr.segCores seg).length then 4
    else 0
/-- SEGREP_COMPLETE (R420): at the map, in map order, the core leaves its segment's list and its repin begins. Once its grid
stops no repin begins (R422), and what status such a SEGREP gives is not stated (free, log 44). -/
def segrepComplete (s : State) (gk op : Nat) : State :=
  match s.group gk with
  | none => s
  | some g =>
    match g.op op, g.unit with
    | some o, .slalom n =>
      (match o.kind, s.grid n with
      | .segrep d seg c, some gr =>
        let st := s.segrepStatus gr seg c
        if st = 0 ∧ s.gridStopped n = true then endScalars s.used gk g o [(d, Config.freeWord s.freeCtr 0)] false
        else
        let s := if st = 0 then
            (s.changeMap n fun l => l.map fun (y : Segment) => { y with cores := y.cores.filter fun k => k != c }).updLeap c
              fun x => { x with repin := some seg }
          else s
        endScalars s gk g o [(d, BitVec.ofNat 32 st)] false
      | _, _ => s)
    | _, _ => s
/-- SEGREP_COMPLETE. -/
def execSegrepComplete (gk op : Nat) (s : State) : Host.Outcome State Fault Refusal := .next (segrepComplete s gk op)

/-! ## SEND (R417-R419) -/

/-- Add 1000 to a remote consumer's core. -/
def remote : Nat := 1000
/-- The core of a consumer. -/
def consCore (x : Nat) : Nat := x % remote
/-- A cluster as the resumed grid's core map moves it (R424). -/
def State.mapCluster (s : State) (g : Group) (cl : Nat) : Nat :=
  match g.unit with
  | .slalom n =>
    (match (((s.grid n).bind fun gr => gr.slalom).map fun x => x.cmap).getD [] |>.find? fun p => p.1 / 4 == cl with
    | some p => p.2 / 4
    | none => cl)
  | _ => cl
/-- The consumers of a descriptor: the local ones, then the remote ones that are not also local. -/
def State.consumers (s : State) (core : Nat) (g : Group) (w : W32) : List Nat :=
  let loc := ((List.range 4).filter fun n => w.getLsbD (9 + n)).map fun n => core / 4 * 4 + n
  let cl := s.mapCluster g (12 * bits w 15 14 + bits w 19 16)
  let rem := if w.getLsbD 13 then ((List.range 4).filter fun n => w.getLsbD (20 + n)).map fun n => 4 * cl + n else []
  loc ++ (rem.filter fun c => !loc.contains c).map fun c => c + remote
/-- Does a descriptor keep R417 and name a consumer (R418)? -/
def sendOk (w0 w1 : W32) : Bool :=
  bits w0 31 24 == 0 && 1 ≤ bits w0 8 0 && bits w0 8 0 ≤ 256 && bits w0 19 16 < 12 && bits w1 31 18 == 0
  && bits w1 17 0 % 64 == 0 && (bits w0 12 9 != 0 || (w0.getLsbD 13 && bits w0 23 20 != 0))

/-- The bytes of a payload: scratchpad keys, or home addresses. -/
def State.sendSpan (s : State) (core : Nat) (g : Group) (p : W64) (n : Nat) :
    State × Except (W64 × AccFault) (List Nat) :=
  if tagOf p = 3 ∨ tagOf p = 4 then
    match scratchBody core [3, 4] p, scratchBody core [3, 4] (p + BitVec.ofNat 64 (n - 1)) with
    | some k, some _ =>
      let ks := (List.range n).map fun i => k + i
      (match ks.find? fun x => !s.mayReach g.tenant g.unit x with
      | some x => (s, .error (p + BitVec.ofNat 64 (x - k), spaceFault))
      | none => (s, .ok ks))
    | _, _ => (s, .error (p, spaceFault))
  else s.span core g [0, 1] permR p n

/-- SEND (R418). -/
def execSend (o : FOp) (s : State) : Host.Outcome State Fault Refusal :=
  .next (s.orWait (onWord (.send o) s never never fun gk g f =>
    if enabled g f o.guard = 0 then idleTrack s gk g f o.fs
    else
      let w0 := readS g f o.c.toNat
      let w1 := readS g f (o.c.toNat + 1)
      if !sendOk w0 w1 then decided s gk g f o.fs o.d.toNat [0xFFFFFFFF]
      else
        let p := readS64 g f o.a.idx.toNat
        let n := bits w0 8 0
        let sp := s.sendSpan (coreOf gk) g p n
        let causes := (match sp.2 with | .error e => [ptrCause e.2 e.1] | .ok _ => [])
          ++ (if p.toNat % 4 ≠ 0 then [(3, { eaddr := p, detail := 0 })] else [])
        match sp.2 with
        | .error _ => takeTrap sp.1 gk ((sp.1.group gk).getD g) f causes
        | .ok as =>
          if causes ≠ [] then takeTrap sp.1 gk ((sp.1.group gk).getD g) f causes
          else
            trackWord sp.1 gk g f o.fs (.send o.d.toNat (sp.1.consumers (coreOf gk) g w0) (bits w1 17 0) n p
              (tagOf p == 3 || tagOf p == 4) (runsOf as) none 0)))

/-- A receiver ring's slots (R148): none where the control block breaks its form, leaves the part, or lies on pages that
the sender may not write. -/
def State.ringSlots (s : State) (g : Group) (core off : Nat) : Option Nat :=
  let key := scratchKey (core / 4) (core % 4 * 2 ^ 18 + off)
  let n := leNat (s.bankRead (key + 8) 4)
  let okForm := (s.liveCore core) && off + 64 ≤ 2 ^ 18 && ((List.range 10).any fun i => n == 2 ^ (i + 1))
    && (s.bankRead (key + 12) 52).all (fun b => b == 0) && off + 64 + 288 * n ≤ 2 ^ 18
  let pages := (List.range (64 + 288 * n)).filter fun i => i % 64 == 0 || i + 1 == 64 + 288 * n
  if okForm && pages.all fun i => s.mayReach g.tenant g.unit (key + i) then some n else none
/-- A message goes into a ring's next slot and TAIL moves on (R148, R418). Once another agent has stored to TAIL, what the
slots and TAIL hold after it is undefined. -/
def State.ringPut (s : State) (core off n src : Nat) (p : List Byte) : State :=
  let key := scratchKey (core / 4) (core % 4 * 2 ^ 18 + off)
  let k := leNat (s.bankRead key 4)
  let slot := key + 64 + 288 * (k % n)
  let free (m : Nat) : List Byte := (List.range m).map fun i => Config.freeByte s.freeCtr i
  let s' := if Tab.get false s.sendRings key then
      ((s.bankPut (key + 64) (free (288 * n)) 0).used).bankPut key ((free (288 * n + 4)).drop (288 * n)) 0
    else
      (s.bankWrite slot (leBytes 4 p.length ++ leBytes 4 src ++ leBytes 4 k ++ zeros 20 ++ p ++ free (256 - p.length))
        0).bankPut key (leBytes 4 (k + 1)) 0
  { s'.used with sendRings := Tab.put s'.sendRings key (Tab.get false s'.sendRings key) }
/-- The status bit of a refused consumer: local in [3:0], remote in [7:4]. -/
def refusedBit (x : Nat) : Nat := if x < remote then 2 ^ (x % 4) else 2 ^ (4 + (x - remote) % 4)

/-- The payload is read (R418), after the release: a guard granule reads zeros and is reported, an error leaves a free
byte and a DATAERR. -/
def State.sendRead (s : State) (gk : Nat) (g : Group) (o : Op) (src : W64) (scr : Bool) (as : List Nat) :
    State × Group × List Byte :=
  let core := coreOf gk
  let s := s.releaseNow core g.asid
  let s := if scr then s else s.engineReads g.tenant as
  let bad (a : Nat) : Bool := if scr then s.badScratch a else s.errAt a
  let val (a : Nat) : Byte := if scr then (if s.guarded a then 0 else Memory.read s.scratch a) else s.readHome a
  let bs := ((List.range as.length).zip as).map fun x => if bad x.2 then Config.freeByte s.freeCtr x.1 else val x.2
  let g := match (if scr then as.find? s.guarded else none) with | some k => g.touchGuard k | none => g
  let g := match ((List.range as.length).zip as).find? fun x => bad x.2 with
    | some x => { g with flagErr := Tab.put g.flagErr o.flag { eaddr := src + BitVec.ofNat 64 x.1, detail := 0 } }
    | none => g
  (s.used, g, bs)

/-- SEND_DELIVER (R418): the payload is read once; then a consumer's leap unit accepts the message when its ring has
room, or refuses it; when none is left the status is written. Messages of one group to one ring keep their order (R419). -/
def sendDeliver (s : State) (gk op c : Nat) : State :=
  match s.group gk with
  | none => s
  | some g =>
    match g.op op with
    | none => s
    | some o =>
      match o.kind with
      | .send d todo off len src scr runs none st =>
        if !((g.opsBefore op).all fun e => e.kind.performed) then s
        else
          let as := runAddrs runs
          (match (if scr then none else s.wakeAny g.tenant as) with
          | some s => s
          | none =>
            let r := s.sendRead gk g o src scr as
            r.1.setGroup gk (r.2.1.setOp op (.send d todo off len src scr runs (some r.2.2) st)))
      | .send d todo off len src scr runs (some p) st =>
        let waits := (g.opsBefore op).any fun e =>
          match e.kind with
          | .send _ l r _ _ _ _ _ _ => r == off && l.any fun y => consCore y == c
          | _ => false
        (match todo.find? fun y => consCore y == c with
        | none => if todo = [] then endScalars s gk g o [(d, BitVec.ofNat 32 st)] false else s
        | some y =>
          if waits then s
          else
            let key := scratchKey (c / 4) (c % 4 * 2 ^ 18 + off)
            let rest := todo.filter fun z => z != y
            let fin (s : State) (st : Nat) : State :=
              if rest = [] then endScalars s gk g o [(d, BitVec.ofNat 32 st)] false
              else s.setGroup gk (g.setOp op (.send d rest off len src scr runs (some p) st))
            match s.ringSlots g c off with
            | none => fin s (st + refusedBit y)
            | some n =>
              let used := (leNat (s.bankRead key 4) + 2 ^ 32 - leNat (s.bankRead (key + 4) 4)) % 2 ^ 32
              if used < n then fin (s.ringPut c off n (coreOf gk + 256 * (gk % 32)) p) st else s)
      | _ => s
/-- SEND_DELIVER. -/
def execSendDeliver (gk op core : Nat) (s : State) : Host.Outcome State Fault Refusal := .next (s.orWait (sendDeliver s gk op core))

/-- A SEND that waits completes at a capture (R422): consumers not served are set in LABANDON and RABANDON. -/
def State.abandonSends (s : State) (gk : Nat) (g : Group) : State :=
  g.ops.foldl (fun (s : State) o =>
    match o.kind with
    | .send d todo _ _ _ _ _ _ st =>
      let ab := (todo.map fun x => if x < remote then 2 ^ (12 + x % 4) else 2 ^ (8 + (x - remote) % 4)).sum
      (match s.group gk with
      | some g => endScalars s gk g o [(d, BitVec.ofNat 32 (st + ab))] false
      | none => s)
    | _ => s) s

/-! ## Identity (R411) -/

/-- Does a record carry a lane of a GID? -/
def recHolds (bs : List Byte) (gid lane : Nat) : Bool := (recOf bs).gid == gid && (recOf bs).members.getLsbD lane
/-- UISRC and the flags byte after a user interrupt arrives at a saved group (R110). -/
def postedUi (uisrc ui source : Nat) : Nat × Nat :=
  if ui.testBit 2 then (min 255 (uisrc / 2 ^ 24 + 1) * 2 ^ 24 + uisrc % 2 ^ 24, ui) else (source % 2 ^ 24, ui + 4)
/-- A user interrupt arrives at a record: it is pending in it. -/
def recPost (bs : List Byte) (source : Nat) : List Byte :=
  let r := postedUi (fieldAt bs 0xB4 4) (fieldAt bs 0xE0 1) source
  setField (setField bs 0xE0 1 r.2) 0xB4 4 r.1
/-- A user interrupt for a lane that a queued or spilled record of a grid carries. -/
def State.postRecords (s : State) (n : Nat) (gr : Grid) (gid lane source : Nat) : State :=
  let s : State := gr.cores.foldl (fun (s : State) c =>
    match s.leap c with
    | none => s
    | some l => (List.range l.qcount).foldl (fun (s : State) k =>
        let bs := s.queued c l k
        if recHolds bs gid lane then s.bankWrite (queueKey c ((l.qhead + k) % 8)) (recPost bs source) 0 else s) s) s
  match ((s.grid n).getD gr).spill with
  | none => s
  | some base => (List.range (s.spillSlots gr base)).foldl (fun (s : State) j =>
      let bs := s.spillRead gr base (spillSlot j) 256
      if fieldAt bs 0x2C 4 != 0 && recHolds bs gid lane then s.spillWrite gr base (spillSlot j) (recPost bs source)
      else s) s

/-- A user interrupt for a slalom target: the group of its GID that holds the lane; or the record that carries it. -/
def State.postUiLane (s : State) (n gid lane source : Nat) : State :=
  let holds (g : Group) : Bool := g.unit == .slalom n && g.lin == gid
    && ((g.frags.any fun f => f.members.getLsbD lane) || g.deferred.any fun d => d.lanes.getLsbD lane)
  match (s.groups.map fun x => x.2).find? holds with
  | some g => s.postUiUid g.uid source
  | none =>
    match (s.swapped.map fun x => x.group).find? holds with
    | some g => s.postUiUid g.uid source
    | none =>
      match s.grid n with
      | none => s
      | some gr => s.postRecords n gr gid lane source

end Sys2Proof.Machine
end

