-- ==== Sys2Proof/Machine/Trigger.lean ====
section
/-! DEFINITION. The trigger engine (R363-R391): arming, counting, watching, actions; task records, queues, dispatch, and
the end of a task. -/
namespace Sys2Proof.Machine

/-! ## Task records (R378, R379) -/

/-- A counter or status pointer keeps the tag and alignment rules of R378; 0 stands for none. -/
def tagAligned (p n : Nat) : Bool := p / 2 ^ 60 == 0 && p % n == 0
/-- Is a record well formed (R379)? -/
def recordOk (bs : List Byte) : Bool :=
  fieldAt bs 0x16 2 == 0 && fieldAt bs 0x24 1 ≤ 3 && fieldAt bs 0x25 1 ≤ 63 && fieldAt bs 0x26 2 == 0
  && fieldAt bs 0x30 16 == 0 && fieldAt bs 0x20 4 ≤ 1 && tagAligned (fieldAt bs 0 8) 256
  && tagAligned (fieldAt bs 0x18 8) (if fieldAt bs 0x20 4 = 1 then 4 else 8) && tagAligned (fieldAt bs 0x28 8) 4
/-- What a task's end needs (R123, R384). -/
def taskInfoOf (q : Nat) (bs : List Byte) : TaskInfo :=
  { queue := q, succ32 := fieldAt bs 0x20 4 % 2 == 1, succ := BitVec.ofNat 64 (fieldAt bs 0x18 8)
    statAddr := BitVec.ofNat 64 (fieldAt bs 0x28 8), retries := 0, code := BitVec.ofNat 64 (fieldAt bs 0 8) }

/-- An add at a home address: one atomic application, which wraps (R325, R374); like a read, it waits for its line (R326,
R329). A word with an uncorrectable error gives a free value. -/
def State.homeAdd (s : State) (t a n x : Nat) : State :=
  let s := s.engineRead t a n false
  let old := if (List.range n).any fun i => s.badAt (a + i) then
      leNat ((List.range n).map fun i => Config.freeByte s.freeCtr i)
    else s.readHomeNat a n
  s.used.engineWriteN t a (leBytes n (old + x))

/-! ## The end of a task (R384) -/

/-- A write of a task's end that cannot be made: an error record of kind 5. -/
def State.taskWriteFailed (s : State) (t part core q : Nat) (p : W64) (f : AccFault) : State :=
  s.faultLog t { kind := 5, cause := f.cause, part := part, gridid := 0xFFFFFFFF, unit := q, core := core, epc := 0
                 eaddr := p.toNat, einfo := 2 ^ 24 * f.cause + f.detail }
/-- The status write, then the successor add where there is one, as one release at DEVICE scope. -/
def State.taskEnd (s : State) (t asid part core : Nat) (x : TaskInfo) (status : Nat) (add : Bool) : State :=
  let s := if x.statAddr = 0 then s
    else
      match s.locateFe t asid [0] permW x.statAddr with
      | (s, .ok a) => s.engineWriteN t a (leBytes 4 status)
      | (s, .error f) => s.taskWriteFailed t part core x.queue x.statAddr f
  if x.succ = 0 ∨ add = false then s
  else
    match s.locateFe t asid [0] (permR + permW) x.succ with
    | (s, .ok a) => s.homeAdd t a (if x.succ32 then 4 else 8) 1
    | (s, .error f) => s.taskWriteFailed t part core x.queue x.succ f
/-- The status word of R384: its low bits, retries, and cause. -/
def taskStatus (low retries cause : Nat) : Nat := low + 2 ^ 8 * min 255 retries + 2 ^ 24 * (cause % 256)

/-! ## Task queues (R380, R381) -/

/-- Is a queue bound and full? -/
def TaskQ.full (q : TaskQ) : Bool := q.slots ≤ q.recs.length
/-- The numbers of the physical pages of a queue's ring. -/
def State.ringPages (s : State) (tq : TaskQ) : List Nat :=
  (List.range ((64 * tq.slots + 4095) / 4096)).filterMap fun k =>
    match (s.locateFe tq.tenant tq.asid [0] permW (tq.ring + BitVec.ofNat 64 (4096 * k))).2 with
    | .ok a => some (a / 4096)
    | .error _ => none
/-- A push in push order: the record takes the next slot of the ring (R381). -/
def State.pushTask (s : State) (q : Nat) (bs : List Byte) : State :=
  let tq := s.taskq q
  let slot := tq.tail % tq.slots
  let s := match s.locateFe tq.tenant tq.asid [0] permW (tq.ring + BitVec.ofNat 64 (64 * slot)) with
    | (s, .ok a) => s.engineWriteN tq.tenant a bs
    | (s, .error _) => s
  let s := s.updTaskq q fun _ => { tq with tail := tq.tail + 1, recs := tq.recs ++ [(slot, s.nextUid, bs)], pages := s.ringPages tq }
  s.fresh
/-- A queued record as its dispatcher reads it; one whose bytes meet an error is free (log 12). -/
def State.queuedTask (s : State) (tq : TaskQ) (slot : Nat) (bs : List Byte) : State × List Byte :=
  match s.locateFe tq.tenant tq.asid [0] permR (tq.ring + BitVec.ofNat 64 (64 * slot)) with
  | (s, .ok a) =>
    let s := s.engineRead tq.tenant a 64 false
    if (List.range 64).all fun i => !s.errAt (a + i) then (s, bs)
    else (s.used, (List.range 64).map fun i => Config.freeByte s.freeCtr i)
  | (s, .error _) => (s, bs)

/-! ## The trigger words (R386) -/

/-- A trigger word: with no Enabled lane its flag rises and falls; it is held at flag 63, and, where it releases first,
until the group's earlier accesses are performed. -/
def trigWord (i : Instr) (s : State) (o : FOp) (rel : Bool) (run : Nat → Group → Group → Frag → State) : State :=
  onWord i s never never fun gk g f =>
    if enabled g f o.guard = 0 then idleTrack s gk g f o.fs
    else
      match memHold g f (some o.fs) with
      | some w => waitWord s gk g f w
      | none => if rel && !g.allPerformed then waitWord s gk g f .performs else run gk g ((s.group gk).getD g) f

/-- A block that a trigger word reads at its pointer, after its release: SPACE, ALIGN and XLATE are exact. -/
def trigBlock (s : State) (gk : Nat) (g g0 : Group) (f : Frag) (p : W64) (n : Nat) (run : State → List Byte → State) :
    State :=
  let s := s.releaseNow (coreOf gk) g.asid
  let sp := s.span (coreOf gk) g [0] permR p n
  let causes := (match sp.2 with | .error e => [ptrCause e.2 p] | .ok _ => [])
    ++ (if p.toNat % 64 ≠ 0 then [(3, { eaddr := p, detail := 0 })] else [])
  match sp.2 with
  | .error _ => takeTrap sp.1 gk g0 f causes
  | .ok as =>
    if causes ≠ [] then takeTrap sp.1 gk g0 f causes
    else (run (sp.1.engineReads g.tenant as) (sp.1.gather as)).noteData gk (sp.1.badByte p as)

/-! ## Arming (R364-R369, R373) -/

/-- How an arming translates pointers: a group's way or a packet's. -/
abbrev Locator := State → List Nat → Nat → W64 → State × Except AccFault Nat

/-- The segments of a range (R369): page by page, joined where the homes run on in one slice. -/
def State.segsBy (loc : Locator) (s : State) (p : W64) (n : Nat) : State × Except AccFault (List (Nat × Nat)) :=
  let pages := (p.toNat + n - 1) / 4096 + 1 - p.toNat / 4096
  let r := (List.range pages).foldl (fun (acc : State × Except AccFault (List (Nat × Nat))) k =>
    match acc with
    | (s, .error f) => (s, .error f)
    | (s, .ok gs) =>
      let lo := max p.toNat (4096 * (p.toNat / 4096 + k))
      let hi := min (p.toNat + n) (4096 * (p.toNat / 4096 + k + 1))
      match loc s [0, 1] 0 (BitVec.ofNat 64 lo) with
      | (s, .error f) => (s, .error f)
      | (s, .ok a) =>
        match gs with
        | (b, m) :: r =>
          if b + m = a && !(isStore a && a % 2 ^ 24 == 0) then (s, .ok ((b, m + (hi - lo)) :: r))
          else (s, .ok ((a, hi - lo) :: gs))
        | [] => (s, .ok [(a, hi - lo)])) (s, .ok [])
  (r.1, match r.2 with | .ok gs => .ok gs.reverse | .error f => .error f)

/-- The slices that home a line of some segments. -/
def State.segSlices (s : State) (gs : List (Nat × Nat)) : List Nat :=
  (gs.flatMap fun g =>
    if isStore g.1 then [(g.1 - storeBase) / 2 ^ 24]
    else (List.range ((g.1 + g.2 - 1) / 128 + 1 - g.1 / 128)).filterMap fun k => s.homeSlice (128 * (g.1 / 128 + k))).eraseDups

/-- The filters in use in a slice (R369). -/
def State.filters (s : State) (slice : Nat) : Nat := (s.trigs.filter fun e => e.2.slices.contains slice).length
/-- The lowest-numbered FREE entry of a die. -/
def State.freeEntry (s : State) (die : Nat) : Option Nat :=
  ((List.range 1024).map fun i => 1024 * die + i).find? fun e => (s.trig e).state == 0
/-- The handle of an entry (R363). -/
def trigHandle (e gen : Nat) : Nat := 4096 * gen + e
/-- An entry becomes FREE; its generation rises (R363). -/
def Trig.freed (e : Trig) : Trig := { Trig.free with gen := (e.gen + 1) % 4096 }

/-- The fields of an arm block (R366). -/
structure ArmBlk where
  range : W64
  len : Nat
  target : Nat
  ctl : Nat
  queue : Nat
  bar : W64
  addend : Nat
  pad : Nat
  record : List Byte
deriving DecidableEq, Repr

/-- An arm block's bytes as fields. -/
def armBlkOf (bs : List Byte) : ArmBlk :=
  { range := BitVec.ofNat 64 (fieldAt bs 0 8), len := fieldAt bs 8 8, target := fieldAt bs 0x10 8, ctl := fieldAt bs 0x18 4
    queue := fieldAt bs 0x1C 4, bar := BitVec.ofNat 64 (fieldAt bs 0x20 8), addend := fieldAt bs 0x28 8
    pad := fieldAt bs 0x30 16, record := (bs.drop 0x40).take 64 }
/-- KIND. -/
def ArmBlk.kind (b : ArmBlk) : Nat := b.ctl % 4
/-- ACTION. -/
def ArmBlk.action (b : ArmBlk) : Nat := b.ctl / 4 % 4
/-- BARW32. -/
def ArmBlk.bar32 (b : ArmBlk) : Bool := b.ctl.testBit 5
/-- Is LEN in range for KIND (R366)? -/
def ArmBlk.lenOk (b : ArmBlk) : Bool :=
  if b.kind = 1 then 1 ≤ b.len && b.len ≤ 2 ^ 32 else b.kind == 2 && b.len == 0
/-- MALFORMED of R367. -/
def ArmBlk.malformed (b : ArmBlk) (packet : Bool) : Bool :=
  2 ^ 6 ≤ b.ctl || b.pad != 0 || !b.lenOk || b.action == 0
  || (b.kind == 1 && !(1 ≤ b.target && b.target ≤ 2 ^ 63)) || (b.kind == 2 && b.range.toNat % 8 != 0)
  || (if b.action = 1 then b.bar.toNat % (if b.bar32 then 4 else 8) != 0 || (b.bar32 && 2 ^ 32 ≤ b.addend)
      else b.bar != 0 || b.addend != 0)
  || (if b.action = 2 then !recordOk b.record else b.queue != 0 || b.record.any fun x => x != 0)
  || (b.action == 3 && packet)
/-- QUEUE of R367. -/
def ArmBlk.badQueue (b : ArmBlk) (s : State) (t : Nat) : Bool :=
  let q := s.taskq b.queue
  b.action == 2 && (1024 ≤ b.queue || !q.bound || q.tenant != t || q.part != fieldAt b.record 0x25 1)

/-- What the translations of an arming come to: a fault of the range, a fault of BARPTR, the segments, the barrier word's
home. -/
structure ArmLoc where
  range : Option AccFault
  bar : Option AccFault
  segs : List (Nat × Nat)
  barAt : Nat
deriving DecidableEq, Repr

/-- The first fault, from page `k` of a range on, whose length no entry may have: its pages are translated in order, and
the first one that faults ends the check. -/
def rangeFault (loc : Locator) (p : W64) : Nat → Nat → State → State × Except AccFault (List (Nat × Nat))
  | 0, _, s => (s, .ok [])
  | left + 1, k, s =>
    match loc s [0, 1] 0 (BitVec.ofNat 64 (max p.toNat (4096 * (p.toNat / 4096 + k)))) with
    | (s, .error f) => (s, .error f)
    | (s, .ok _) => rangeFault loc p left (k + 1) s
/-- The translations that an arming makes of RANGE, before any status: a BYTES range, whatever its length, or a WATCH
word (R387). A block of no KIND names neither. -/
def State.rangeBy (loc : Locator) (s : State) (b : ArmBlk) : State × Except AccFault (List (Nat × Nat)) :=
  match b.kind with
  | 1 =>
    if b.len = 0 then (s, .ok [])
    else if b.len ≤ 2 ^ 32 then s.segsBy loc b.range b.len
    else rangeFault loc b.range ((b.range.toNat + b.len - 1) / 4096 + 1 - b.range.toNat / 4096) 0 s
  | 2 => s.segsBy loc b.range (8 - b.range.toNat % 8)
  | _ => (s, .ok [])
/-- The translations of an arming (R369, R374, R387). -/
def State.armLocate (loc : Locator) (s : State) (b : ArmBlk) : State × ArmLoc :=
  let r := s.rangeBy loc b
  let x : State × Except AccFault Nat := if b.action = 1 then loc r.1 [0] permW b.bar else (r.1, .ok 0)
  (x.1, { range := match r.2 with | .error f => some f | .ok _ => none
          bar := match x.2 with | .error f => some f | .ok _ => none
          segs := match r.2 with | .error _ => [] | .ok gs => gs
          barAt := match x.2 with | .error _ => 0 | .ok a => a })

/-- The entry that an arming loads (R387). -/
def armedEntry (b : ArmBlk) (gen tenant home : Nat) (l : ArmLoc) (slices : List Nat) (ui : UiTarget) : Trig :=
  { state := 1, gen := gen, tenant := tenant, watch := b.kind == 2, action := b.action, autofree := b.ctl.testBit 4
    disarmed := false, barw32 := b.bar32, target := b.target, count := 0, home := home, segs := l.segs, slices := slices
    unsent := [], queue := b.queue, bar := l.barAt, addend := BitVec.ofNat 64 b.addend, record := b.record, ui := ui }

/-- Arming after its translations (R367, R387): the status, and the handle; a watched word is tested at once. -/
def State.armEntry (s : State) (t : Nat) (b : ArmBlk) (l : ArmLoc) (packet : Bool) (ui : UiTarget) : State × Nat × Nat :=
  if b.malformed packet then (s, 5, 0)
  else if b.badQueue s t then (s, 4, 0)
  else
    match l.segs with
    | [] => (s, 5, 0)
    | (a0, _) :: _ =>
      let die := ((s.sliceOf a0).getD 0) / 64
      match s.freeEntry die with
      | none => (s, 1, 0)
      | some e =>
        let slices := if b.kind = 1 then s.segSlices l.segs else []
        if b.kind = 1 ∧ 64 < l.segs.length then (s, 2, 0)
        else if (slices.any fun n => 128 ≤ s.filters n) = true then (s, 3, 0)
        else
          let gen := (s.trig e).gen
          let x := armedEntry b gen t a0 l slices ui
          let x := if b.kind = 2 ∧ b.target ≤ s.readHomeNat a0 8 then x.fire else x
          (s.updTrig e fun _ => x, 0, trigHandle e gen)

/-- ARMAC (R387). -/
def execArmac (o : FOp) (s : State) : Host.Outcome State Fault Refusal :=
  .next (s.orWait (trigWord (.armac o) s o true fun gk g g0 f =>
    let p := readS64 g f o.a.idx.toNat
    trigBlock s gk g g0 f p 128 fun s bs =>
      let b := armBlkOf bs
      let r := s.armLocate (fun s tags need q => s.locate (coreOf gk) g tags need q) b
      let causes := (match r.2.range with | some x => [ptrCause x b.range] | none => [])
        ++ (match r.2.bar with | some x => [ptrCause x b.bar] | none => [])
      if causes ≠ [] then takeTrap r.1 gk g0 f causes
      else
        let ui := match g.unit with
          | .slalom n => UiTarget.slalom n g.lin (lowestMember f)
          | _ => .group g.uid
        let x := r.1.armEntry g.tenant b r.2 false (if b.action = 3 then ui else .none)
        decided x.1 gk g f o.fs o.d.toNat [x.2.1, x.2.2]))

/-! ## DISARM, ACRD (R388) -/

/-- The entry that a handle names for a tenant; none where it is stale. -/
def State.trigOf (s : State) (t h : Nat) : Option (Nat × Trig) :=
  let e := h % 4096
  let x := s.trig e
  if h < 2 ^ 24 && x.state != 0 && x.gen == h / 4096 && x.tenant == t then some (e, x) else none
/-- The report of an entry (R388). -/
def Trig.report (x : Trig) (status : Nat) : List Nat :=
  [x.count % 2 ^ 32, x.count / 2 ^ 32 % 2 ^ 32, x.action * 64 + (if x.watch then 2 else 1) * 16 + x.state, status]

/-- DISARM (R388). -/
def execDisarm (o : FOp) (s : State) : Host.Outcome State Fault Refusal :=
  .next (trigWord (.disarm o) s o false fun gk g _ f =>
    match s.trigOf g.tenant (readS g f o.a.idx.toNat).toNat with
    | none => decided s gk g f o.fs o.d.toNat [0, 0, 0, 2]
    | some (e, x) =>
      let s := s.updTrig e fun y => if x.state = 2 then { y with disarmed := true } else y.freed
      decided s gk g f o.fs o.d.toNat (x.report (if x.state = 1 then 0 else 1)))
/-- ACRD (R388). -/
def execAcrd (o : FOp) (s : State) : Host.Outcome State Fault Refusal :=
  .next (trigWord (.acrd o) s o false fun gk g _ f =>
    match s.trigOf g.tenant (readS g f o.a.idx.toNat).toNat with
    | none => decided s gk g f o.fs o.d.toNat [0, 0, 0, 2]
    | some (_, x) => decided s gk g f o.fs o.d.toNat (x.report 0))

/-! ## TASKQ (R389) -/

/-- The queue that TASKQ names. -/
def taskqNo (g : Group) (f : Frag) (o : FOp) : Nat := opB g f o .zext 1 0
/-- The status of a push (R389). -/
def State.taskqStatus (s : State) (t q : Nat) (bs : List Byte) : Nat :=
  let tq := s.taskq q
  if !recordOk bs then 3
  else if 1024 ≤ q || !tq.bound || tq.tenant != t then 2
  else if fieldAt bs 0x25 1 ≠ tq.part then 4
  else if tq.full then 1
  else 0
/-- TASKQ (R389). -/
def execTaskq (o : FOp) (s : State) : Host.Outcome State Fault Refusal :=
  .next (s.orWait (trigWord (.taskq o) s o true fun gk g g0 f =>
    trigBlock s gk g g0 f (readS64 g f o.a.idx.toNat) 64 fun s bs =>
      let q := taskqNo g f o
      let st := s.taskqStatus g.tenant q bs
      decided (if st = 0 then s.pushTask q bs else s) gk g f o.fs o.d.toNat [st]))

/-- TRIGGER_INSTR_COMPLETE (R387-R389): the decided results reach the scalars and the flag falls. -/
def trigComplete (s : State) (gk op : Nat) : State :=
  match s.group gk with
  | none => s
  | some g =>
    match g.op op with
    | none => s
    | some o =>
      match o.kind with
      | .scalars ws acq => endScalars s gk g o ws acq
      | _ => s
/-- TRIGGER_INSTR_COMPLETE. -/
def execTriggerInstrComplete (gk op : Nat) (s : State) : Host.Outcome State Fault Refusal := .next (trigComplete s gk op)

/-! ## Counts (R370, R371) -/

/-- COUNT_SEND (R370): a slice's unsent count of at least 256, or 128 cycles old, leaves for the counter-home slice. -/
def countSend (s : State) (slice e : Nat) : State :=
  let x := s.trig e
  match Tab.find x.unsent slice with
  | none => s
  | some (n, first) =>
    if x.state ≠ 1 ∨ ¬(256 ≤ n ∨ first + 128 ≤ s.clock) then s
    else
      let s := s.updTrig e fun y => { y with unsent := Tab.del y.unsent slice }
      { s with counts := s.counts ++ [{ entry := e, gen := x.gen, bytes := n }] }
/-- COUNT_SEND. -/
def execCountSend (slice entry : Nat) (s : State) : Host.Outcome State Fault Refusal := .next (countSend s slice entry)
/-- COUNT_ARRIVE (R370, R371): a sent count reaches its entry; one for an entry that is no longer ARMED is discarded. -/
def countArrive (s : State) (k : Nat) : State :=
  match s.counts[k]? with
  | none => s
  | some c =>
    let s := { s with counts := s.counts.eraseIdx k }
    let x := s.trig c.entry
    if x.state = 1 ∧ x.gen = c.gen then s.updTrig c.entry fun y => y.add c.bytes else s
/-- COUNT_ARRIVE. -/
def execCountArrive (k : Nat) (s : State) : Host.Outcome State Fault Refusal := .next (countArrive s k)

/-! ## Actions (R374-R376) -/

/-- The action of an entry is done: FIRED, or FREE. -/
def State.actionDone (s : State) (e : Nat) : State :=
  s.updTrig e fun x => if x.autofree || x.disarmed then x.freed else { x with state := 3 }
/-- BARRIER_ADD_ACTION (R374). -/
def barrierAdd (s : State) (e : Nat) : State :=
  let x := s.trig e
  if x.state ≠ 2 ∨ x.action ≠ 1 then s
  else (s.homeAdd x.tenant x.bar (if x.barw32 then 4 else 8) x.addend.toNat).actionDone e
/-- BARRIER_ADD_ACTION. -/
def execBarrierAddAction (e : Nat) (s : State) : Host.Outcome State Fault Refusal := .next (s.orWait (barrierAdd s e))
/-- The push of a fired entry (R375): a full queue leaves it FIRING. -/
def firedPush (s : State) (e : Nat) : State :=
  let x := s.trig e
  if x.state ≠ 2 ∨ x.action ≠ 2 then s
  else
    let q := s.taskq x.queue
    if !q.bound || q.tenant != x.tenant || q.full then s else (s.pushTask x.queue x.record).actionDone e
/-- TASK_PUSH_ACTION (R375). -/
def execTaskPushAction (e : Nat) (s : State) : Host.Outcome State Fault Refusal := .next (s.orWait (firedPush s e))
/-- DEFERRED_PUSH (R375): an entry that stayed FIRING pushes once a slot is free. -/
def execDeferredPush (e : Nat) (s : State) : Host.Outcome State Fault Refusal := .next (s.orWait (firedPush s e))

/-- The tenant under which a captured unit's image is translated. -/
def State.imageTenant (s : State) (h : HeldUnit) : Nat := (s.tenantOfAsid h.asid).getD h.tenant
/-- Bytes of an image, by virtual address; unreadable ones read as zero (log 28). -/
def State.imageRead (s : State) (t asid a n : Nat) : List Byte :=
  match s.spanFe t asid [0] permR (BitVec.ofNat 64 a) n with
  | (s, .ok as) => s.gather as
  | (_, .error _) => zeros n
/-- The front end's requests for bytes of an image, page by page (R329, R337). -/
def State.imageFetch (s : State) (t asid a n : Nat) : State :=
  (List.range (if n = 0 then 0 else (a + n - 1) / 4096 + 1 - a / 4096)).foldl (fun (s : State) k =>
    let lo := max a (4096 * (a / 4096 + k))
    let hi := min (a + n) (4096 * (a / 4096 + k + 1))
    match s.locateFe t asid [0] permR (BitVec.ofNat 64 lo) with
    | (s, .ok pa) => s.engineRead t pa (hi - lo) false
    | (s, .error _) => s) s
/-- Write bytes of an image, page by page; those that do not translate are not written. -/
def State.imageWrite (s : State) (t asid a : Nat) (bs : List Byte) : State :=
  let pages := (a + bs.length - 1) / 4096 + 1 - a / 4096
  (List.range (if bs = [] then 0 else pages)).foldl (fun (s : State) k =>
    let lo := max a (4096 * (a / 4096 + k))
    let hi := min (a + bs.length) (4096 * (a / 4096 + k + 1))
    match s.locateFe t asid [0] permW (BitVec.ofNat 64 lo) with
    | (s, .ok pa) => s.engineWrites t (((List.range (hi - lo)).zip (bs.drop (lo - a))).map fun x => (pa + x.1, x.2))
    | (s, .error _) => s) s
/-- A user interrupt becomes pending in bytes that hold UISRC and the flags byte at two offsets from an address. -/
def State.postSaved (s : State) (h : HeldUnit) (uisrc flags source : Nat) : State :=
  let t := s.imageTenant h
  let s := (s.imageFetch t h.asid uisrc 4).imageFetch t h.asid flags 1
  let r := postedUi (leNat (s.imageRead t h.asid uisrc 4)) (leNat (s.imageRead t h.asid flags 1)) source
  (s.imageWrite t h.asid uisrc (leBytes 4 r.1)).imageWrite t h.asid flags (leBytes 1 r.2)
/-- A user interrupt for a captured group, by its number: it is pending in its image (R376). -/
def State.postHeld (s : State) (uid source : Nat) : State :=
  s.held.foldl (fun (s : State) h =>
    match h.groups.find? fun x => x.uid == uid with
    | some x => s.postSaved h (x.image + 0x2C8) (x.image + 0x2CC) source
    | none => s) s
/-- Does a captured group hold a lane? -/
def State.heldLane (s : State) (h : HeldUnit) (x : HeldGroup) (lane : Nat) : Bool :=
  let bs := s.imageRead (s.imageTenant h) h.asid x.image 0x1000
  let ds := imageDeferred [] bs
  ((imageFrags [] bs (BitVec.ofNat 96 (fieldAt bs 0x388 12)) ds 0).any fun f => f.members.getLsbD lane)
  || ds.any fun d => d.lanes.getLsbD lane
/-- A user interrupt for a lane of a captured slalom grid (R411). -/
def State.postHeldLane (s : State) (n gid lane source : Nat) : State :=
  s.held.foldl (fun (s : State) h =>
    if h.grid ≠ some n then s
    else
      match h.groups.find? fun x => x.gid == gid && s.heldLane h x lane with
      | some x => s.postSaved h (x.image + 0x2C8) (x.image + 0x2CC) source
      | none =>
        match h.recs.find? fun a => recHolds (s.imageRead (s.imageTenant h) h.asid a 256) gid lane with
        | some a => s.postSaved h (a + 0xB4) (a + 0xE0) source
        | none => s) s
/-- USER_INTERRUPT_ACTION (R376, R411). -/
def userInterruptAction (s : State) (e : Nat) : State :=
  let x := s.trig e
  if x.state ≠ 2 ∨ x.action ≠ 3 then s
  else
    let src := 0x200000 + e
    let s := match x.ui with
      | .none => s
      | .group uid => (s.postUiUid uid src).postHeld uid src
      | .slalom n gid lane => (s.postUiLane n gid lane src).postHeldLane n gid lane src
    s.actionDone e
/-- USER_INTERRUPT_ACTION. -/
def execUserInterruptAction (e : Nat) (s : State) : Host.Outcome State Fault Refusal := .next (s.orWait (userInterruptAction s e))

/-! ## Dispatch (R382, R383) -/

/-- A head record: PRIO, place in push order, queue, slot, bytes. -/
structure Head where
  prio : Nat
  order : Nat
  queue : Nat
  slot : Nat
  bytes : List Byte
deriving DecidableEq, Repr
/-- The order in which heads are taken (R382). -/
def Head.before (a b : Head) : Bool :=
  b.prio < a.prio || (a.prio == b.prio && (a.order < b.order || (a.order == b.order && a.queue < b.queue)))
/-- Put a head into its place. -/
def insertHead (h : Head) : List Head → List Head
  | [] => [h]
  | x :: r => if h.before x then h :: x :: r else x :: insertHead h r
/-- The heads of a die's queues, in that order. -/
def State.heads (s : State) (die : Nat) : List Head :=
  ((s.taskqs.filter fun q => q.1 / 256 == die && q.2.bound).filterMap fun q =>
    match q.2.recs with
    | (slot, order, bs) :: _ => some { prio := fieldAt bs 0x24 1, order := order, queue := q.1, slot := slot, bytes := bs }
    | [] => none).foldl (fun l h => insertHead h l) []

/-- The core that takes new work of some budget (R382, R448): one that has room, with the fewest resident groups, then
the lowest index. -/
def State.leastCore (s : State) (cs : List Nat) (ok : Nat → Bool) : Option Nat :=
  (cs.filter ok).foldl (fun (best : Option Nat) c =>
    match best with
    | none => some c
    | some b => if (s.groupsOn c).length < (s.groupsOn b).length then some c else some b) none
/-- May a captured task group that is due for re-admission return to a core (R382)? It then keeps heads from it. -/
def State.taskReturns (s : State) (core : Nat) : Bool :=
  s.held.any fun h => h.grid.isNone && h.ready && (s.partCores h.part).contains core
/-- May a task group of a budget go to a core (R382)? -/
def State.taskFits (s : State) (budget core : Nat) : Bool :=
  !s.slalomHeld core && 0 < s.freeSlots core && budget ≤ s.freeRegs core && !s.heldForReturn core && !s.taskReturns core

/-- A record refused at dispatch (R383). -/
def State.refuseTask (s : State) (tq : TaskQ) (q : Nat) (bs : List Byte) : State :=
  let s := s.taskEnd tq.tenant tq.asid tq.part 0 (taskInfoOf q bs) (taskStatus 8 0 18) false
  s.faultLog tq.tenant { kind := 4, cause := 18, part := tq.part, gridid := 0xFFFFFFFF, unit := q, core := 0, epc := 0
                         eaddr := 0, einfo := 0 }
/-- A task group as it is placed (R383). -/
def taskGroup (s : State) (tq : TaskQ) (q : Nat) (bs : List Byte) (o : CodeObj) : Group :=
  let uid := s.nextUid
  let g := Group.launch uid (.task uid) (8 * o.vbudget) tq.hvec (launchFrag (fieldAt bs 0 8 + o.entry) s.clock) false
  let args := (List.range o.nargs).map fun k => (k, BitVec.ofNat 32 (fieldAt bs (8 + 4 * k) 4))
  { g with lin := q, tx := fieldAt bs 0x10 2, ty := fieldAt bs 0x12 2, tz := fieldAt bs 0x14 2, asid := tq.asid
           tenant := tq.tenant, part := tq.part, prio := fieldAt bs 0x24 1 % 4, task := some (taskInfoOf q bs)
           regs := writeSs g.regs args }
/-- A head is taken: refused, or placed on a core; none where it fits no core. -/
def State.dispatchHead (s : State) (h : Head) : Option State :=
  let tq := s.taskq h.queue
  let r := s.queuedTask tq h.slot h.bytes
  let x := r.1.readObj tq.tenant tq.asid (BitVec.ofNat 64 (fieldAt r.2 0 8))
  let taken (s : State) : State := s.updTaskq h.queue fun y => { y with recs := y.recs.drop 1 }
  let obj := match x.2 with | .ok o => (if o.kind = 1 then some o else none) | .error _ => none
  match obj with
  | none => some ((taken x.1).refuseTask tq h.queue r.2)
  | some o =>
    let s := x.1
    match s.leastCore (s.partCores tq.part) (s.taskFits (8 * o.vbudget)) with
    | none => none
    | some c =>
      (s.freeSlot c).map fun gk =>
        ((taken s).acquireAction c tq.asid).fresh.setGroup gk (taskGroup s tq h.queue r.2 o)

end Sys2Proof.Machine
end

