-- ==== Sys2Proof/Machine/CopyEng.lean ====
section
/-! DEFINITION. The cluster copy engine (R288-R321): rings, taking an entry and its checks, rows, completion. -/
namespace Sys2Proof.Machine

/-! ## Rings (R146, R288-R290) -/

/-- The engine's own write of bytes of a ring's control block (R146). -/
def State.ownWrite (s : State) (k : Nat) (bs : List Byte) : State :=
  ({ s with scratch := Memory.writeN s.scratch k bs, tags := Tab.set 0 s.tags (k / 128) 0 } : State).taintB (k / 2 ^ 20)
    ((List.range bs.length).map fun i => k % 2 ^ 20 + i)
/-- Change a team's ring. -/
def State.updRing (s : State) (tk : Nat) (f : RingState → RingState) : State :=
  s.updTeam tk fun t => { t with ring := t.ring.map f }
/-- The pointer of a cluster-scratchpad byte, from its key. -/
def keyPtr (k : Nat) : W64 := BitVec.ofNat 64 (2 ^ 62 + k % 2 ^ 20)
/-- The key of entry `k` of a ring. -/
def entryKey (tk : Nat) (t : Team) (r : RingState) (k : Nat) : Nat := teamKey tk t + r.off + 0x40 + 32 * (k % r.entries)
/-- The number of a team's lowest-numbered live group. -/
def State.firstGroup (s : State) (tk : Nat) : Option Nat :=
  (((s.groups.map fun x => x.2) ++ s.swapped.map fun x => x.group).filter fun g => g.unit == .team tk).foldl
    (fun (best : Option Group) g =>
      match best with
      | none => some g
      | some b => if g.gnum < b.gnum then some g else some b) none |>.map fun g => g.uid
/-- A copy error (R319): COPYERR in the team's lowest-numbered live group, or kept for the team's completion; ERRIDX names
the command. -/
def State.copyError (s : State) (tk code index : Nat) (addr : W64) : State :=
  let rec_ : CauseRec := { eaddr := addr, detail := code + 256 * (index % 2 ^ 16) }
  let s := match s.team tk with
    | some t => (match t.ring with
      | some r => (s.updRing tk fun x => { x with erridx := BitVec.ofNat 32 index }).ownWrite (teamKey tk t + r.off + 12)
          (leBytes 4 index)
      | none => s)
    | none => s
  match s.firstGroup tk with
  | some uid => s.updUid uid fun g => g.record 17 rec_
  | none => s.updTeam tk fun t => { t with copyErr := some rec_ }

/-- RING_NOTIFY (R290): the engine reads PROD after a write to its granule; more than N published entries are a RING
error, recorded at each such read. -/
def ringNotify (s : State) (tk : Nat) : State :=
  match s.team tk with
  | none => s
  | some t =>
    match t.ring with
    | none => s
    | some r =>
      if !r.touched then s
      else
        let p := BitVec.ofNat 32 (leNat (s.bankRead (teamKey tk t + r.off) 4))
        let bad := decide (r.entries < (p - r.cons).toNat)
        let s := s.updRing tk fun x => { x with prod := p, bad := bad, touched := false }
        if bad then s.copyError tk 13 r.cons.toNat (keyPtr (entryKey tk t r r.cons.toNat)) else s
/-- RING_NOTIFY. -/
def execRingNotify (tk : Nat) (s : State) : Host.Outcome State Fault Refusal := .next (ringNotify s tk)

/-! ## The entry (R294-R298) -/

/-- CMD. -/
def CopyCmd.cmd (c : CopyCmd) : Nat := bits c.w0 7 0
/-- UI. -/
def CopyCmd.ui (c : CopyCmd) : Bool := c.w0.getLsbD 8
/-- WHOLE. -/
def CopyCmd.isWhole (c : CopyCmd) : Bool := c.w0.getLsbD 9
/-- BARRIER, which a FENCE has (R307). -/
def CopyCmd.barrier (c : CopyCmd) : Bool := c.w0.getLsbD 10 || c.cmd == 9
/-- UIGRP. -/
def CopyCmd.uigrp (c : CopyCmd) : Nat := bits c.w0 14 11
/-- CTRSEL. -/
def CopyCmd.ctrsel (c : CopyCmd) : Nat := bits c.w0 21 16
/-- CMODE. -/
def CopyCmd.cmode (c : CopyCmd) : Nat := bits c.w0 23 22
/-- DMASK as cores. -/
def CopyCmd.cores (c : CopyCmd) : List Nat := (List.range 4).filter fun n => c.w0.getLsbD (24 + n)
/-- ROWS. -/
def CopyCmd.rows (c : CopyCmd) : Nat := bits c.w0 47 32
/-- ROWBYTES. -/
def CopyCmd.rowBytes (c : CopyCmd) : Nat := bits c.w0 63 48
/-- Does the command carry a payload? -/
def CopyCmd.pays (c : CopyCmd) : Bool := c.cmd < 9
/-- TAG: from W3, or from the shape record's MODE. -/
def CopyCmd.tag (c : CopyCmd) : Nat := if c.cmd = 3 then fieldAt c.shape 0x34 1 / 2 % 8 else bits c.w3 50 48
/-- The destination's row pitch in bytes. -/
def CopyCmd.dpitch (c : CopyCmd) : Nat := if c.cmd = 3 then fieldAt c.shape 0x38 4 else 16 * bits c.w3 47 32
/-- SPITCH. -/
def CopyCmd.spitch (c : CopyCmd) : Nat := bits c.w3 31 0
/-- Element size code. -/
def CopyCmd.esz (c : CopyCmd) : Nat := if c.cmd = 8 then bits c.w3 49 48 else bits c.w3 53 52
/-- The groups of a sparse row (R303). -/
def CopyCmd.spxGroups (c : CopyCmd) : Nat := c.rowBytes / (4 * 2 ^ c.esz)
/-- Source bytes of a sparse row. -/
def CopyCmd.spxBytes (c : CopyCmd) : Nat := 2 * c.spxGroups * 2 ^ c.esz + (c.spxGroups + 1) / 2
/-- The body of a pointer. -/
def bodyOf (p : W64) : Nat := bits p 59 0
/-- The end of a space that a copy field may name: past it no byte exists. -/
def spaceEnd (tag : Nat) : Nat := if tag = 0 then 2 ^ 57 else if tag = 1 then 2 ^ 32 else 2 ^ 20
/-- Does a pointer carry one of some tags, its zero bits zero? -/
def ptrOk (p : W64) (tags : List Nat) : Bool := tags.contains (tagOf p) && bodyOf p < spaceEnd (tagOf p)

/-- Reserved bits, field ranges and misused fields (R296-R299, R304). -/
def CopyCmd.reserved (c : CopyCmd) : Bool :=
  bits c.w0 31 28 != 0 || c.w0.getLsbD 15 || (c.cmode == 0 && c.ctrsel != 0) || (!c.ui && c.uigrp != 0)
  || (match c.cmd with
      | 1 => bits c.w3 63 51 != 0
      | 2 => bits c.w3 63 51 != 0
      | 4 => bits c.w3 63 54 != 0 || c.w3.getLsbD 51
      | 5 => bits c.w3 63 51 != 0 || bits c.w3 31 20 != 0
      | 6 => bits c.w3 63 51 != 0 || bits c.w3 31 20 != 0 || (1 ≤ c.tag && c.tag ≤ 3)
      | 7 => bits c.w3 63 51 != 0 || c.spitch != 0
      | 8 => bits c.w3 63 50 != 0
      | 3 => false
      | _ => c.rows != 0 || c.rowBytes != 0 || c.w2 != 0 || c.w3 != 0 || c.isWhole
          || (bits c.w0 27 24 != 0 && c.cmode < 2))
  || (c.pays && c.cmd != 3 && c.cmd != 8 && tagOf c.w2 < 2 && c.tag != 0)
/-- Pointer tags (R297). -/
def CopyCmd.badTag (c : CopyCmd) : Bool :=
  match c.cmd with
  | 2 => !ptrOk c.w1 [0, 1, 4] || !ptrOk c.w2 [4] || 2 ^ 18 ≤ bodyOf c.w2
  | 3 => !ptrOk c.w1 [0, 1, 4] || !ptrOk c.w2 [0, 1, 4] || !ptrOk c.w3 [0, 1, 4]
  | 6 => !ptrOk c.w1 [4] || !ptrOk c.w2 [0, 1, 4]
  | 7 => !ptrOk c.w2 [0, 1, 4]
  | 8 => !ptrOk c.w1 [1] || !ptrOk c.w2 [1]
  | _ => c.pays && (!ptrOk c.w1 [0, 1, 4] || !ptrOk c.w2 [0, 1, 4])

/-- A fixed range of a command: tag, first body, rows, pitch, bytes of a row. -/
structure CopyRange where
  tag : Nat
  base : Nat
  rows : Nat
  pitch : Nat
  len : Nat
deriving DecidableEq, Repr
/-- The ranges that a command's fields fix (R318). -/
def CopyCmd.ranges (c : CopyCmd) : List CopyRange :=
  let src (pitch len : Nat) : CopyRange := { tag := tagOf c.w1, base := bodyOf c.w1, rows := c.rows, pitch := pitch, len := len }
  let dst : CopyRange := { tag := tagOf c.w2, base := bodyOf c.w2, rows := c.rows, pitch := c.dpitch, len := c.rowBytes }
  match c.cmd with
  | 1 => [src c.spitch c.rowBytes, dst]
  | 2 => src c.spitch c.rowBytes :: c.cores.map fun n => { dst with base := n * 2 ^ 18 + dst.base }
  | 3 => [dst]
  | 4 => [src c.spitch c.spxBytes, dst]
  | 5 => [dst]
  | 6 => [src c.dpitch c.rowBytes]
  | 7 => [dst]
  | 8 => [src c.spitch c.rowBytes,
          { dst with rows := c.rowBytes / 2 ^ c.esz, len := c.rows * 2 ^ c.esz }]
  | _ => []
/-- Does a scratchpad range reach past the cluster scratchpad? -/
def CopyRange.tooFar (x : CopyRange) : Bool := x.tag == 4 && 2 ^ 20 < x.base + (x.rows - 1) * x.pitch + x.len
/-- Sizes (R296, R298, R303, R306). -/
def CopyCmd.badSize (c : CopyCmd) : Bool :=
  c.pays && (c.rows == 0 || c.rowBytes == 0 || (c.cmd == 2 && c.cores == [])
    || (c.cmd == 4 && (c.esz == 3 || c.rowBytes % (4 * 2 ^ c.esz) != 0))
    || (c.cmd == 8 && (c.esz == 3 || c.rowBytes % 2 ^ c.esz != 0 || 64 < c.rows || 64 < c.rowBytes / 2 ^ c.esz))
    || (c.cmd != 3 && c.ranges.any CopyRange.tooFar)
    || (c.cmd == 2 && 2 ^ 18 < bodyOf c.w2 + (c.rows - 1) * c.dpitch + c.rowBytes)
    || ((c.cmd == 5 || c.cmd == 6) && 2 ^ 20 < bits c.w3 19 0 + 4 * c.rows))
/-- WHOLE (R314). -/
def CopyCmd.badWhole (c : CopyCmd) : Bool :=
  c.pays && c.isWhole && (tagOf c.w2 == 4 || 2 ^ 16 < c.rows * c.rowBytes)
/-- The tag alignment of R299 for a scratchpad destination. -/
def CopyCmd.badPlace (c : CopyCmd) : Bool :=
  tagOf c.w2 == 4 && c.tag != 0 && (bodyOf c.w2 % 128 != 0 || c.dpitch % 16 != 0)
/-- Alignment (R296, R297, R299). -/
def CopyCmd.badAlign (c : CopyCmd) : Bool :=
  match c.cmd with
  | 3 => c.w3.toNat % 64 != 0
  | 5 => bits c.w3 19 0 % 4 != 0 || c.badPlace
  | 6 => bits c.w3 19 0 % 4 != 0
  | 8 => false
  | _ => c.pays && c.badPlace

/-! ## Access to bytes (R143, R308, R318) -/

/-- A copy error: code and the address that SR.EADDR holds; none for the entry's own. -/
structure CopyErr where
  code : Nat
  addr : Option W64
deriving DecidableEq, Repr
/-- A number for a byte: its home address, or 2^62 + its scratchpad key. -/
def scratchLoc (k : Nat) : Nat := 2 ^ 62 + k
/-- Is a byte number one of scratchpad? -/
def isScratch (a : Nat) : Bool := 2 ^ 62 ≤ a

/-- Translate through a cluster's TLB and the die's walker (R318, R456). -/
def State.translateCl (s : State) (cl t asid va need : Nat) : State × Except Xfault Nat :=
  match (s.cluster cl).tlb.find? fun e => e.covers asid va with
  | some e =>
    if need &&& e.perms ≠ need then (s, .error { reason := 2, level := levelOf e.size })
    else (s, .ok (s.ownHbm t need (e.pa + (va - e.va))))
  | none =>
    match s.walk t asid va need with
    | (s, .error f) => (s, .error f)
    | (s, .ok e) =>
      let k := Config.freeIndex s.freeCtr
      ((s.used.updCluster cl fun c => { c with tlb := tlbPut 4096 k c.tlb e }), .ok (s.ownHbm t need (e.pa + (va - e.va))))

/-- The code of a refused access. -/
def copyCode (f : AccFault) : Nat := if f.cause = 12 then 8 else 7
/-- The byte numbers of `n` bytes of a space, or the error of the first that may not be reached. -/
def State.copySpan (s : State) (tk : Nat) (t : Team) (tag a n need : Nat) : State × Except CopyErr (List Nat) :=
  let ptr (x : Nat) : W64 := BitVec.ofNat 64 (2 ^ 60 * tag + x % 2 ^ 60)
  let m := min n (spaceEnd tag - a)
  let far : CopyErr := { code := if tag = 4 then 4 else 7, addr := some (ptr (a + m)) }
  if tag = 4 then
    let ks := (List.range m).map fun i => scratchKey (tk / 8 / 4) (a + i)
    match ks.find? fun k => !s.mayReach t.tenant (.team tk) k with
    | some k => (s, .error { code := 6, addr := some (keyPtr k) })
    | none => if m < n then (s, .error far) else (s, .ok (ks.map scratchLoc))
  else
    match State.spanBy (State.locateBy (fun s va => s.translateCl (tk / 8 / 4) t.tenant t.asid va need) · t.tenant [0, 1] ·)
        s (ptr a) m with
    | (s, .error (p, f)) => (s, .error { code := copyCode f, addr := some p })
    | (s, .ok as) => if m < n then (s, .error far) else (s, .ok as)

/-- The pages of a range: one byte of each, in order. -/
def CopyRange.pages (x : CopyRange) : List Nat :=
  ((List.range x.rows).flatMap fun r =>
    let lo := x.base + r * x.pitch
    (List.range ((lo + x.len - 1) / 4096 + 1 - lo / 4096)).map fun i => max lo (4096 * (lo / 4096 + i))).eraseDups
/-- The first error of the checks at take of some ranges of a space (R318). -/
def State.rangeErr (s : State) (tk : Nat) (t : Team) (tag : Nat) (xs : List CopyRange) : Option CopyErr :=
  (xs.filter fun x => x.tag == tag).findSome? fun x => x.pages.findSome? fun a =>
    match (s.copySpan tk t tag a 1 0).2 with
    | .error e => some e
    | .ok _ => none

/-! ## Taking an entry (R291, R318) -/

/-- The command in an entry. -/
def copyOf (tk index : Nat) (bs : List Byte) : CopyCmd :=
  let w (k : Nat) : W64 := BitVec.ofNat 64 (fieldAt bs (8 * k) 8)
  { tk := tk, index := index, w0 := w 0, w1 := w 1, w2 := w 2, w3 := w 3, shape := [], idx := [], valueDesc := none
    stage := .running 0, counted := 0, held := [], seen := [], wrote := [] }
/-- The value-write descriptor of a command, read at take (R311). -/
def CopyCmd.descr (c : CopyCmd) (s : State) (tk : Nat) (t : Team) : Option W64 :=
  if c.cmode < 2 then none
  else
    t.ctable.map fun o =>
      BitVec.ofNat 64 (leNat (s.bankRead (teamKey tk t + o + 8 * (c.ctrsel + (if c.cmode = 3 then 1 else 0))) 8))
/-- Check 6: completion table and descriptor. -/
def CopyCmd.badTable (c : CopyCmd) (t : Team) (d : Option W64) : Bool :=
  c.cmode != 0 && (t.ctable.isNone || (c.cmode == 3 && c.ctrsel == 63)
    || (match d with | some x => bits x 63 50 != 0 || bits x 33 32 != 0 | none => false))
/-- The fields of a shape record that R302 refuses. -/
def badShape (r : List Byte) : Bool :=
  fieldAt r 0x10 4 == 0 || 65535 < fieldAt r 0x10 4 || fieldAt r 0x14 2 == 0 || fieldAt r 0x16 2 == 0
  || fieldAt r 0x18 2 == 0 || fieldAt r 0x1A 2 == 0 || fieldAt r 0x35 3 != 0 || fieldAt r 0x3C 4 != 0
  || 16 ≤ fieldAt r 0x34 1
/-- The bytes at byte numbers. -/
def State.locBytes (s : State) (as : List Nat) : List Byte :=
  as.map fun a =>
    if isScratch a then (if s.badScratch (a - 2 ^ 62) then Config.freeByte s.freeCtr a else Memory.read s.scratch (a - 2 ^ 62))
    else if s.errAt a then Config.freeByte s.freeCtr a else s.readHome a
/-- Check 7: the shape record of a WINDOW. -/
def State.takeShape (s : State) (tk : Nat) (t : Team) (c : CopyCmd) : State × Except CopyErr CopyCmd :=
  if c.cmd ≠ 3 then (s, .ok c)
  else
    match s.copySpan tk t (tagOf c.w3) (bodyOf c.w3) 64 permR with
    | (s, .error e) => (s, .error e)
    | (s, .ok as) =>
      let s := s.engineReads t.tenant (as.filter fun a => !isScratch a)
      let c := { c with shape := s.locBytes as }
      let err : Option Nat :=
        if badShape c.shape then some 14
        else if tagOf c.w2 < 2 ∧ c.tag ≠ 0 then some 2
        else if c.badPlace then some 5
        else if c.ranges.any CopyRange.tooFar then some 4
        else none
      match err with
      | some k => (s, .error { code := k, addr := none })
      | none => (s, .ok c)
/-- The ranges checked at take: the fixed ones and the index table. -/
def CopyCmd.taken (c : CopyCmd) : List CopyRange :=
  c.ranges ++ (if c.cmd = 5 ∨ c.cmd = 6 then
    [{ tag := 4, base := bits c.w3 19 0, rows := 1, pitch := 0, len := 4 * c.rows }] else [])
/-- The null index (R304). -/
def nullIndex : Nat := 0xFFFFFFFF
/-- The bytes that a command's counter add adds (R295). -/
def CopyCmd.amount (c : CopyCmd) : Nat :=
  match c.cmd with
  | 2 => c.rows * c.rowBytes * c.cores.length
  | 6 => c.rowBytes * (c.idx.filter fun e => e != nullIndex).length
  | 9 => c.w1.toNat
  | 10 => c.w1.toNat
  | _ => c.rows * c.rowBytes
/-- Checks 1 to 6 (R318). -/
def CopyCmd.early (c : CopyCmd) (t : Team) (d : Option W64) : Option Nat :=
  if c.cmd = 0 ∨ 10 < c.cmd then some 1
  else if c.reserved then some 2
  else if c.badTag then some 3
  else if c.badSize then some 4
  else if c.badWhole then some 12
  else if c.badAlign then some 5
  else if c.badTable t d then some 11
  else none
/-- The take-time checks in order (R318): the command as it will run, or its refusal. -/
def State.takeChecks (s : State) (tk : Nat) (t : Team) (c : CopyCmd) : State × Except CopyErr CopyCmd :=
  let d := c.descr s tk t
  match c.early t d with
  | some k => (s, .error { code := k, addr := none })
  | none =>
    match s.takeShape tk t { c with valueDesc := d } with
    | (s, .error e) => (s, .error e)
    | (s, .ok c) =>
      match s.rangeErr tk t 4 c.taken with
      | some e => (s, .error e)
      | none =>
        match s.rangeErr tk t 1 c.taken with
        | some e => (s, .error e)
        | none =>
          let c := if c.cmd = 5 ∨ c.cmd = 6 then
              { c with idx := (List.range c.rows).map fun i =>
                  leNat (s.bankRead (scratchKey (tk / 8 / 4) (bits c.w3 19 0 + 4 * i)) 4) }
            else c
          (s, .ok { c with counted := c.amount })

/-- The commands in flight of a ring. -/
def State.inFlight (s : State) (tk : Nat) : List (Nat × CopyCmd) :=
  (s.cluster (tk / 8 / 4)).copies.filter fun c => c.2.tk == tk
/-- Has a team stopped: killed, or being captured? -/
def State.teamStopped (s : State) (tk : Nat) : Bool :=
  (s.kills.any fun k => k.unit == .team tk) || s.captures.any fun c => c.unit == .team tk
/-- Has a team's ring an entry that the engine may take now (R290, R292)? -/
def State.ringReady (s : State) (tk : Nat) (t : Team) : Bool :=
  (t.ring.any fun r => !r.bad && r.prod != r.cons) && !s.teamStopped tk && decide ((s.inFlight tk).length < 4)
/-- How far a team context lies after the ring served last, in the rotation of a cluster's 32 contexts (R292). -/
def State.ringTurn (s : State) (tk : Nat) : Nat := (tk % 32 + 31 - (s.cluster (tk / 8 / 4)).lastRing) % 32
/-- Is a ring the next in the rotation: is none of its cluster that has an entry to take before it (R292)? -/
def State.ringNext (s : State) (tk : Nat) : Bool :=
  s.teams.all fun x => x.1 / 32 != tk / 32 || !s.ringReady x.1 x.2 || s.ringTurn tk ≤ s.ringTurn x.1
/-- If the shape record of an entry lies where a layer sleeps: the state in which its wake has begun (R318, R337). -/
def State.shapeWait (s : State) (tk : Nat) (t : Team) (c : CopyCmd) : Option State :=
  if c.cmd = 3 ∧ c.early t (c.descr s tk t) = none then
    match s.copySpan tk t (tagOf c.w3) (bodyOf c.w3) 64 permR with
    | (s, .ok as) => s.wakeAny t.tenant (as.filter fun a => !isScratch a)
    | _ => none
  else none
/-- COPY_TAKE (R291, R292): the next entry of the ring whose turn it is is taken, or refused; either way CONS passes it.
The first turn after reset is context 0's (DESIGN CHOICE, log 43). -/
def copyTake (s : State) (tk : Nat) : State :=
  match s.team tk with
  | none => s
  | some t =>
    match t.ring with
    | none => s
    | some r =>
      if !s.ringReady tk t || !s.ringNext tk || 16 ≤ (s.cluster (tk / 8 / 4)).copies.length then s
      else
        let k := r.cons.toNat
        let key := entryKey tk t r k
        let c := copyOf tk k (s.bankRead key 32)
        match s.shapeWait tk t c with
        | some s => s
        | none =>
        let x := s.takeChecks tk t c
        let s := (x.1.updRing tk fun y => { y with cons := y.cons + 1 }).ownWrite (teamKey tk t + r.off + 8)
          (leBytes 4 (r.cons + 1).toNat)
        let s := s.updCluster (tk / 8 / 4) fun y => { y with lastRing := tk % 32 }
        match x.2 with
        | .error e => s.copyError tk e.code k (if 6 ≤ e.code && e.code ≤ 10 then e.addr.getD (keyPtr key) else keyPtr key)
        | .ok c => (s.updCluster (tk / 8 / 4) fun y => { y with copies := Tab.put y.copies s.nextUid c }).fresh
/-- COPY_TAKE. -/
def execCopyTake (tk : Nat) (s : State) : Host.Outcome State Fault Refusal := .next (s.orWait (copyTake s tk))

/-! ## Rows (R299-R306) -/

/-- Where a row's bytes come from. -/
inductive RowSrc where
  | skip
  | lit (bs : List Byte)
  | mem (tag a n : Nat)
deriving DecidableEq, Repr
/-- Place of R299: byte `j` of row `r` of a destination with base `p`, pitch `q`, tag `t`, in a space. -/
def placeOf (space p q t r j : Nat) : Nat :=
  if space = 4 ∧ t ≤ 3 then (p + r * q + j) ^^^ (r % 2 ^ t * 16) else p + r * q + j
/-- The source pixel of a WINDOW row (R302); none where it is padded or clipped. -/
def CopyCmd.pixel (c : CopyCmd) (r : Nat) : Option Nat :=
  let x (o n : Nat) : Nat := fieldAt c.shape o n
  let area := x 0x18 2 * x 0x1A 2
  let p := x 0x28 8 + r
  if x 0x10 4 * area ≤ p then none
  else
    let iy : Int := (p % area / x 0x1A 2 * x 0x1C 1 + x 0x20 2 * x 0x1E 1 : Nat) - (x 0x24 2 : Int)
    let ix : Int := (p % area % x 0x1A 2 * x 0x1D 1 + x 0x22 2 * x 0x1F 1 : Nat) - (x 0x26 2 : Int)
    if iy < 0 ∨ (x 0x14 2 : Int) ≤ iy ∨ ix < 0 ∨ (x 0x16 2 : Int) ≤ ix then none
    else some (bodyOf c.w1 + p / area * x 0 8 + iy.toNat * x 8 4 + ix.toNat * x 0xC 4)
/-- The source of row `r`. -/
def CopyCmd.rowSrc (c : CopyCmd) (r : Nat) : RowSrc :=
  let n := c.rowBytes
  let e := c.idx.getD r nullIndex
  match c.cmd with
  | 3 =>
    (match c.pixel r with
    | some a => .mem (tagOf c.w1) a n
    | none => .lit ((List.range n).map fun j =>
        if fieldAt c.shape 0x34 1 % 2 = 1 then BitVec.ofNat 8 (fieldAt c.shape (0x30 + j % 4) 1) else 0))
  | 4 => .mem (tagOf c.w1) (bodyOf c.w1 + r * c.spitch) c.spxBytes
  | 5 => if e = nullIndex then .lit (zeros n) else .mem (tagOf c.w1) (bodyOf c.w1 + e * n) n
  | 6 => if e = nullIndex then .skip else .mem 4 (bodyOf c.w1 + r * c.dpitch) n
  | 7 => .lit ((List.range n).map fun j => BitVec.ofNat 8 (c.w1.toNat / 2 ^ (8 * (j % 8))))
  | _ => .mem (tagOf c.w1) (bodyOf c.w1 + r * c.spitch) n
/-- Element `d` of group `g` of a dense row (R303): the kept element that its nibble sends there, the second standing
where both go to one place. Bytes that are not known stay so. -/
def spxElem (es groups : Nat) (bs : List (Option Byte)) (g d : Nat) : List (Option Byte) :=
  match bs.getD (2 * groups * es + g / 2) none with
  | none => List.replicate es none
  | some m =>
    let nib := if g % 2 = 0 then m.toNat % 16 else m.toNat / 16
    if nib / 4 = d then (bs.drop ((2 * g + 1) * es)).take es
    else if nib % 4 = d then (bs.drop (2 * g * es)).take es
    else List.replicate es (some 0)
/-- The row that is written, from the bytes read. -/
def CopyCmd.rowOut (c : CopyCmd) (bs : List (Option Byte)) : List (Option Byte) :=
  if c.cmd = 4 then
    (List.range c.spxGroups).flatMap fun g => (List.range 4).flatMap fun d => spxElem (2 ^ c.esz) c.spxGroups bs g d
  else bs
/-- Where row `r` goes: for each destination its space, and the body of each byte. -/
def CopyCmd.rowDests (c : CopyCmd) (r : Nat) : List (Nat × List Nat) :=
  let go (space p q t : Nat) : Nat × List Nat := (space, (List.range c.rowBytes).map fun j => placeOf space p q t r j)
  match c.cmd with
  | 2 => c.cores.map fun n => go 4 (n * 2 ^ 18 + bodyOf c.w2) c.dpitch c.tag
  | 6 => [(tagOf c.w2, (List.range c.rowBytes).map fun j => bodyOf c.w2 + c.idx.getD r 0 * c.rowBytes + j)]
  | _ => [go (tagOf c.w2) (bodyOf c.w2) c.dpitch c.tag]

/-- The bytes of a row as the engine reads them: one that shows an error, or that a peer does not give (R471), is unknown,
as is one that the command itself has written. With them the first that shows an error. What it reads of a guard granule
is zeros (DESIGN CHOICE, log 39). -/
def State.copyRead (s : State) (c : CopyCmd) (as : List Nat) : List (Option Byte) × Option Nat :=
  let bad (a : Nat) : Bool := if isScratch a then s.badScratch (a - 2 ^ 62) else s.errAt a
  let val (a : Nat) : Byte :=
    if isScratch a then (if s.guarded (a - 2 ^ 62) then 0 else Memory.read s.scratch (a - 2 ^ 62)) else s.readHome a
  (as.map fun a => if bad a || c.wrote.contains a then none else some (val a), as.findIdx? bad)
/-- Payload bytes are written at byte numbers, with the tag. -/
def State.copyWrite (s : State) (t tag : Nat) (ws : List (Nat × Byte)) : State :=
  let sc := ws.filter fun w => isScratch w.1
  let s := (runsOf (sc.map fun w => w.1)).foldl (fun (acc : State × List (Nat × Byte)) run =>
    (acc.1.bankWrite (run.1 - 2 ^ 62) ((acc.2.take run.2).map fun w => w.2) tag, acc.2.drop run.2)) (s, sc) |>.1
  s.engineWrites t (ws.filter fun w => !isScratch w.1)
/-- Change a command. -/
def State.setCopy (s : State) (cl uid : Nat) (c : CopyCmd) : State :=
  s.updCluster cl fun y => { y with copies := Tab.put y.copies uid c }
/-- A command has finished. -/
def State.endCopy (s : State) (cl uid : Nat) : State :=
  s.updCluster cl fun y => { y with copies := Tab.del y.copies uid }
/-- A running command is aborted (R313). -/
def State.abortCopy (s : State) (cl uid : Nat) (c : CopyCmd) (e : CopyErr) : State :=
  let entry := match s.team c.tk with
    | some t => (match t.ring with | some r => keyPtr (entryKey c.tk t r c.index) | none => 0)
    | none => 0
  (s.endCopy cl uid).copyError c.tk e.code c.index (if 6 ≤ e.code && e.code ≤ 10 then e.addr.getD entry else entry)
/-- May a command run: no BARRIER at or before it still waits for an earlier command of its ring (R315)? -/
def State.copyStarted (s : State) (cl uid : Nat) (c : CopyCmd) : Bool :=
  let mine := (s.cluster cl).copies.filter fun x => x.2.tk == c.tk
  mine.all fun x => !(x.1 ≤ uid && x.2.barrier) || mine.all fun y => x.1 ≤ y.1

/-- The byte numbers of a row's destinations, in order, or the first error. -/
def State.destSpans (s : State) (tk : Nat) (t : Team) : List (Nat × List Nat) → State × Except CopyErr (List Nat)
  | [] => (s, .ok [])
  | d :: r =>
    let x := (runsOf d.2).foldl (fun (acc : State × Except CopyErr (List Nat)) run =>
      match acc with
      | (s, .error e) => (s, .error e)
      | (s, .ok as) =>
        match s.copySpan tk t d.1 run.1 run.2 permW with
        | (s, .error e) => (s, .error e)
        | (s, .ok bs) => (s, .ok (as ++ bs))) (s, .ok [])
    match x with
    | (s, .error e) => (s, .error e)
    | (s, .ok as) =>
      match State.destSpans s tk t r with
      | (s, .error e) => (s, .error e)
      | (s, .ok bs) => (s, .ok (as ++ bs))

/-- The pointers of the bytes that row `r` writes, in order. -/
def CopyCmd.rowPtrs (c : CopyCmd) (r : Nat) : List W64 :=
  (c.rowDests r).flatMap fun d => d.2.map fun b => BitVec.ofNat 64 (2 ^ 60 * d.1 + b % 2 ^ 60)
/-- The source bytes of the rows after `r`, where they lie now. -/
def State.laterSrc (s : State) (t : Team) (c : CopyCmd) (r : Nat) : List Nat :=
  ((List.range c.rows).drop (r + 1)).flatMap fun k =>
    match c.rowSrc k with
    | .mem tag a n => (match (s.copySpan c.tk t tag a n permR).2 with | .ok as => as | .error _ => [])
    | _ => []
/-- A payload byte that no peer takes is not applied: DATAERR in the team's lowest-numbered live group (R471, log 12). -/
def State.copyLost (s : State) (tk : Nat) (p : Option W64) : State :=
  match p, s.firstGroup tk with
  | some p, some uid => s.updUid uid fun g => g.record 11 { eaddr := p, detail := 0 }
  | _, _ => s
/-- Payload bytes, with their pointers, are written; those that no peer takes are not (R471). -/
def State.copyPut (s : State) (tk t tag : Nat) (ps : List W64) (ws : List (Nat × Byte)) : State :=
  (s.copyWrite t tag ws).copyLost tk (((ps.zip ws).find? fun x => !s.reached x.2.1).map fun x => x.1)

/-- A row's bytes reach their destinations, or for a WHOLE payload their slices, where they are held (R314). Bytes that
are also source bytes of a row of the command take free values (R300); a guard granule discards its bytes with an error
(R319). -/
def State.putRow (s : State) (cl uid : Nat) (c : CopyCmd) (t : Team) (r : Nat) (src : List Nat)
    (bs : List (Option Byte)) (dst : List Nat) : State :=
  let n := bs.length
  let ctr := s.freeCtr
  let later := s.laterSrc t c r
  let out (i : Nat) (a : Nat) : Byte :=
    match bs.getD (i % n) none with
    | some b => if c.seen.contains a || src.contains a || later.contains a then Config.freeByte ctr i else b
    | none => Config.freeByte ctr i
  let ws := ((List.range dst.length).zip dst).map fun x => (x.2, out x.1 x.2)
  let guardAt := dst.find? fun a => isScratch a && s.guarded (a - 2 ^ 62)
  let c := { c with seen := c.seen ++ src, wrote := if c.isWhole then c.wrote else c.wrote ++ dst }
  let s := if c.isWhole then s.setCopy cl uid { c with held := c.held ++ ws }
    else (s.setCopy cl uid c).copyPut c.tk t.tenant (c.tag % 8) (c.rowPtrs r) ws
  let s := s.used
  match guardAt with
  | some a => s.copyError c.tk 9 c.index (keyPtr (a - 2 ^ 62))
  | none => s

/-- One row of a command. -/
def State.copyRow (s : State) (cl uid : Nat) (c : CopyCmd) (t : Team) (r : Nat) : State :=
  let next := if r + 1 = c.rows then (if c.isWhole then CopyStage.whole else .delivered) else .running (r + 1)
  let c' := { c with stage := next }
  let sp : State × Except CopyErr (List Nat) := match c.rowSrc r with
    | .mem tag a n => s.copySpan c.tk t tag a n permR
    | _ => (s, .ok [])
  match c.rowSrc r, sp with
  | .skip, _ => s.setCopy cl uid c'
  | _, (s, .error e) => s.abortCopy cl uid c e
  | x, (s, .ok src) =>
    match s.destSpans c.tk t (c.rowDests r) with
    | (s, .error e) => s.abortCopy cl uid c e
    | (s, .ok dst) =>
      match s.wakeAny t.tenant ((src ++ dst).filter fun a => !isScratch a) with
      | some s => s
      | none =>
        let s := s.engineReadsMore t.tenant (src.filter fun a => !isScratch a) c.seen
        let rd : List (Option Byte) × Option Nat := match x with
          | .lit bs => (bs.map some, none)
          | _ => s.copyRead c src
        let s := s.putRow cl uid c' t r src (c.rowOut rd.1) dst
        match rd.2, x with
        | some i, .mem tag a _ => s.copyError c.tk 10 c.index (BitVec.ofNat 64 (2 ^ 60 * tag + (a + i) % 2 ^ 60))
        | _, _ => s

/-- One step of a running command of a kind. -/
def copyStep (s : State) (cl uid cmd : Nat) : State :=
  match Tab.find (s.cluster cl).copies uid with
  | none => s
  | some c =>
    match c.stage, s.team c.tk with
    | .running r, some t => if c.cmd ≠ cmd ∨ !s.copyStarted cl uid c then s else s.copyRow cl uid c t r
    | _, _ => s

/-- COPY (R301): the next row. -/
def execCopy (cl uid : Nat) (s : State) : Host.Outcome State Fault Refusal := .next (s.orWait (copyStep s cl uid 1))
/-- MCAST (R301): the next row, into every selected part. -/
def execMcast (cl uid : Nat) (s : State) : Host.Outcome State Fault Refusal := .next (s.orWait (copyStep s cl uid 2))
/-- WINDOW (R302): the next row. -/
def execWindow (cl uid : Nat) (s : State) : Host.Outcome State Fault Refusal := .next (s.orWait (copyStep s cl uid 3))
/-- SPX (R303): the next row. -/
def execSpx (cl uid : Nat) (s : State) : Host.Outcome State Fault Refusal := .next (s.orWait (copyStep s cl uid 4))
/-- GATHER (R304): the next row. -/
def execGather (cl uid : Nat) (s : State) : Host.Outcome State Fault Refusal := .next (s.orWait (copyStep s cl uid 5))
/-- SCATTER (R304): the next row. -/
def execScatter (cl uid : Nat) (s : State) : Host.Outcome State Fault Refusal := .next (s.orWait (copyStep s cl uid 6))
/-- FILL (R305): the next row. -/
def execFill (cl uid : Nat) (s : State) : Host.Outcome State Fault Refusal := .next (s.orWait (copyStep s cl uid 7))

/-- XPOSEQ (R306): the elements are moved by XPOSE's rules (R356); each of their bytes is resolved on its own, since
pointers and pitches need not be multiples of the element size. -/
def xposeq (s : State) (cl uid : Nat) : State :=
  match Tab.find (s.cluster cl).copies uid with
  | none => s
  | some c =>
    match c.stage, s.team c.tk with
    | .running _, some t =>
      if c.cmd ≠ 8 ∨ !s.copyStarted cl uid c then s
      else
        let h : Shape := { es := 2 ^ c.esz, rows := c.rows, cols := c.rowBytes / 2 ^ c.esz, spitch := c.spitch
                           dpitch := c.dpitch }
        let ps := h.elems.map (h.elemBytes c.w1 c.w2)
        (match (ps.flatMap fun p => p.1 ++ p.2).findSome? fun p =>
            match s.storeAt t.tenant p with | .error f => some (p, f) | .ok _ => none with
        | some (p, f) => s.abortCopy cl uid c { code := copyCode f, addr := some p }
        | none =>
          let ms := h.elems.map (s.elemPlace t.tenant h c.w1 c.w2)
          match s.wakeAny t.tenant (ms.flatMap fun m => m.1 ++ m.2) with
          | some s => s
          | none =>
            let bad := ((ms.flatMap fun m => m.1).zip (ps.flatMap fun p => p.1)).find? fun x => s.badAt x.1
            let s := (s.moveElems t.tenant (fun i => i / h.cols) ms).setCopy cl uid { c with stage := .delivered }
            match bad with
            | some x => s.copyError c.tk 10 c.index x.2
            | none => s)
    | _, _ => s
/-- XPOSEQ. -/
def execXposeq (cl uid : Nat) (s : State) : Host.Outcome State Fault Refusal := .next (s.orWait (xposeq s cl uid))

/-- The pointers of the bytes of a WHOLE payload, in the order in which they are held. -/
def CopyCmd.heldPtrs (c : CopyCmd) : List W64 :=
  (List.range c.rows).flatMap fun r => match c.rowSrc r with | .skip => [] | _ => c.rowPtrs r
/-- WHOLE_APPLY (R314): all shares are applied together, unless a layer that holds one is OFF. -/
def wholeApply (s : State) (cl uid : Nat) : State :=
  match Tab.find (s.cluster cl).copies uid with
  | none => s
  | some c =>
    match c.stage, s.team c.tk with
    | .whole, some t =>
      (match (c.heldPtrs.zip c.held).find? fun w => s.offAt w.2.1 with
      | some w => s.abortCopy cl uid c { code := 8, addr := some w.1 }
      | none =>
        match s.wakeAny t.tenant (c.held.map fun w => w.1) with
        | some s => s
        | none =>
          (s.setCopy cl uid { c with stage := .delivered, held := [] }).copyPut c.tk t.tenant 0 c.heldPtrs c.held)
    | _, _ => s
/-- WHOLE_APPLY. -/
def execWholeApply (cl uid : Nat) (s : State) : Host.Outcome State Fault Refusal := .next (s.orWait (wholeApply s cl uid))

/-! ## Completion (R309-R312) -/

/-- The counter add (R310). -/
def State.copyCount (s : State) (c : CopyCmd) (t : Team) : State :=
  match t.ctable with
  | none => s
  | some o =>
    let k := teamKey c.tk t + o + 8 * c.ctrsel
    let old := if s.badScratch k || s.badScratch (k + 4) then (Config.freeWord s.freeCtr 0 ++ Config.freeWord s.freeCtr 1).toNat
      else leNat (s.bankRead k 8)
    s.used.bankWrite k (leBytes 8 (old + c.counted)) 0
/-- The value write to one core (R311). -/
def State.copyValue (s : State) (c : CopyCmd) (t : Team) (d : W64) (n : Nat) : State :=
  let k := scratchKey (c.tk / 8 / 4) (n * 2 ^ 18 + bits d 49 32)
  if (List.range 4).all fun i => s.mayReach t.tenant (.team c.tk) (k + i) then
    let g := s.guarded k
    let s := s.bankWrite k (leBytes 4 (bits d 31 0)) 0
    if g then s.copyError c.tk 9 c.index (keyPtr k) else s
  else s.copyError c.tk 6 c.index (keyPtr k)
/-- The user interrupt (R312). -/
def State.copyUi (s : State) (c : CopyCmd) : State :=
  match (((s.groups.map fun x => x.2) ++ s.swapped.map fun x => x.group).find? fun g =>
      g.unit == .team c.tk && g.gnum == c.uigrp) with
  | some g => s.postUiUid g.uid (0x100000 + c.index % 65536)
  | none => s
/-- The completion actions, in order; then the command has finished. -/
def State.copyActions (s : State) (cl uid : Nat) (c : CopyCmd) (t : Team) : State :=
  let s := if c.cmode % 2 = 1 then s.copyCount c t else s
  let s := match c.valueDesc with
    | some d => (if c.cores = [] then [c.tk / 8 % 4] else c.cores).foldl (fun (s : State) n => s.copyValue c t d n) s
    | none => s
  let s := if c.ui then s.copyUi c else s
  s.endCopy cl uid
/-- COPY_DELIVERED (R309). -/
def copyDelivered (s : State) (cl uid : Nat) : State :=
  match Tab.find (s.cluster cl).copies uid with
  | none => s
  | some c =>
    match c.stage, s.team c.tk with
    | .delivered, some t => s.copyActions cl uid c t
    | _, _ => s
/-- COPY_DELIVERED. -/
def execCopyDelivered (cl uid : Nat) (s : State) : Host.Outcome State Fault Refusal := .next (s.orWait (copyDelivered s cl uid))
/-- FENCE and NOTIFY (R307): their completion actions, once they have started. -/
def copySignal (s : State) (cl uid cmd : Nat) : State :=
  match Tab.find (s.cluster cl).copies uid with
  | none => s
  | some c =>
    match s.team c.tk with
    | some t => if c.cmd = cmd ∧ s.copyStarted cl uid c then s.copyActions cl uid c t else s
    | none => s
/-- COPY_FENCE (R307). -/
def execCopyFence (cl uid : Nat) (s : State) : Host.Outcome State Fault Refusal := .next (copySignal s cl uid 9)
/-- NOTIFY (R307). -/
def execNotify (cl uid : Nat) (s : State) : Host.Outcome State Fault Refusal := .next (copySignal s cl uid 10)

end Sys2Proof.Machine
end

