-- ==== Sys2Proof/Machine/Packet.lean ====
section
/-! DEFINITION. Packets in flight: their fields, the order in which they begin, and their completion words
(R443-R447). -/
namespace Sys2Proof.Machine

/-- A field of a packet (R444). -/
def Packet.field (p : Packet) (off n : Nat) : Nat := fieldAt p.bytes off n
/-- TYPE. -/
def Packet.typ (p : Packet) : Nat := p.field 0 1
/-- TAG; for a LAUNCH, the GRIDID. -/
def Packet.tag (p : Packet) : Nat := p.field 4 4
/-- CPL. -/
def Packet.cpl (p : Packet) : Nat := p.field 8 8
/-- RESUME of a LAUNCH. -/
def Packet.resume (p : Packet) : Bool := (p.field 0x27 1).testBit 0
/-- PLACE of a LAUNCH. -/
def Packet.place (p : Packet) : Bool := (p.field 0x27 1).testBit 1
/-- MODE of a PREEMPT. -/
def Packet.mode (p : Packet) : Nat := p.field 0x29 1

/-- A packet in flight. -/
def State.packet (s : State) (q k : Nat) : Option Packet := s.packets.find? fun p => p.queue == q && p.index == k
/-- Change a packet in flight. -/
def State.updPacket (s : State) (q k : Nat) (f : Packet → Packet) : State :=
  { s with packets := s.packets.map fun p => if p.queue = q ∧ p.index = k then f p else p }
/-- May a packet begin: no earlier one of its queue has still to (R41)? -/
def State.mayBegin (s : State) (p : Packet) : Bool :=
  !p.begun && s.packets.all fun x => x.queue != p.queue || x.begun || p.taken ≤ x.taken

/-- The completion word (R445). -/
def cplWord (typ status detail value : Nat) : Nat := value % 2 ^ 32 * 2 ^ 32 + typ * 2 ^ 16 + detail * 2 ^ 8 + status
/-- A packet completes: its completion word is written, where it names one that can be written (R445). -/
def State.completePacket (s : State) (p : Packet) (status detail value : Nat) : State :=
  let s := { s with packets := s.packets.filter fun x => x.taken != p.taken }
  if p.cpl = 0 ∨ tagAligned p.cpl 8 = false then s
  else
    match s.locateFe p.tenant p.asid [0] permW (BitVec.ofNat 64 p.cpl) with
    | (s, .ok a) => s.engineWriteN p.tenant a (leBytes 8 (cplWord p.typ status detail value))
    | (s, .error _) => s
/-- The VALUE of a packet that does not complete with one of its own: TAG, or 0 for those whose VALUE counts or names
something (R445). -/
def Packet.plainValue (p : Packet) : Nat := if p.typ = 1 ∨ p.typ = 3 ∨ p.typ = 7 then 0 else p.tag
/-- A packet fails. -/
def State.failPacket (s : State) (p : Packet) (status detail : Nat) : State := s.completePacket p status detail p.plainValue

/-- One unit of a PREEMPT is done (R449): captured or discarded, or killed first (R479). -/
def State.preemptUnitDone (s : State) (q k : Nat) (ok : Bool) : State :=
  match s.packet q k with
  | none => s
  | some p =>
    let p := { p with pending := p.pending - 1, value := if ok then p.value + 1 else p.value, lost := p.lost || !ok }
    if p.pending = 0 then (if p.lost then s.completePacket p 3 1 p.value else s.completePacket p 0 0 p.value)
    else s.updPacket q k fun _ => p

/-- A packet event: the packet of a type, when it may begin. -/
def onPacket (s : State) (q k typ : Nat) (run : State → Packet → State) : State :=
  match s.packet q k with
  | none => s
  | some p =>
    if p.typ ≠ typ ∨ s.mayBegin p = false then s
    else run (s.updPacket q k fun x => { x with begun := true }) { p with begun := true }

end Sys2Proof.Machine
end

