-- ==== Sys2Proof/Machine/Units.lean ====
section
/-! DEFINITION. The end of groups, teams and grids (R129, R293, R384), and of units that KillUnit ends (R118). -/
namespace Sys2Proof.Machine

/-! ## Retirement -/

/-- Has a group nothing left to do (R129): no lane, no flag, no operation, no request? -/
def State.retired (s : State) (g : Group) : Bool :=
  g.frags == [] && g.deferred == [] && g.allFlagsClear && g.ops == [] && !s.stopped g && s.groupMxDone g.uid
/-- A task ends as it ran: status and successor, after its release action (R384). -/
def State.retireTask (s : State) (gk : Nat) (g : Group) : State :=
  let s := ((s.logGuard (coreOf gk) g).closeRequests (coreOf gk) g).releaseNow (coreOf gk) g.asid
  let s := ({ s with groups := Tab.del s.groups gk } : State).releaseArrays g.unit
  match g.task with
  | none => s
  | some x =>
    s.taskEnd g.tenant g.asid g.part (coreOf gk) x (taskStatus (if g.ending = .skipped then 3 else 1) x.retries 0) true
/-- GROUP_RETIRE (R129). -/
def groupRetire (s : State) (gk : Nat) : State :=
  match s.group gk with
  | none => s
  | some g =>
    if !s.retired g then s
    else
      match g.unit with
      | .team tk => s.endTeamGroup gk g tk
      | .task _ => s.retireTask gk g
      | .slalom _ =>
        let s := (s.logGuard (coreOf gk) g).closeRequests (coreOf gk) g
        { s with groups := Tab.del s.groups gk }
/-- GROUP_RETIRE. -/
def execGroupRetire (gk : Nat) (s : State) : Host.Outcome State Fault Refusal := .next (s.orWait (groupRetire s gk))

/-- Has the engine taken every entry of a team's ring, and finished every command (R293)? -/
def State.ringDone (s : State) (tk : Nat) (t : Team) : Bool :=
  (s.inFlight tk).isEmpty
  && (match t.ring with
      | none => true
      | some r =>
        !r.touched && r.prod == BitVec.ofNat 32 (leNat (s.bankRead (teamKey tk t + r.off) 4)) && r.prod == r.cons)
/-- A team context ends: its array, slot and pages are free; its grid has one team fewer. -/
def State.dropTeam (s : State) (tk : Nat) (t : Team) : State :=
  let s := s.releaseArrays (.team tk)
  ({ s with teams := Tab.del s.teams tk } : State).updGrid t.grid fun g => { g with live := g.live - 1 }
/-- A copy error that no group was left to receive (R437 kind 7). -/
def State.logCopyErr (s : State) (tk : Nat) (t : Team) : State :=
  match t.copyErr with
  | none => s
  | some r =>
    s.faultLog t.tenant { kind := 7, cause := 17, part := t.part, gridid := ((s.grid t.grid).map fun g => g.gridid).getD 0xFFFFFFFF
                          unit := t.linear, core := tk / 8, epc := 0, eaddr := r.eaddr.toNat
                          einfo := 2 ^ 24 * 17 + r.detail }
/-- TEAM_COMPLETE (R129, R293): a release action comes first (R167). -/
def teamComplete (s : State) (tk : Nat) : State :=
  match s.team tk with
  | none => s
  | some t =>
    if t.live ≠ 0 ∨ s.ringDone tk t = false ∨ s.teamStopped tk = true then s
    else ((s.releaseNow (tk / 8) t.asid).logCopyErr tk t).dropTeam tk t
/-- TEAM_COMPLETE (R155: its pages are free). -/
def execTeamComplete (tk : Nat) (s : State) : Host.Outcome State Fault Refusal := .next (s.orWait (s.ownersFrom (teamComplete s tk)))

/-- The teams of a grid. -/
def Grid.total (g : Grid) : Nat := g.sx * g.sy * g.sz
/-- Is nothing of a slalom grid left: no launch record to come, no record queued or spilled, no group? -/
def State.slalomDone (s : State) (n : Nat) (g : Grid) (x : SlalomSt) : Bool :=
  x.started && g.total ≤ x.launchNext && (x.cores.all fun c => s.depth g c == 0)
  && !(s.groups.any fun y => y.2.unit == .slalom n) && !(s.swapped.any fun y => y.group.unit == .slalom n)
  && (s.held.all fun h => h.grid != some n)
/-- Has a grid nothing left to run? -/
def State.gridDone (s : State) (n : Nat) (g : Grid) : Bool :=
  !s.gridStopped n
  && (match g.slalom with
      | some x => s.slalomDone n g x
      | none => g.total ≤ g.nextTeam && g.live == 0)
/-- A slalom grid's cores are free again. -/
def State.freeCores (s : State) (n : Nat) (cores : List Nat) : State :=
  (cores.foldl (fun (s : State) c => s.updCore c fun x => { x with leap := none }) s).releaseArrays (.slalom n)
/-- GRID_COMPLETE (R447): its release is made, its cores are free, and the LAUNCH packets of the grid complete. -/
def gridComplete (s : State) (n : Nat) : State :=
  match s.grid n with
  | none => s
  | some g =>
    if !s.gridDone n g then s
    else
      let s : State := g.cores.foldl (fun (s : State) c => s.releaseNow c g.asid) s
      let s := (s.released g.tenant .system).freeCores n g.cores
      let s : State := { s with grids := Tab.del s.grids n }
      (s.packets.filter fun p => p.grid == some n).foldl (fun (s : State) p =>
        s.completePacket p 0 (if g.killed = 0 then 0 else 8) g.killed) s
/-- GRID_COMPLETE. -/
def execGridComplete (grid : Nat) (s : State) : Host.Outcome State Fault Refusal := .next (s.orWait (s.ownersFrom (gridComplete s grid)))

/-! ## Units that stop -/

/-- The groups of a unit that hold a slot. -/
def State.unitSlots (s : State) (u : UnitRef) : List (Nat × Group) := s.groups.filter fun x => x.2.unit == u
/-- Change every group of a unit, in its slot or swapped out. -/
def State.updUnit (s : State) (u : UnitRef) (f : Group → Group) : State :=
  { s with
    groups := s.groups.map fun x => if x.2.unit = u then (x.1, f x.2) else x
    swapped := s.swapped.map fun x => if x.group.unit = u then { x with group := f x.group } else x }
/-- The requests of a unit that no reservation table has accepted. -/
def State.sentReqs (s : State) (u : UnitRef) : List Nat :=
  s.clusters.flatMap fun (c : Nat × ClusterSt) => (c.2.mx.filter fun x => x.2.unit == u && x.2.stage == .sent).map fun x => x.1
/-- The requests of a unit that ends (R118) and that no reservation table has accepted are withdrawn: another unit that
holds the array could keep them from it for ever, and nobody is left to see their results. -/
def State.withdraw (s : State) (u : UnitRef) : State :=
  let rqs := s.sentReqs u
  if rqs = [] then s
  else
    let s := s.dropReqs fun r => r.unit == u && r.stage == .sent
    s.updUnit u fun g => rqs.foldl (fun (g : Group) rq =>
      { g.endRequest rq with frags := (g.endRequest rq).frags.map fun f => if f.wait = .accept rq then { f with wait := .none } else f }) g

/-- Does a SEND wait on full rings alone (R422)? -/
def State.sendStuck (s : State) (g : Group) (k : OpKind) : Bool :=
  match k with
  | .send _ todo off _ _ _ _ (some _) _ =>
    todo != [] && todo.all fun y =>
      let key := scratchKey (consCore y / 4) (consCore y % 4 * 2 ^ 18 + off)
      (match s.ringSlots g (consCore y) off with
      | none => false
      | some n => decide (n ≤ (leNat (s.bankRead key 4) + 2 ^ 32 - leNat (s.bankRead (key + 4) 4)) % 2 ^ 32))
  | _ => false
/-- Is nothing left to drain but SENDs that wait on full rings, in every group of a unit, and no matrix request or copy
command (R120, R285)? -/
def State.drained (s : State) (u : UnitRef) : Bool :=
  ((s.unitSlots u).all fun x => x.2.ops.all fun o => s.sendStuck x.2 o.kind) && !s.mxBusy u
  && (match u with
      | .team tk => (s.inFlight tk).isEmpty
      | _ => true)
/-- Such SENDs complete, their consumers abandoned (R422). -/
def State.abandonUnit (s : State) (u : UnitRef) : State :=
  (s.unitSlots u).foldl (fun (s : State) x => s.abandonSends x.1 x.2) s

/-- The groups of a unit leave, wherever they are. -/
def State.dropGroups (s : State) (u : UnitRef) : State :=
  { s with groups := s.groups.filter fun x => x.2.unit != u, swapped := s.swapped.filter fun x => x.group.unit != u }

/-! ## KillUnit (R118) -/

/-- A killed task's end: its status word, and no successor add (R384). -/
def State.killTask (s : State) (k : Kill) (core : Nat) (g : Group) : State :=
  match g.task with
  | none => s
  | some x =>
    let cause := if k.packet.isSome then 18 else killCause g.trap
    (s.releaseNow core g.asid).taskEnd g.tenant g.asid g.part core x (taskStatus 4 x.retries cause) false
/-- What a killed unit held is freed. -/
def State.freeUnit (s : State) (k : Kill) : State :=
  match k.unit with
  | .team tk =>
    let s := (s.dropGroups (.team tk)).dropReqs fun r => r.unit == .team tk
    (match s.team tk with
    | none => s
    | some t => (s.dropTeam tk t).updGrid t.grid fun g => { g with killed := g.killed + 1 })
  | .task uid =>
    let s : State := match s.unitSlots (.task uid) with
      | x :: _ => s.killTask k (coreOf x.1) x.2
      | [] => (match s.swapped.find? fun (x : Swapped) => x.group.unit == UnitRef.task uid with
        | some x => s.killTask k x.core x.group
        | none => s)
    ((s.dropGroups (.task uid)).dropReqs fun r => r.unit == .task uid).releaseArrays (.task uid)
  | .slalom n =>
    let s := (s.dropGroups (.slalom n)).dropReqs fun r => r.unit == .slalom n
    (match s.grid n with
    | none => s
    | some g =>
      (s.freeCores n g.cores).updGrid n fun y =>
        { y with killed := 1, slalom := y.slalom.map fun x =>
            { x with cores := [], launchNext := g.total, spill := none, started := true } })
/-- The error record of a killed unit (R437 kind 1). -/
def State.logKill (s : State) (k : Kill) : State :=
  let gridid := match k.unit with
    | .task _ => 0xFFFFFFFF
    | _ => ((s.grid k.grid).map fun g => g.gridid).getD 0xFFFFFFFF
  s.faultLog k.tenant { kind := 1, cause := k.cause, part := k.part, gridid := gridid, unit := k.lin, core := k.core
                        epc := k.epc.toNat, eaddr := k.eaddr.toNat, einfo := k.einfo.toNat }
/-- A unit that was being captured is so no longer: its PREEMPT has lost it (R479). -/
def State.endHolds (s : State) (u : UnitRef) : State :=
  let cs := s.captures.filter fun c => c.unit == u
  let s : State := { s with captures := s.captures.filter fun c => c.unit != u }
  cs.foldl (fun (s : State) c => s.preemptUnitDone c.queue c.packet false) s
/-- KILL_UNIT_DRAINED (R118): once the unit's operations have drained, its record is written and its resources freed. -/
def killDrained (s : State) (i : Nat) : State :=
  match s.kills[i]? with
  | none => s
  | some k =>
    let s := s.withdraw k.unit
    if !s.drained k.unit then s
    else
      let s := ((s.abandonUnit k.unit).logKill k).freeUnit k
      let s := ({ s with kills := s.kills.eraseIdx i } : State).endHolds k.unit
      match k.packet with
      | some (q, p) => s.preemptUnitDone q p true
      | none => s
/-- KILL_UNIT_DRAINED. -/
def execKillUnitDrained (u : Nat) (s : State) : Host.Outcome State Fault Refusal := .next (s.orWait (s.ownersFrom (killDrained s u)))

end Sys2Proof.Machine
end

