-- ==== Sys2Proof/Machine/Preempt.lean ====
section
/-! DEFINITION. Pre-emption (R120-R125, R422-R424, R449): which units a PREEMPT names, their context images, capture, and
re-entry from an image. -/
namespace Sys2Proof.Machine

/-! ## Images (R122, R123) -/

/-- A number rounded up to a multiple. -/
def roundUp (n a : Nat) : Nat := (n + a - 1) / a * a
/-- Bytes filled up with zeros to an offset. -/
def padTo (bs : List Byte) (n : Nat) : List Byte := bs ++ zeros (n - bs.length)

/-- A member of a unit: its core, its STATE in a directory (1 in a slot, 3 swapped out), and the group. -/
structure Member where
  core : Nat
  st : Nat
  g : Group
/-- The members of a unit, by group number. -/
def State.members (s : State) (u : UnitRef) : List Member :=
  let all := ((s.unitSlots u).map fun x => ({ core := coreOf x.1, st := 1, g := x.2 } : Member))
    ++ (s.swapped.filter fun x => x.group.unit == u).map fun x => ({ core := x.core, st := 3, g := x.group } : Member)
  (List.range 16).flatMap (fun n => all.filter fun m => m.g.gnum == n) ++ all.filter fun m => 16 ≤ m.g.gnum
/-- Group images one after another from an offset, each aligned to 256 bytes: member, offset. -/
def placeImages : Nat → List Member → List (Member × Nat)
  | _, [] => []
  | off, m :: r => (m, off) :: placeImages (roundUp (off + imageSize m.g.budget) 256) r
/-- The offset past group images. -/
def imagesEnd (off : Nat) (ms : List Member) : Nat := ms.foldl (fun n m => roundUp (n + imageSize m.g.budget) 256) off
/-- What the front end keeps of a group's split table: the entries that a handler holds or that wait at a REGROUP, in the
order of the table (log 28). -/
def Group.keptFrags (g : Group) (now : Nat) : List HeldFrag :=
  let fs := ((List.range g.frags.length).zip g.frags).filterMap fun x =>
    let w := x.2.wait.code now
    let re : Option (Nat × Nat × Nat) := match x.2.wait with | .regroup d a b => some (d, a, b) | _ => none
    if x.2.heldTrap || x.2.heldUi || re.isSome then
      some ({ idx := x.1, trap := x.2.heldTrap, ui := x.2.heldUi, code := w.1, arg := w.2, regroup := re } : HeldFrag)
    else none
  let ds := ((List.range g.deferred.length).zip g.deferred).filterMap fun x =>
    if x.2.heldTrap || x.2.heldUi then
      some ({ idx := g.frags.length + x.1, trap := x.2.heldTrap, ui := x.2.heldUi, code := 0, arg := 0, regroup := none } : HeldFrag)
    else none
  fs ++ ds
/-- What the front end keeps of the captured groups, for an image at an address. -/
def heldGroups (image now : Nat) (ps : List (Member × Nat)) : List HeldGroup :=
  ps.map fun p =>
    { uid := p.1.g.uid
      gid := (match p.1.g.unit with | .slalom _ => p.1.g.lin | _ => p.1.g.gnum)
      image := image + p.2
      departs := ((List.range p.1.g.frags.length).zip p.1.g.frags).filterMap fun x =>
        match x.2.wait with
        | .depart _ (some live) => some (x.1, live)
        | _ => none
      info := p.1.g.trap.info
      frags := p.1.g.keptFrags now
      arrived := p.1.g.arrivedAt }

/-- The accumulator image of an array (R259). -/
def ArraySt.image (a : ArraySt) : List Byte :=
  (List.range 16).flatMap fun m => (a.rows m).flatMap fun row => row.flatMap fun x => leBytes 4 x.toNat
/-- An accumulator image as accumulators. -/
def accOfImage (bs : List Byte) : Tab (List (List W32)) :=
  (List.range 16).foldl (fun (t : Tab (List (List W32))) m =>
    Tab.set zeroRows t m ((List.range 64).map fun r => (List.range 64).map fun c =>
      BitVec.ofNat 32 (fieldAt bs (16384 * m + 256 * r + 4 * c) 4))) []

/-- What the header of a team or task image says (R122, R123). -/
structure UnitHead where
  ngroups : Nat
  code : Nat
  x : Nat
  y : Nat
  z : Nat
  base : Nat
  size : Nat
  core : Nat
  reserve : Nat
  prod : Nat
  cons : Nat
  err : Nat
  barriers : List Byte
  task : List Byte
deriving DecidableEq, Repr

/-- The barriers of a team, in an image. -/
def Team.barrierBytes (t : Team) : List Byte :=
  (List.range 16).flatMap fun b =>
    let x := t.barrier b
    leBytes 1 x.expect ++ zeros 1 ++ leBytes 2 x.arrived.toNat ++ leBytes 4 x.gen.toNat
/-- The header of a team's image. -/
def State.teamHead (s : State) (tk : Nat) (t : Team) : UnitHead :=
  { ngroups := t.groups, code := t.codeObj.toNat, x := t.tx, y := t.ty, z := t.tz, base := t.base, size := t.size
    core := tk / 8 % 4, reserve := t.reserve
    prod := (match t.ring with | some r => leNat (s.bankRead (teamKey tk t + r.off) 4) | none => 0)
    cons := (match t.ring with | some r => r.cons.toNat | none => 0)
    err := (match t.ring with | some r => r.erridx.toNat | none => 0)
    barriers := t.barrierBytes, task := zeros 32 }
/-- The header of a task group's image. -/
def taskHead (core : Nat) (g : Group) (x : TaskInfo) : UnitHead :=
  { ngroups := 1, code := x.code.toNat, x := g.tx, y := g.ty, z := g.tz, base := 0, size := 0, core := core % 4, reserve := 0
    prod := 0, cons := 0, err := 0, barriers := zeros 128
    task := leBytes 2 x.queue ++ leBytes 1 g.prio ++ leBytes 1 g.part ++ leBytes 2 g.asid ++ leBytes 2 (bitOf x.succ32)
      ++ leBytes 8 x.succ.toNat ++ leBytes 8 x.statAddr.toNat ++ zeros 8 }
/-- A directory entry. -/
def dirEntry (n : Nat) (ps : List (Member × Nat)) (k : Nat) : List Byte :=
  match ps.find? fun p => p.1.g.gnum == k with
  | some p => leBytes 8 p.2 ++ leBytes 4 (imageSize p.1.g.budget) ++ leBytes 1 p.1.st ++ zeros 3
  | none => zeros 12 ++ leBytes 1 (if k < n then 2 else 0) ++ zeros 3
/-- Where the scratchpad image and the accumulator image of a unit lie, and the end of its image. -/
def unitLayout (size : Nat) (acc : Bool) (ms : List Member) : Nat × Nat × Nat :=
  let scr := imagesEnd 0x200 ms
  let a := roundUp (scr + size) 256
  (scr, a, a + if acc then 2 ^ 18 else 0)
/-- A team or task image: header, directory, groups, scratchpad, accumulators (log 28). DESIGN CHOICE (log 28): SCROFF is 0
where SCRSIZE is 0, as ACCOFF is where there is no accumulator image. -/
def unitImage (h : UnitHead) (ms : List Member) (scratch acc : List Byte) (now : Nat) : List Byte :=
  let l := unitLayout h.size (acc != []) ms
  let ps := placeImages 0x200 ms
  let head := leBytes 4 0x43545847 ++ leBytes 2 0x0100 ++ leBytes 1 h.ngroups ++ leBytes 1 (if acc = [] then 0 else 1)
    ++ leBytes 8 h.code ++ leBytes 2 h.x ++ leBytes 2 h.y ++ leBytes 2 h.z ++ zeros 2 ++ leBytes 4 h.base
    ++ leBytes 4 h.size ++ leBytes 1 h.core ++ zeros 1 ++ leBytes 2 h.reserve ++ leBytes 4 h.prod ++ leBytes 4 h.cons
    ++ leBytes 4 h.err ++ leBytes 8 (if h.size = 0 then 0 else l.1) ++ leBytes 8 (if acc = [] then 0 else l.2.1)
    ++ h.barriers ++ h.task ++ zeros 32 ++ (List.range 16).flatMap (dirEntry h.ngroups ps)
  let body := ps.foldl (fun bs p => padTo bs p.2 ++ p.1.g.image now) head
  padTo (padTo body l.1 ++ scratch) l.2.1 ++ acc

/-- Did any group of a unit issue a matrix instruction (R122)? -/
def State.usedMatrix (s : State) (u : UnitRef) : Bool :=
  (s.members u).any (fun m => m.g.usedMx) || (match u with | .team tk => (s.team tk).any fun t => t.usedMatrix | _ => false)
/-- The accumulators of a unit on a core: those of the array that it owns, else zeros (R260). -/
def State.unitAcc (s : State) (u : UnitRef) (core : Nat) : List Byte :=
  let a := (s.core core).array
  if a.owner.any (fun w => w.unit == u && !w.follower) then a.image else zeros (2 ^ 18)
/-- Members as their images hold them. -/
def imaged (ms : List Member) : List Member := ms.map fun m => { m with g := m.g.forImage }

/-! ## Grid images (R423) -/

/-- The members of a slalom grid. -/
def State.gridMembers (s : State) (n : Nat) : List Member := s.members (.slalom n)
/-- An array as an image holds it: without the follower accumulators that wide requests wrote (R285). -/
def ArraySt.saved (a : ArraySt) : ArraySt :=
  match a.owner with
  | some w => if w.follower then { a with acc := a.acc.filter fun x => !w.wrote.contains x.1 } else a
  | none => a
/-- The offsets of a grid image: core table, segment map, group directory, then per core pages, queue and accumulators.
DESIGN CHOICE (log 28): the image holds the accumulators of every core, so that its size is known before the units drain
(R449); R423 does not say when ACCOFF is 0. -/
structure GridLayout where
  segMap : Nat
  groupDir : Nat
  /-- core, pages, queue, accumulators -/
  cores : List (Nat × Nat × Nat × Nat)
  groups : Nat
deriving DecidableEq, Repr
/-- Places the per-core parts of a grid image. -/
def placeCores : Nat → List Nat → List (Nat × Nat × Nat × Nat)
  | _, [] => []
  | off, c :: r => (c, off, off + 2 ^ 17, off + 2 ^ 18) :: placeCores (off + 2 ^ 19) r
/-- The layout of a grid's image. -/
def gridLayout (g : Grid) (x : SlalomSt) (ms : List Member) : GridLayout :=
  let segMap := roundUp (0x100 + 32 * x.cores.length) 64
  let dir := segMap + 64 * x.segs.length
  let first := roundUp (dir + 32 * ms.length) 4096
  { segMap := segMap, groupDir := dir, cores := placeCores first g.cores, groups := first + 2 ^ 19 * g.cores.length }
/-- A segment-table entry (R397). -/
def Segment.bytes (y : Segment) : List Byte :=
  leBytes 8 y.off ++ leBytes 4 y.len ++ leBytes 1 y.cores.length ++ zeros 3
  ++ ((List.range 8).flatMap fun k => leBytes 2 (y.cores.getD k 0xFFFF))
  ++ ((List.range 4).flatMap fun k => leBytes 4 (y.live.getD k 0).toNat) ++ zeros 16
/-- A segment from its entry. -/
def segOfBytes (bs : List Byte) : Segment :=
  { off := fieldAt bs 0 8, len := fieldAt bs 8 4
    cores := (List.range (min 8 (fieldAt bs 0x0C 1))).map fun k => fieldAt bs (0x10 + 2 * k) 2
    live := (List.range 4).map fun k => BitVec.ofNat 32 (fieldAt bs (0x20 + 4 * k) 4) }
/-- A core entry of a grid image. -/
def LeapSt.entry (l : LeapSt) (c : Nat × Nat × Nat × Nat) : List Byte :=
  leBytes 2 c.1 ++ leBytes 2 (l.seg.getD 0) ++ leBytes 1 l.qhead ++ leBytes 1 l.qcount
  ++ leBytes 2 ((l.repin.map fun k => k + 1).getD 0) ++ leBytes 8 c.2.1 ++ leBytes 8 c.2.2.1 ++ leBytes 8 c.2.2.2
/-- A leap unit that nothing has loaded. -/
def LeapSt.empty (n : Nat) : LeapSt :=
  { grid := n, seg := none, store := [], qhead := 0, qcount := 0, repin := none, map := [], hints := [], fwd := [] }
/-- Is a fragment of a slalom group due to depart (R401)? -/
def State.memberDeparts (s : State) (m : Member) : Bool := s.departing (32 * m.core) m.g
/-- A grid's image. -/
def State.gridImage (s : State) (n : Nat) (g : Grid) (x : SlalomSt) : List Byte :=
  let ms := s.gridMembers n
  let l := gridLayout g x ms
  let ps := placeImages l.groups (imaged ms)
  let head := leBytes 4 0x4C535847 ++ leBytes 2 0x0100 ++ leBytes 2 x.cores.length ++ leBytes 8 g.code.toNat
    ++ leBytes 8 (match x.spill with | some o => 2 ^ 60 + o | none => 0) ++ leBytes 4 ms.length ++ zeros 4
    ++ leBytes 8 x.launchNext ++ leBytes 2 g.sx ++ leBytes 2 g.sy ++ leBytes 2 g.sz ++ zeros 2 ++ leBytes 8 0x100
    ++ leBytes 8 l.segMap ++ leBytes 8 l.groupDir ++ zeros 184
  let body := head ++ l.cores.flatMap (fun c => ((s.leap c.1).getD (LeapSt.empty n)).entry c)
  let body := padTo body l.segMap ++ x.segs.flatMap Segment.bytes
  let body := body ++ (ms.zip ps).flatMap fun p =>
    leBytes 8 p.2.2 ++ leBytes 4 (imageSize p.1.g.budget) ++ leBytes 4 p.1.g.lin ++ leBytes 2 p.1.core ++ leBytes 1 p.1.st
    ++ leBytes 1 (bitOf (s.memberDeparts p.1)) ++ zeros 12
  let body := l.cores.foldl (fun bs c =>
    padTo bs c.2.1 ++ s.bankRead (scratchKey (c.1 / 4) (c.1 % 4 * 2 ^ 18)) (2 ^ 18)
    ++ (s.core c.1).array.saved.image) body
  ps.foldl (fun bs p => padTo bs p.2 ++ p.1.g.image s.clock) body
/-- The queued records of a grid, in an image at an address. -/
def State.queuedRecs (s : State) (image : Nat) (l : GridLayout) : List Nat :=
  l.cores.flatMap fun c =>
    match s.leap c.1 with
    | none => []
    | some x => (List.range x.qcount).map fun k => image + c.2.2.1 + 0x4000 * ((x.qhead + k) % 8)

/-! ## The units of a PREEMPT (R449) -/

/-- Is a unit free to be captured or discarded: not killed, not being captured? -/
def State.unitFree (s : State) (u : UnitRef) : Bool :=
  (s.kills.all fun k => k.unit != u) && s.captures.all fun c => c.unit != u
/-- Is a slalom grid resident: started, and not held? -/
def State.slalomLive (s : State) (n : Nat) (g : Grid) : Bool :=
  g.slalom.any (fun x => x.started && x.cores != []) && s.held.all fun h => h.grid != some n
/-- The resident teams of a grid with their linear IDs, or the grid itself. -/
def State.gridUnits (s : State) (n : Nat) (g : Grid) : List (Nat × UnitRef) :=
  if g.slalom.isSome then (if s.slalomLive n g then [(0, .slalom n)] else [])
  else (s.teams.filter fun t => t.2.grid == n).map fun t => (t.2.linear, .team t.1)
/-- The task groups of a partition, with their queues. -/
def State.partTasks (s : State) (p : Nat) : List (Nat × UnitRef) :=
  (((s.groups.map fun x => x.2) ++ s.swapped.map fun x => x.group).filter fun g =>
    g.part == p && g.task.isSome).map fun g => (g.lin, g.unit)
/-- Put a unit into its place by its key. -/
def insertUnit (x : Nat × UnitRef) : List (Nat × UnitRef) → List (Nat × UnitRef)
  | [] => [x]
  | y :: r => if x.1 < y.1 then x :: y :: r else y :: insertUnit x r
/-- The units of a partition, apart from task groups, by GRIDID and linear ID: its teams, and its slalom grids. -/
def State.partUnits (s : State) (p : Nat) : List (Nat × UnitRef) :=
  s.grids.flatMap fun g => ((s.gridUnits g.1 g.2).filter fun u =>
    match u.2 with
    | .team tk => (s.team tk).any fun t => t.part == p
    | _ => g.2.part == p).map fun u => (2 ^ 33 * g.2.gridid + u.1, u.2)
/-- The units of a PREEMPT in the order of their images: by GRIDID and linear ID, then task groups by queue. -/
def State.orderUnits (s : State) (units tasks : List (Nat × UnitRef)) : List UnitRef :=
  let sort (l : List (Nat × UnitRef)) : List (Nat × UnitRef) := l.foldl (fun l x => insertUnit x l) []
  ((sort units ++ sort tasks).map fun x => x.2).filter s.unitFree
/-- The bytes of a unit's image. -/
def State.imageLen (s : State) (u : UnitRef) : Nat :=
  let ms := s.members u
  match u with
  | .team tk => (unitLayout (((s.team tk).map fun t => t.size).getD 0) (s.usedMatrix u) ms).2.2
  | .task _ => (unitLayout 0 (s.usedMatrix u) ms).2.2
  | .slalom n =>
    (match s.grid n with
    | some g => (match g.slalom with
      | some x => imagesEnd (gridLayout g x ms).groups ms
      | none => 0)
    | none => 0)
/-- A unit discarded by a PREEMPT begins to end as by KillUnit (R449): CAUSE 18 for a task group, else 0xFF. -/
def State.discardUnit (s : State) (u : UnitRef) (pk : Nat × Nat) : State :=
  match s.members u with
  | m :: _ => s.killUnit m.core m.g (match u with | .task _ => 18 | _ => 0xFF) (some pk)
  | [] =>
    match u with
    | .team tk => (match s.team tk with | some t => s.killTeam tk t 0xFF (some pk) | none => s)
    | .slalom n =>
      (match s.grid n with
      | some g =>
        let s := s.killSlalom n g 0xFF
        { s with kills := s.kills.map fun k => if k.unit = u then { k with packet := some pk } else k }
      | none => s)
    | .task _ => s
/-- The captures of a PREEMPT: each unit's image starts at the next 4 KiB. -/
def State.planCaptures (s : State) (p : Packet) (first : Nat) (park : Bool) : Nat → List UnitRef → List Capture
  | _, [] => []
  | a, u :: r =>
    { unit := u, image := a, first := first, park := park, queue := p.queue, packet := p.index }
      :: State.planCaptures s p first park (a + roundUp (s.imageLen u) 4096) r
/-- The units that a PREEMPT names (R449), or its refusal: 1 no such unit, 3 another tenant's. -/
def State.preemptUnits (s : State) (p : Packet) : Except Nat (List UnitRef) :=
  let gid := p.field 0x20 4
  let none1 (l : List UnitRef) : Except Nat (List UnitRef) := if l = [] then .error 1 else .ok l
  if p.field 0x28 1 = 2 then
    let n := p.field 0x2A 1
    let x := s.partn n
    if !x.valid then .error 1
    else if x.tenant ≠ p.tenant ∧ p.priv = false then .error 3
    else none1 (s.orderUnits (s.partUnits n) (s.partTasks n))
  else
    let mine := s.grids.find? fun g => g.2.gridid == gid && g.2.tenant == p.tenant
    let any := s.grids.find? fun g => g.2.gridid == gid
    match mine <|> any with
    | none => .error 1
    | some g =>
      if g.2.tenant ≠ p.tenant ∧ p.priv = false then .error 3
      else
        let us := s.orderUnits (s.gridUnits g.1 g.2) []
        none1 (if p.field 0x28 1 = 1 then us
          else us.filter fun u => match u with
            | .team tk => (s.team tk).any fun t => t.linear == p.field 0x24 4
            | _ => false)
/-- A PREEMPT begins (R449): its units stop, and are captured as they drain. -/
def preemptRun (s : State) (p : Packet) : State :=
  match s.preemptUnits p with
  | .error d => s.completePacket p 3 d 0
  | .ok us =>
    let image := p.field 0x10 8
    let n := (us.map fun u => roundUp (s.imageLen u) 4096).sum
    let s' := s.updPacket p.queue p.index fun x => { x with pending := us.length }
    if p.mode = 2 then us.foldl (fun (s : State) u => s.discardUnit u (p.queue, p.index)) s'
    else if p.field 0x18 8 < n then s.completePacket p 3 2 0
    else
      match s.spanFe p.tenant p.asid [0] permW (BitVec.ofNat 64 image) n with
      | (s, .error _) => s.completePacket p 2 0 0
      | (_, .ok _) =>
        { s' with captures := s'.captures ++ s'.planCaptures p image (p.mode == 1) image us }
/-- A PREEMPT of a MODE. -/
def preemptMode (s : State) (q k mode : Nat) : State :=
  match s.packet q k with
  | some p => if p.mode = mode then onPacket s q k 7 preemptRun else s
  | none => s
/-- PREEMPT_REQUEUE (R449). -/
def execPreemptRequeue (q k : Nat) (s : State) : Host.Outcome State Fault Refusal := .next (s.orWait (preemptMode s q k 0))
/-- PREEMPT_PARK (R449). -/
def execPreemptPark (q k : Nat) (s : State) : Host.Outcome State Fault Refusal := .next (s.orWait (preemptMode s q k 1))
/-- PREEMPT_DISCARD (R449). -/
def execPreemptDiscard (q k : Nat) (s : State) : Host.Outcome State Fault Refusal := .next (s.orWait (preemptMode s q k 2))

/-! ## Capture (R120, R422) -/

/-- The front end's record of a captured unit. -/
def Capture.hold (c : Capture) (p : Packet) (grid : Option Nat) (unit tenant part : Nat) (gs : List HeldGroup)
    (recs : List Nat) : HeldUnit :=
  { grid := grid, unit := unit, tenant := tenant, asid := p.asid, part := part, image := c.image, first := c.first
    ready := !c.park, packet := none, map := [], groups := gs, recs := recs, begun := true }
/-- A team is captured. -/
def State.captureTeam (s : State) (c : Capture) (p : Packet) (tk : Nat) (t : Team) : State :=
  let u := UnitRef.team tk
  let s := (s.releaseNow (tk / 8) t.asid).logCopyErr tk t
  let used := s.usedMatrix u
  let ms := imaged (s.members u)
  let img := unitImage (s.teamHead tk t) ms (s.bankRead (teamKey tk t) t.size) (if used then s.unitAcc u (tk / 8) else []) s.clock
  let s := s.imageWrite p.tenant p.asid c.image img
  let s := (s.dropGroups u).releaseArrays u
  let h := c.hold p (some t.grid) t.linear t.tenant t.part (heldGroups c.image s.clock (placeImages 0x200 ms)) []
  { s with teams := Tab.del s.teams tk, held := s.held ++ [{ h with begun := t.begun }] }
/-- A task group is captured. -/
def State.captureTask (s : State) (c : Capture) (p : Packet) (uid : Nat) : State :=
  let u := UnitRef.task uid
  match s.members u with
  | m :: _ =>
    (match m.g.task with
    | none => s
    | some x =>
      let s := s.releaseNow m.core m.g.asid
      let used := s.usedMatrix u
      let ms := imaged [m]
      let img := unitImage (taskHead m.core m.g x) ms [] (if used then s.unitAcc u m.core else []) s.clock
      let s := s.imageWrite p.tenant p.asid c.image img
      let s := (s.dropGroups u).releaseArrays u
      let h := c.hold p none m.g.lin m.g.tenant m.g.part (heldGroups c.image s.clock (placeImages 0x200 ms)) []
      { s with held := s.held ++ [h] })
  | [] => s
/-- A slalom grid is captured. -/
def State.captureGrid (s : State) (c : Capture) (p : Packet) (n : Nat) (g : Grid) (x : SlalomSt) : State :=
  let u := UnitRef.slalom n
  let s : State := g.cores.foldl (fun (s : State) k => s.releaseNow k g.asid) s
  let ms := s.gridMembers n
  let l := gridLayout g x ms
  let s' := s.imageWrite p.tenant p.asid c.image (s.gridImage n g x)
  let s' := (s'.dropGroups u).freeCores n g.cores
  let h := c.hold p (some n) 0 g.tenant g.part (heldGroups c.image s.clock (placeImages l.groups (imaged ms))) (s.queuedRecs c.image l)
  { s' with held := s'.held ++ [h] }
/-- PREEMPT_CAPTURE (R120, R285, R422): the unit has drained, its matrix requests accepted, granted and retired; its image
is written, and what it held is free. -/
def preemptCapture (s : State) (i : Nat) : State :=
  match s.captures[i]? with
  | none => s
  | some c =>
    match s.packet c.queue c.packet with
    | none => s
    | some p =>
      if (s.kills.any fun k => k.unit == c.unit) = true ∨ s.drained c.unit = false then s
      else
        let s := (s.abandonUnit c.unit).loseFollower c.unit
        let s := match c.unit with
          | .team tk => (match s.team tk with | some t => s.captureTeam c p tk t | none => s)
          | .task uid => s.captureTask c p uid
          | .slalom n => (match s.grid n with
            | some g => (match g.slalom with | some x => s.captureGrid c p n g x | none => s)
            | none => s)
        let s : State := { s with captures := s.captures.eraseIdx i }
        s.preemptUnitDone c.queue c.packet true
/-- PREEMPT_CAPTURE. -/
def execPreemptCapture (u : Nat) (s : State) : Host.Outcome State Fault Refusal := .next (s.orWait (s.ownersFrom (preemptCapture s u)))

/-! ## Re-entry (R121, R385, R424) -/

/-- Bytes of a held unit's image. -/
def State.heldBytes (s : State) (h : HeldUnit) (off n : Nat) : List Byte := s.imageRead (s.imageTenant h) h.asid (h.image + off) n
/-- The bytes of a held group's image. -/
def State.heldGroupBytes (s : State) (h : HeldUnit) (x : HeldGroup) : List Byte :=
  let t := s.imageTenant h
  let head := s.imageRead t h.asid x.image 0x1000
  head ++ s.imageRead t h.asid (x.image + 0x1000) (384 * fieldAt head 0x30C 2)
/-- Where a held group's image lies, and its length. -/
def State.groupSpan (s : State) (h : HeldUnit) (x : HeldGroup) : Nat × Nat :=
  (x.image, 0x1000 + 384 * leNat (s.imageRead (s.imageTenant h) h.asid (x.image + 0x30C) 2))
/-- The front end fetches parts of a held unit's image, offset and length, and its groups' images: engine reads, which may
have to wait and meet errors (R326, R337, R467, R478). -/
def State.heldFetch (s : State) (h : HeldUnit) (parts : List (Nat × Nat)) (xs : List HeldGroup) : State :=
  ((parts.map fun p => (h.image + p.1, p.2)) ++ xs.map (s.groupSpan h)).foldl
    (fun s p => s.imageFetch (s.imageTenant h) h.asid p.1 p.2) s
/-- A group as its image and its unit give it; fragments due to depart by a LEAP have their live sets back, the causes
the values kept for them (R117), and a REGROUP its place in the order of arrival (R104, R121). -/
def restored (base : Group) (x : HeldGroup) (bs : List Byte) (now ctr : Nat) : Group :=
  let g := base.ofImage x.frags bs now ctr
  { g with uid := x.uid
           arrivedAt := if g.frags.any (fun f => f.wait.code now == (3, 0)) then x.arrived else none
           trap := { g.trap with info := x.info.foldl (fun t e => Tab.put t e.1 e.2) g.trap.info }
           frags := g.frags.map fun f =>
      match Tab.find x.departs f.id with
      | some live => { f with wait := .depart f.hdr (some live) }
      | none => f }
/-- Replace a run of scratchpad bytes, every tag 0 (R140); the write ends the errors of its words (R158). -/
def State.loadScratch (s : State) (key n : Nat) (bs : List Byte) : State :=
  let t : State := { s with
    scratch := Memory.writeN (s.scratch.filter fun c => c.1 < key || key + n ≤ c.1) key bs
    tags := s.tags.filter fun c => c.1 < key / 128 || (key + n) / 128 ≤ c.1
    sendRings := s.sendRings.filter fun r => r.1 < key || key + n ≤ r.1 }
  if s.plat.bad = [] then t
  else t.updPlat fun p => { p with bad := p.bad.filter fun w => w < scratchBad key || scratchBad (key + n) ≤ w }
/-- Retired requests of a captured unit's groups, marked and not yet covered, go with them to their new core (R282). -/
def State.moveReqs (s : State) (h : HeldUnit) (core : Nat → Nat) (u : UnitRef) : State :=
  h.groups.foldl (fun (s : State) x =>
    let mine := s.clusters.flatMap fun (c : Nat × ClusterSt) => c.2.mx.filter fun (r : Nat × MxReq) => r.2.uid == x.uid
    if mine = [] then s
    else
      let c := core x.uid
      (s.dropReqs fun r => r.uid == x.uid).updCluster (clusterOf c) fun y =>
        { y with mx := mine.foldl (fun m r => Tab.put m r.1 { r.2 with core := c, unit := u }) y.mx }) s
/-- The array of a core is claimed with accumulators from an image (R260). -/
def State.claimAcc (s : State) (core : Nat) (u : UnitRef) (acc : List Byte) : State :=
  s.updArray core fun a => { a.claim u false with acc := accOfImage acc }
/-- A group enters a slot of a core, or its swap pool. -/
def State.enterGroup (s : State) (core : Nat) (swapped : Bool) (g : Group) : State :=
  if swapped then s.addSwapped core g
  else
    match s.freeSlot core with
    | some gk => s.setGroup gk g
    | none => s

/-- The guard runs of an allocation (R487): the last reaches its end. -/
def CodeObj.guards (o : CodeObj) (size : Nat) : (Nat × Nat) × (Nat × Nat) :=
  ((o.guardStart, o.guardStart + 128 * o.guard), (o.scratch - 128 * o.guard, size))
/-- A directory entry of a team's image: offset, size, state. -/
def dirOf (bs : List Byte) (k : Nat) : Nat × Nat × Nat :=
  (fieldAt bs (0x100 + 16 * k) 8, fieldAt bs (0x108 + 16 * k) 4, fieldAt bs (0x10C + 16 * k) 1)
/-- The groups of an image that live on, with their STATE and budget. -/
def State.heldMembers (s : State) (h : HeldUnit) (bs : List Byte) : List (HeldGroup × Nat × Nat) :=
  h.groups.map fun x =>
    (x, (dirOf bs x.gid).2.2, fieldAt (s.imageRead (s.imageTenant h) h.asid (x.image + 0x30C) 2) 0 2)
/-- Registers and slots that a held unit's groups take, those of them that hold slots. -/
def liveBudgets (ms : List (HeldGroup × Nat × Nat)) : List Nat :=
  (ms.filter fun m => m.2.1 != 3).map fun m => m.2.2
/-- Has a core's swap pool room for the swapped groups of a held unit (R435)? -/
def State.swapFits (s : State) (core : Nat) (ms : List (HeldGroup × Nat × Nat)) : Bool :=
  let ns := (ms.filter fun m => m.2.1 == 3).map fun m => imageSize m.2.2
  ns == [] || (s.fe.saveBase != 0 && poolFits (s.poolUsed core) ns)
/-- Are the pages of an allocation free on a core (R140)? A team without pages takes none. DESIGN CHOICE (log 49): an empty
allocation has a base too, any multiple of 4 KiB, and R140 does not say which. -/
def State.pagesFree (s : State) (core base size : Nat) : Bool :=
  base + size ≤ 2 ^ 18
  && (s.teamsOn core).all fun t => t.2.size == 0 || size == 0 || t.2.base + t.2.size ≤ base || base + size ≤ t.2.base
/-- May a held team enter a core (R121, R450)? -/
def State.heldFits (s : State) (bs : List Byte) (ms : List (HeldGroup × Nat × Nat)) (core : Nat) : Bool :=
  let bud := liveBudgets ms
  core % 4 == fieldAt bs 0x20 1 && !s.slalomHeld core && (s.core core).leap.isNone && !s.heldForReturn core
  && s.pagesFree core (fieldAt bs 0x18 4) (fieldAt bs 0x1C 4) && bud.length ≤ s.freeSlots core
  && bud.sum + 8 * fieldAt bs 0x22 2 ≤ s.freeRegs core && (s.freeTeam core).isSome && s.swapFits core ms
  && (fieldAt bs 7 1 % 2 == 0 || (s.core core).array.owner.isNone)
/-- A held unit leaves the front end's record. -/
def State.dropHeld (s : State) (h : HeldUnit) : State := { s with held := s.held.filter fun x => x != h }
/-- A held team re-enters on a core (R121). -/
def State.enterTeam (s : State) (h : HeldUnit) (n : Nat) (gr : Grid) (core tk : Nat) (bs : List Byte)
    (ms : List (HeldGroup × Nat × Nat)) : State :=
  let u := UnitRef.team tk
  let size := fieldAt bs 0x1C 4
  let gd := gr.obj.guards size
  let cons := BitVec.ofNat 32 (fieldAt bs 0x28 4)
  let prod := BitVec.ofNat 32 (fieldAt bs 0x24 4)
  let t : Team :=
    { grid := n, linear := h.unit, tx := fieldAt bs 0x10 2, ty := fieldAt bs 0x12 2, tz := fieldAt bs 0x14 2
      tenant := gr.tenant, asid := gr.asid, part := gr.part, prio := gr.obj.prio, codeObj := gr.code
      groups := fieldAt bs 6 1, live := ms.length, reserve := fieldAt bs 0x22 2, base := fieldAt bs 0x18 4, size := size
      guardFront := gd.1, guardBack := gd.2
      ring := if gr.obj.hasRing then
          some { off := gr.obj.ringOff, entries := gr.obj.ringEntries, cons := cons, erridx := BitVec.ofNat 32 (fieldAt bs 0x2C 4)
                 prod := prod, bad := decide (gr.obj.ringEntries < (prod - cons).toNat), touched := true }
        else none
      ctable := if gr.obj.hasTable then some gr.obj.ctableOff else none
      barriers := (List.range 16).map fun b =>
        (b, { expect := fieldAt bs (0x40 + 8 * b) 1, arrived := BitVec.ofNat 16 (fieldAt bs (0x42 + 8 * b) 2)
              gen := BitVec.ofNat 32 (fieldAt bs (0x44 + 8 * b) 4) })
      usedMatrix := fieldAt bs 7 1 % 2 == 1, copyErr := none, begun := h.begun }
  let scr := s.heldBytes h (fieldAt bs 0x30 8) size
  let acc := if t.usedMatrix then s.heldBytes h (fieldAt bs 0x38 8) (2 ^ 18) else []
  let gs := ms.map fun m => (m.2.1 == 3, m.1, s.heldGroupBytes h m.1)
  let s := (s.dropHeld h).acquireAction core gr.asid
  let s : State := { s with teams := Tab.put s.teams tk t }
  let s := if size = 0 then s else s.loadScratch (teamKey tk t) size scr
  let s := if t.usedMatrix then s.claimAcc core u acc else s
  let s := s.moveReqs h (fun _ => core) u
  gs.foldl (fun (s : State) x =>
    let base := { Group.launch x.2.1.uid u 0 0 (launchFrag 0 0) false with
      grid := n, lin := h.unit, tx := t.tx, ty := t.ty, tz := t.tz, asid := gr.asid, tenant := gr.tenant, part := gr.part
      prio := gr.obj.prio }
    (s.enterGroup core x.1 (restored base x.2.1 x.2.2 s.clock s.freeCtr)).used) s
/-- A held team re-enters where it fits; none where it fits nowhere. -/
def State.readmitTeam (s : State) (h : HeldUnit) (n : Nat) (gr : Grid) : Option State :=
  let bs := s.heldBytes h 0 0x200
  let ms := s.heldMembers h bs
  match s.leastCore (s.partCores gr.part) (s.heldFits bs ms) with
  | none => none
  | some core =>
    let acc := if fieldAt bs 7 1 % 2 = 1 then [(fieldAt bs 0x38 8, 2 ^ 18)] else []
    let parts := (0, 0x200) :: (fieldAt bs 0x30 8, fieldAt bs 0x1C 4) :: acc
    (s.freeTeam core).map fun tk => (s.heldFetch h parts (ms.map fun m => m.1)).enterTeam h n gr core tk bs ms

/-- What a held task group's image says of its end (R123). -/
def taskOfImage (bs : List Byte) : TaskInfo :=
  { queue := fieldAt bs 0xC0 2, succ32 := fieldAt bs 0xC6 2 % 2 == 1, succ := BitVec.ofNat 64 (fieldAt bs 0xC8 8)
    statAddr := BitVec.ofNat 64 (fieldAt bs 0xD0 8), retries := 0, code := BitVec.ofNat 64 (fieldAt bs 8 8) }
/-- May a held task group enter a core (R385)? -/
def State.taskHeldFits (s : State) (bs : List Byte) (ms : List (HeldGroup × Nat × Nat)) (core : Nat) : Bool :=
  let bud := liveBudgets ms
  !s.slalomHeld core && !s.heldForReturn core && bud.length ≤ s.freeSlots core && bud.sum ≤ s.freeRegs core
  && s.swapFits core ms && (fieldAt bs 7 1 % 2 == 0 || (s.core core).array.owner.isNone)
/-- The RESUME packet of task groups completes with the last of them (R450). -/
def State.taskResumed (s : State) (h : HeldUnit) : State :=
  match h.packet with
  | none => s
  | some pk =>
    if s.held.any fun x => x.packet == some pk then s
    else
      match s.packet pk.1 pk.2 with
      | some p => s.completePacket p 0 0 0
      | none => s
/-- A held task group is re-admitted (R385); none where it fits nowhere. -/
def State.readmitTask (s : State) (h : HeldUnit) : Option State :=
  let bs := s.heldBytes h 0 0x200
  let ms := s.heldMembers h bs
  let info := taskOfImage bs
  let asid := fieldAt bs 0xC4 2
  match ms, s.leastCore (s.partCores (fieldAt bs 0xC3 1)) (s.taskHeldFits bs ms) with
  | m :: _, some core =>
    let u := UnitRef.task m.1.uid
    let gb := s.heldGroupBytes h m.1
    let used := fieldAt bs 7 1 % 2 == 1
    let acc := if used then s.heldBytes h (fieldAt bs 0x38 8) (2 ^ 18) else []
    let s := s.heldFetch h ((0, 0x200) :: if used then [(fieldAt bs 0x38 8, 2 ^ 18)] else []) [m.1]
    let base := { Group.launch m.1.uid u 0 0 (launchFrag 0 0) false with
      lin := info.queue, tx := fieldAt bs 0x10 2, ty := fieldAt bs 0x12 2, tz := fieldAt bs 0x14 2, asid := asid
      tenant := h.tenant, part := fieldAt bs 0xC3 1, prio := fieldAt bs 0xC2 1 % 4, task := some info
      usedMx := used }
    let s := (s.dropHeld h).acquireAction core asid
    let s := if acc = [] then s else s.claimAcc core u acc
    let s := s.moveReqs h (fun _ => core) u
    some (((s.enterGroup core (m.2.1 == 3) (restored base m.1 gb s.clock s.freeCtr)).used).taskResumed h)
  | _, _ => none

/-! ## Re-entry of a slalom grid (R424) -/

/-- A core through a core map. -/
def mapCore (m : List (Nat × Nat)) (c : Nat) : Nat := ((m.find? fun p => p.1 == c).map fun p => p.2).getD c
/-- Is a core free for a slalom grid (R393)? -/
def State.coreFree (s : State) (c : Nat) : Bool :=
  (s.groupsOn c).isEmpty && (s.teamsOn c).isEmpty && (s.core c).leap.isNone && (s.core c).array.owner.isNone
/-- Does a slalom grid that was accepted before, and is not yet admitted, hold a core (R393)? -/
def State.claimedBefore (s : State) (accepted c : Nat) : Bool :=
  s.grids.any fun g =>
    (match g.2.slalom with
      | some x => x.accepted < accepted && x.cores.contains c && !(s.core c).leap.isSome
      | none => false)
    && s.held.all fun h => h.grid != some g.1 || h.ready
/-- A core entry of a grid image: core, segment, queue head and count, repin, offsets of pages, queue, accumulators. -/
structure CoreEntry where
  core : Nat
  seg : Nat
  qhead : Nat
  qcount : Nat
  repin : Nat
  scr : Nat
  q : Nat
  acc : Nat
deriving DecidableEq, Repr
/-- A core entry's fields. -/
def coreEntryOf (bs : List Byte) : CoreEntry :=
  { core := fieldAt bs 0 2, seg := fieldAt bs 2 2, qhead := fieldAt bs 4 1 % 8, qcount := min 8 (fieldAt bs 5 1)
    repin := fieldAt bs 6 2, scr := fieldAt bs 8 8, q := fieldAt bs 16 8, acc := fieldAt bs 24 8 }
/-- The core table of a held grid's image. -/
def State.coreTable (s : State) (h : HeldUnit) (bs : List Byte) : List CoreEntry :=
  (List.range (min 192 (fieldAt bs 6 2))).map fun k => coreEntryOf (s.heldBytes h (fieldAt bs 0x30 8 + 32 * k) 32)
/-- The targets of spilled records are read through the map: their TCORE is rewritten. -/
def State.mapSpilled (s : State) (gr : Grid) (base : Nat) (m : List (Nat × Nat)) : State :=
  (List.range (s.spillSlots gr base)).foldl (fun (s : State) j =>
    let o := spillSlot j
    if leNat (s.spillRead gr base (o + 0x2C) 4) = 0 then s
    else
      let c := leNat (s.spillRead gr base (o + 0x0E) 2)
      if mapCore m c = c then s else s.spillWrite gr base (o + 0x0E) (leBytes 2 (mapCore m c))) s
/-- One core of a resumed grid: segment, pages, queue, accumulators. -/
def State.enterCore (s : State) (h : HeldUnit) (n : Nat) (x : SlalomSt) (m : List (Nat × Nat)) (e : CoreEntry) : State :=
  let c := mapCore m e.core
  let key := scratchKey (c / 4) (c % 4 * 2 ^ 18)
  let bs := s.heldBytes h e.scr (2 ^ 17) ++ s.heldBytes h e.q (2 ^ 17)
  let acc := if e.acc = 0 then [] else s.heldBytes h e.acc (2 ^ 18)
  let s := s.loadScratch key (2 ^ 18) bs
  let l : LeapSt :=
    { grid := n, seg := some e.seg, store := x.segBytes e.seg
      qhead := e.qhead, qcount := e.qcount, repin := if e.repin = 0 then none else some (e.repin - 1)
      map := x.segs.map fun y => y.cores, hints := [], fwd := [] }
  let s := (s.updCore c fun y => { y with leap := some l }).cleanStore c
  if acc = [] then s.updArray c fun a => a.claim (.slalom n) false else s.claimAcc c (.slalom n) acc
/-- The group entries of a grid image: GID, core, STATE, with the front end's record of the group. -/
def State.gridDir (s : State) (h : HeldUnit) (bs : List Byte) : List (HeldGroup × Nat × Nat) :=
  ((List.range (fieldAt bs 0x18 4)).zip h.groups).map fun x =>
    let e := s.heldBytes h (fieldAt bs 0x40 8 + 32 * x.1) 32
    (x.2, fieldAt e 16 2, fieldAt e 18 1)
/-- A held slalom grid re-enters on its mapped cores, once they are free. -/
def State.readmitGrid (s : State) (h : HeldUnit) (n : Nat) (gr : Grid) (x : SlalomSt) : Option State :=
  let bs := s.heldBytes h 0 0x100
  let es := s.coreTable h bs
  let cores := es.map fun e => mapCore h.map e.core
  if !cores.all (fun c => s.coreFree c && !s.claimedBefore x.accepted c) then none
  else
    let nseg := x.segs.length
    let segs := (List.range nseg).map fun k =>
      let y := segOfBytes (s.heldBytes h (fieldAt bs 0x38 8 + 64 * k) 64)
      { y with cores := y.cores.map (mapCore h.map) }
    let spill := fieldAt bs 0x10 8
    let olds := (x.cmap.map fun p => p.1) ++ es.map fun e => e.core
    let x' : SlalomSt := { x with
      cores := cores, segs := segs, mapGen := x.mapGen + 1, spill := if spill = 0 then none else some (spill % 2 ^ 32)
      spillFwd := [], launchNext := fieldAt bs 0x20 8, started := true
      cmap := olds.eraseDups.map fun c => (c, mapCore h.map (mapCore x.cmap c)) }
    let dir := s.gridDir h bs
    let gs := dir.map fun d => (d, s.heldGroupBytes h d.1)
    let parts := (0, 0x100) :: (fieldAt bs 0x30 8, 32 * es.length) :: (fieldAt bs 0x38 8, 64 * nseg)
      :: (fieldAt bs 0x40 8, 32 * dir.length)
      :: es.flatMap fun e => (e.scr, 2 ^ 17) :: (e.q, 2 ^ 17) :: if e.acc = 0 then [] else [(e.acc, 2 ^ 18)]
    let s := s.heldFetch h parts (dir.map fun d => d.1)
    let s := (s.updGrid n fun y => { y with slalom := some x' }).dropHeld h
    let s := match x'.spill with | some b => s.mapSpilled gr b h.map | none => s
    let s : State := es.foldl (fun (s : State) e => (s.enterCore h n x' h.map e).acquireAction (mapCore h.map e.core) gr.asid) s
    let whither (uid : Nat) : Nat := ((dir.find? fun d => d.1.uid == uid).map fun d => mapCore h.map d.2.1).getD 0
    let s := s.moveReqs h whither (.slalom n)
    some (gs.foldl (fun (s : State) d =>
      let c := gr.cell d.1.1.gid
      let base := { Group.launch d.1.1.uid (.slalom n) 0 0 (launchFrag 0 0) false with
        grid := n, lin := d.1.1.gid, tx := c.1, ty := c.2.1, tz := c.2.2, asid := gr.asid, tenant := gr.tenant
        part := gr.part, prio := gr.obj.prio }
      (s.enterGroup (mapCore h.map d.1.2.1) (d.1.2.2 == 3) (restored base d.1.1 d.2 s.clock s.freeCtr)).used) s)

end Sys2Proof.Machine
end

