-- ==== Sys2Proof/Machine/Launch.lean ====
section
/-! DEFINITION. LAUNCH and RESUME, the admission of teams and slalom grids, and the re-entry of captured units
(R47, R48, R140-R142, R393, R395, R412, R424, R425, R448, R450). -/
namespace Sys2Proof.Machine

/-! ## Checks of a slalom launch (R393, R397, R398, R412) -/

/-- The code object's segment table as entries. -/
def segTable (bs : List Byte) (n : Nat) : List (List Byte) := (List.range n).map fun k => (bs.drop (64 * k)).take 64
/-- Does a segment-table entry keep R397 and R398? A count of cores above 8 breaks its range first (log 29). -/
def segEntryOk (o : CodeObj) (bs : List Byte) : Bool :=
  let y := segOfBytes bs
  let n := fieldAt bs 0x0C 1
  y.off % 8 == 0 && y.len % 8 == 0 && 8 ≤ y.len && y.len ≤ 0x40000 && 1 ≤ n && n ≤ 8 && fieldAt bs 0x0D 3 == 0
  && ((List.range 8).all fun k => k < n || fieldAt bs (0x10 + 2 * k) 2 == 0xFFFF) && fieldAt bs 0x30 16 == 0
  && o.textOff ≤ y.off && y.off + y.len ≤ o.textOff + o.textSize && liveOk y.live (8 * o.vbudget)
/-- Do the code ranges of two segments overlap? -/
def segsMeet : List Segment → Bool
  | [] => false
  | y :: r => (r.any fun z => y.off < z.off + z.len && z.off < y.off + y.len) || segsMeet r
/-- The LAUNCH_FORMAT conditions of R393. -/
def segFormatOk (o : CodeObj) (es : List (List Byte)) : Bool :=
  let ys := es.map segOfBytes
  es.all (segEntryOk o) && !segsMeet ys && ys.any fun y => y.off ≤ o.entry && o.entry < y.off + y.len
/-- Does a store-space offset lie in a page of the tenant's pinned scratch, of a layer that is on? -/
def State.pinnedPage (s : State) (t o : Nat) : Bool :=
  (match s.extentOf t o with | some (x, _) => x.kind == 2 | none => false)
  && (match s.resolve t o with | .at _ => true | _ => false)
/-- A spill ring of the form that R412 asks for, wholly in pinned scratch. -/
def State.spillOk (s : State) (t : Nat) (p : W64) : Bool :=
  if p = 0 then true
  else
    match storeBody p with
    | none => false
    | some o =>
      let rd (i n : Nat) : Nat := leNat ((List.range n).map fun k =>
        match s.resolve t (o + i + k) with | .at a => s.readHome a | _ => 0)
      let n := rd 0 4
      o % 64 == 0 && s.pinnedPage t o && 1 ≤ n && n ≤ 65536
      && (List.range ((o % 4096 + 0x40 + 0x4000 * n + 4095) / 4096)).all (fun k => s.pinnedPage t (o + 4096 * k))
      && rd 4 4 == 0 && rd 8 4 == 1 && rd 12 52 == 0 && (List.range n).all fun j => rd (spillSlot j + 0x2C) 4 == 0
/-- The LAUNCH_SHAPE conditions of R393 that need no core map: a map uses no core twice. -/
def segCountOk (o : CodeObj) (es : List (List Byte)) (segs : List Segment) : Bool :=
  let cores := segs.flatMap fun y => y.cores
  cores.eraseDups.length == cores.length && (es.all fun e => fieldAt e 0x0C 1 ≤ 8) && o.vbudget ≤ 128
/-- The LAUNCH_SHAPE conditions of R393, for segments whose cores are mapped. -/
def State.segShapeOk (s : State) (t part : Nat) (o : CodeObj) (es : List (List Byte)) (segs : List Segment) (aux : W64) :
    Bool :=
  segCountOk o es segs && (segs.all fun y => y.cores.all fun c => (s.partCores part).contains c) && s.spillOk t aux

/-! ## Core maps (R424, R425) -/

/-- MAGIC, COUNT and the reserved bytes of a core map (R425). -/
def mapHeadOk (bs : List Byte) : Bool :=
  fieldAt bs 0 4 == 0x4D435847 && 1 ≤ fieldAt bs 4 2 && fieldAt bs 4 2 ≤ 192 && fieldAt bs 6 10 == 0
/-- The entries of a core map of the right form; none where its form is wrong. -/
def mapEntries (bs : List Byte) : Option (List (Nat × Nat)) :=
  let es := (List.range (fieldAt bs 4 2)).map fun k => fieldAt bs (0x10 + 4 * k) 4
  if mapHeadOk bs && es.all (fun e => e < 2 ^ 16) then
    some (es.map fun e => (e % 256, e / 256))
  else none
/-- Is a core map accepted for the cores that a grid holds, in a partition (R424, R425)? -/
def State.mapOk (s : State) (part : Nat) (olds : List Nat) (m : List (Nat × Nat)) : Bool :=
  let news := olds.map (mapCore m)
  (m.map fun p => p.1).eraseDups.length == m.length && (m.all fun p => olds.contains p.1)
  && news.eraseDups.length == news.length
  && (news.all fun c => (s.partCores part).contains c && s.coreFree c)
  && (olds.all fun c => c % 4 == mapCore m c % 4)
  && olds.all fun a => olds.all fun b => a / 4 != b / 4 || mapCore m a / 4 == mapCore m b / 4

/-! ## LAUNCH (R448) -/

/-- Is a partition one that a tenant may launch into (R435, R439, R446, R479)? -/
def State.partLaunch (s : State) (p t : Nat) : Bool :=
  let x := s.partn p
  x.valid && x.tenant == t && !x.halted && !(s.partCores p).isEmpty && s.fe.saveBase != 0
/-- The extents of a packet's SHAPE. -/
def Packet.shape (p : Packet) : Nat × Nat × Nat := (p.field 0x20 2, p.field 0x22 2, p.field 0x24 2)
/-- PART of a LAUNCH. -/
def Packet.part (p : Packet) : Nat := p.field 0x26 1
/-- A grid that a LAUNCH makes. -/
def newGrid (p : Packet) (o : CodeObj) (args : List W32) (base : Option Nat) (sl : Option SlalomSt) : Grid :=
  { gridid := p.tag, tenant := p.tenant, asid := p.asid, part := p.part, cls := p.cls
    code := BitVec.ofNat 64 (p.field 0x10 8), obj := o, sx := p.shape.1, sy := p.shape.2.1, sz := p.shape.2.2, args := args
    hvec := BitVec.ofNat 64 (p.field 0x30 8), place := base, order := p.taken, nextTeam := 0, live := 0, killed := 0
    slalom := sl }
/-- The grid joins its partition's admission list; its packet waits for its end. -/
def State.acceptGrid (s : State) (p : Packet) (g : Grid) : State :=
  let n := s.nextUid
  ({ s with grids := Tab.put s.grids n g, nextUid := n + 1 } : State).updPacket p.queue p.index fun x => { x with grid := some n }
/-- The launch arguments: eight words at ARGS; free where the packet names none. -/
def State.launchArgs (s : State) (p : Packet) : State × Except Unit (List W32) :=
  let a := p.field 0x18 8
  if a = 0 then (s.used, .ok ((List.range 8).map fun k => Config.freeWord s.freeCtr k))
  else
    match s.readFe p.tenant p.asid [0] (BitVec.ofNat 64 a) 32 with
    | (s, .error _) => (s, .error ())
    | (s, .ok bs) => (s, .ok ((List.range 8).map fun k => BitVec.ofNat 32 (fieldAt bs (4 * k) 4)))

/-- A LAUNCH of team code, its object checked: partition, then the cores of PLACE (R446, R448). -/
def launchTeams (s : State) (p : Packet) (o : CodeObj) (args : List W32) : State :=
  let base := p.field 0x38 8
  let total := p.shape.1 * p.shape.2.1 * p.shape.2.2
  if !s.partLaunch p.part p.tenant then s.failPacket p 3 4
  else if p.place then
    let cores := s.partCores p.part
    if 192 < total ∨ ((List.range total).all fun k => cores.contains (base + k)) = false then s.failPacket p 3 5
    else s.acceptGrid p (newGrid p o args (some base) none)
  else s.acceptGrid p (newGrid p o args none none)

/-- The core map of a LAUNCH: none named, of the wrong form, or its entries. -/
inductive MapArg where
  | absent
  | bad
  | entries (m : List (Nat × Nat))
deriving DecidableEq, Repr
/-- The core map that a packet names, as it was read at take. -/
def Packet.mapArg (p : Packet) : MapArg :=
  if p.field 0x38 8 = 0 then .absent
  else
    match p.map with
    | none => .bad
    | some bs => (match mapEntries bs with | some m => .entries m | none => .bad)
/-- The entries of a core map; none stands for each core to itself. -/
def MapArg.list (m : MapArg) : List (Nat × Nat) := match m with | .entries l => l | _ => []
/-- Is a packet's core map accepted for some cores? -/
def State.mapArgOk (s : State) (part : Nat) (olds : List Nat) (m : MapArg) : Bool :=
  match m with
  | .absent => true
  | .bad => false
  | .entries l => s.mapOk part olds l

/-- A LAUNCH of slalom code, its form checked (R393): text, core map, shape, partition. DESIGN CHOICE (log 38): a text that
cannot be read completes the packet with STATUS 2 before the conditions of LAUNCH_SHAPE are looked at. -/
def launchSlalom (s : State) (p : Packet) (o : CodeObj) (args : List W32) (es : List (List Byte)) : State :=
  match s.readFe p.tenant p.asid [0] (BitVec.ofNat 64 (p.field 0x10 8 + o.textOff)) o.textSize with
  | (s, .error _) => s.failPacket p 2 0
  | (s, .ok text) =>
    let aux := BitVec.ofNat 64 (p.field 0x28 8)
    if p.field 0x38 8 ≠ 0 ∧ p.map = none then s.failPacket p 2 0
    else
      let olds := ((es.map segOfBytes).flatMap fun y => y.cores).eraseDups
      if !s.mapArgOk p.part olds p.mapArg then s.failPacket p 3 7
      else
        let segs := es.map fun e =>
          let y := segOfBytes e
          { y with cores := y.cores.map (mapCore p.mapArg.list) }
        if !s.segShapeOk p.tenant p.part o es segs aux then s.failPacket p 3 3
        else if !s.partLaunch p.part p.tenant then s.failPacket p 3 4
        else
          let x : SlalomSt :=
            { cores := segs.flatMap fun y => y.cores, segs := segs, mapGen := 0, spill := storeBody aux, spillFwd := []
              cmap := [], launchNext := 0
              code := Memory.writeN [] o.textOff text, lost := false, started := false, accepted := s.nextUid }
          s.acceptGrid p (newGrid p o args none (some x))

/-- May PLACE stand as it does for the kind of the code object (R444, R446): a core map for slalom code, a base core for
other code? An object that cannot be read is refused later. -/
def State.placeOk (s : State) (p : Packet) : Bool :=
  match (s.readFe p.tenant p.asid [0] (BitVec.ofNat 64 (p.field 0x10 8)) 256).2 with
  | .error _ => true
  | .ok bs => if (objOf bs).kind = 2 then !p.place else p.place || p.field 0x38 8 == 0
/-- What the launch checks under step 1 of R92 beyond the header: that the names of the roles end within the data section
(R91), and the conditions of R393 on the segment table, whose entries it answers. -/
def State.launchForm (s : State) (p : Packet) (bs : List Byte) : State × Except (Nat × Nat) (List (List Byte)) :=
  let o := objOf bs
  let code := p.field 0x10 8
  if o.kind = 0 then
    let ns := objNames bs
    match s.namesOk p.tenant p.asid code ns.2 ns.1 with
    | (s, .error _) => (s, .error (2, 0))
    | (s, .ok ok) => (s, if ok then .ok [] else .error (3, 1))
  else
    match s.readFe p.tenant p.asid [0] (BitVec.ofNat 64 (code + o.segTab)) (64 * o.segCount) with
    | (s, .error _) => (s, .error (2, 0))
    | (s, .ok tab) =>
      let es := segTable tab o.segCount
      (s, if segFormatOk o es then .ok es else .error (3, 1))

/-- A LAUNCH without RESUME begins (R448). DESIGN CHOICE (log 38): task code, which R448 answers with DETAIL 1, is refused
with the other conditions of step 1 of R92. -/
def launchRun (s : State) (p : Packet) : State :=
  if !s.placeOk p then s.failPacket p 1 0
  else if p.tag = 0xFFFFFFFF ∨ (s.grids.any fun g => g.2.gridid == p.tag && g.2.tenant == p.tenant) = true then
    s.failPacket p 3 6
  else
    match s.readFe p.tenant p.asid [0] (BitVec.ofNat 64 (p.field 0x10 8)) 256 with
    | (s, .error _) => s.failPacket p 2 0
    | (s, .ok bs) =>
      if !objFormatOk (objOf bs) (objExtra bs) || (objOf bs).kind == 1 then s.failPacket p 3 1
      else
        match s.launchForm p bs with
        | (s, .error e) => s.failPacket p e.1 e.2
        | (s, .ok es) =>
          match checkObj bs with
          | .error d => s.failPacket p 3 d
          | .ok o =>
            match s.launchArgs p with
            | (s, .error _) => s.failPacket p 2 0
            | (s, .ok args) => if o.kind = 0 then launchTeams s p o args else launchSlalom s p o args es
/-- LAUNCH. -/
def execLaunch (q k : Nat) (s : State) : Host.Outcome State Fault Refusal :=
  .next (s.orWait (onPacket s q k 1 fun s' p => if p.resume then s else launchRun s' p))

/-! ## RESUME (R450) -/

/-- The units that a PREEMPT at an IMAGE address parked. -/
def State.parked (s : State) (t first : Nat) (mine : HeldUnit → Bool) : List HeldUnit :=
  s.held.filter fun h => h.tenant == t && h.first == first && !h.ready && mine h
/-- Is an image's MAGIC and VERSION as they were written? -/
def State.imageOk (s : State) (magic : Nat) (h : HeldUnit) : Bool :=
  let bs := s.heldBytes h 0 6
  fieldAt bs 0 4 == magic && fieldAt bs 4 2 == 0x0100
/-- Held units may re-enter. -/
def State.readyHeld (s : State) (hs : List HeldUnit) (f : HeldUnit → HeldUnit) : State :=
  { s with held := s.held.map fun h => if hs.contains h then f { h with ready := true } else h }
/-- A RESUME of task groups (R450). -/
def resumeTasks (s : State) (p : Packet) : State :=
  let hs := s.parked p.tenant (p.field 0x28 8) fun h => h.grid.isNone
  if !s.partLaunch p.part p.tenant then s.failPacket p 3 4
  else if hs = [] ∨ (hs.all (s.imageOk 0x43545847)) = false then s.failPacket p 3 7
  else s.readyHeld hs fun h => { h with packet := some (p.queue, p.index) }
/-- A RESUME of a grid's units, its object checked: image, then core map (R424, R450). -/
def resumeGrid (s : State) (p : Packet) (n : Nat) (g : Grid) : State :=
  let hs := s.parked p.tenant (p.field 0x28 8) fun h => h.grid == some n
  let magic := if g.slalom.isSome then 0x4C535847 else 0x43545847
  if hs = [] ∨ (hs.all (s.imageOk magic)) = false ∨ g.code.toNat ≠ p.field 0x10 8 then s.failPacket p 3 7
  else
    match g.slalom with
    | none =>
      (s.readyHeld hs fun h => { h with part := p.part }).updPacket p.queue p.index fun x => { x with grid := some n }
    | some x =>
      let olds := hs.flatMap fun h => (s.coreTable h (s.heldBytes h 0 0x100)).map fun e => e.core
      if p.field 0x38 8 ≠ 0 ∧ p.map = none then s.failPacket p 2 0
      else if x.lost || !s.mapArgOk p.part olds p.mapArg then s.failPacket p 3 7
      else
        let m := p.mapArg.list
        let s := s.readyHeld hs fun h => { h with part := p.part, map := m }
        let s := s.updGrid n fun y =>
          { y with part := p.part, slalom := some { x with cores := olds.map (mapCore m), accepted := s.nextUid } }
        s.fresh.updPacket p.queue p.index fun x => { x with grid := some n }
/-- A LAUNCH with RESUME begins (R448, R450): its object passes the checks of a launch that do not look at its cores. -/
def resumeRun (s : State) (p : Packet) : State :=
  if p.tag = 0xFFFFFFFF then resumeTasks s p
  else if !s.placeOk p then s.failPacket p 1 0
  else
    match s.readFe p.tenant p.asid [0] (BitVec.ofNat 64 (p.field 0x10 8)) 256 with
    | (s, .error _) => s.failPacket p 2 0
    | (s, .ok bs) =>
      if !objFormatOk (objOf bs) (objExtra bs) || (objOf bs).kind == 1 then s.failPacket p 3 1
      else
        match s.launchForm p bs with
        | (s, .error e) => s.failPacket p e.1 e.2
        | (s, .ok es) =>
          match checkObj bs with
          | .error d => s.failPacket p 3 d
          | .ok o =>
            if o.kind = 2 ∧ segCountOk o es (es.map segOfBytes) = false then s.failPacket p 3 3
            else if !s.partLaunch p.part p.tenant then s.failPacket p 3 4
            else
              match s.grids.find? fun g => g.2.gridid == p.tag && g.2.tenant == p.tenant with
              | none => s.failPacket p 3 7
              | some g => resumeGrid s p g.1 g.2
/-- RESUME. -/
def execResume (q k : Nat) (s : State) : Host.Outcome State Fault Refusal :=
  .next (s.orWait (onPacket s q k 1 fun s' p => if p.resume then resumeRun s' p else s))

/-! ## Admission (R29, R47, R48, R140-R142, R448) -/

/-- Group-registers of a team's groups, in units of 8. -/
def CodeObj.teamRegs (o : CodeObj) : Nat := (o.roles.map fun r => r.1 * r.2).sum
/-- Groups of a team. -/
def CodeObj.teamGroups (o : CodeObj) : Nat := (o.roles.map fun r => r.1).sum
/-- The role of each group of a team, in role order (R25): role and budget in units of 8. -/
def CodeObj.groupRoles (o : CodeObj) : List (Nat × Nat) :=
  ((List.range o.roles.length).zip o.roles).flatMap fun x => List.replicate x.2.1 (x.1, x.2.2)
/-- The bytes of a team's allocation (R140). -/
def CodeObj.allocation (o : CodeObj) : Nat := roundUp o.scratch 4096
/-- The bases at which an allocation fits on a core. -/
def State.freeBases (s : State) (core size : Nat) : List Nat :=
  ((List.range 64).map fun k => 4096 * k).filter fun b => s.pagesFree core b size
/-- Does a new team fit on a core (R29)? New work keeps off a core that a group waits to return to (R108), and off
cores of a slalom grid (R393). -/
def State.teamFits (s : State) (o : CodeObj) (core : Nat) : Bool :=
  !s.slalomHeld core && !s.heldForReturn core && (s.core core).leap.isNone && o.teamGroups ≤ s.freeSlots core
  && 8 * o.teamRegs ≤ s.freeRegs core && (s.freeTeam core).isSome && s.freeBases core o.allocation != []
/-- A new team's context. -/
def Grid.newTeam (gr : Grid) (n base : Nat) : Team :=
  let o := gr.obj
  let c := gr.cell gr.nextTeam
  let gd := o.guards o.allocation
  { grid := n, linear := gr.nextTeam, tx := c.1, ty := c.2.1, tz := c.2.2, tenant := gr.tenant, asid := gr.asid
    part := gr.part, prio := o.prio, codeObj := gr.code, groups := o.teamGroups, live := o.teamGroups, reserve := 0
    base := base, size := o.allocation, guardFront := gd.1, guardBack := gd.2
    ring := if o.hasRing then
        some { off := o.ringOff, entries := o.ringEntries, cons := 0, erridx := 0, prod := 0, bad := false
               touched := false }
      else none
    ctable := if o.hasTable then some o.ctableOff else none, barriers := [], usedMatrix := false, copyErr := none
    begun := false }
/-- A new team's group `k`, of a role, on a core (R142, R448). -/
def Grid.newGroup (gr : Grid) (uid n tk core k base now : Nat) (role : Nat × Nat) : Group :=
  let c := gr.cell gr.nextTeam
  let g := Group.launch uid (.team tk) (8 * role.2) gr.hvec (launchFrag (gr.code.toNat + gr.obj.entry) now) true
  let args := ((List.range gr.obj.nargs).zip gr.args).map fun x => (x.1, x.2)
  let ptrs := wordsOf 8 (3 * 2 ^ 60 + base) 2 ++ wordsOf 10 (4 * 2 ^ 60 + core % 4 * 2 ^ 18 + base) 2
  { g with grid := n, role := role.1, gnum := k, lin := gr.nextTeam, tx := c.1, ty := c.2.1, tz := c.2.2, asid := gr.asid
           tenant := gr.tenant, part := gr.part, prio := gr.obj.prio, regs := writeSs g.regs (args ++ ptrs) }
/-- The groups of a new team take slots of its core. -/
def State.newGroups (s : State) (gr : Grid) (n tk core base : Nat) : State :=
  ((List.range gr.obj.teamGroups).zip gr.obj.groupRoles).foldl (fun (s : State) x =>
    match s.freeSlot core with
    | some gk => (s.setGroup gk (gr.newGroup s.nextUid n tk core x.1 base s.clock x.2)).fresh
    | none => s) s
/-- The next team of a grid is admitted to a core (R29, R140). Its scratchpad is zero. -/
def State.admitTeam (s : State) (n : Nat) (gr : Grid) (core tk : Nat) : State :=
  let bases := s.freeBases core gr.obj.allocation
  let base := bases.getD (Config.freeIndex s.freeCtr % bases.length) 0
  let t := gr.newTeam n base
  let s := (s.used.acquireAction core gr.asid).loadScratch (teamKey tk t) t.size []
  let s : State := { s with teams := Tab.put s.teams tk t }
  (s.newGroups gr n tk core base).updGrid n fun g => { g with nextTeam := g.nextTeam + 1, live := g.live + 1 }
/-- The core for a grid's next new team (R448). -/
def State.teamCore (s : State) (gr : Grid) : Option Nat :=
  match gr.place with
  | some b => if s.teamFits gr.obj (b + gr.nextTeam) then some (b + gr.nextTeam) else none
  | none => s.leastCore (s.partCores gr.part) (s.teamFits gr.obj)
/-- The linear IDs of a grid's teams that a PREEMPT with REQUEUE is capturing (R48, R449). -/
def State.requeued (s : State) (n : Nat) : List Nat :=
  s.captures.filterMap fun c =>
    match c.unit with
    | .team tk => if c.park then none else (s.team tk).bind fun t => if t.grid = n then some t.linear else none
    | _ => none
/-- The captured team that re-enters first: the least linear ID among those ready (R48). DESIGN CHOICE (log 38): a parked
team, which has no RESUME yet, holds back no team of its grid that has not been dispatched. -/
def State.firstHeld (s : State) (n : Nat) : Option HeldUnit :=
  (s.held.filter fun h => h.grid == some n && h.ready).foldl (fun (best : Option HeldUnit) h =>
    match best with
    | none => some h
    | some b => if h.unit < b.unit then some h else some b) none
/-- A slalom grid is admitted (R393-R395): each core gets its segment, zeroed pages, an empty queue and the array. -/
def State.admitSlalom (s : State) (n : Nat) (x : SlalomSt) : State :=
  let map := x.segs.map fun y => y.cores
  let s : State := ((List.range x.segs.length).zip x.segs).foldl (fun (s : State) y =>
    y.2.cores.foldl (fun (s : State) c =>
      let l : LeapSt := { LeapSt.empty n with seg := some y.1, store := x.segBytes y.1, map := map }
      let s := (s.updCore c fun z => { z with leap := some l }).cleanStore c
      (s.loadScratch (scratchKey (c / 4) (c % 4 * 2 ^ 18)) (2 ^ 18) []).updArray c fun a => a.claim (.slalom n) false) s) s
  s.updGrid n fun g => { g with slalom := g.slalom.map fun z => { z with started := true } }
/-- The next unit of a grid is admitted into a partition; none where it does not fit, or there is none. A team that is
being captured to re-enter comes before those above it (R48). -/
def State.admitNext (s : State) (part n : Nat) (gr : Grid) : Option State :=
  match s.firstHeld n with
  | some h =>
    if h.part ≠ part || (s.requeued n).any fun k => k < h.unit then none
    else
      match gr.slalom with
      | some x => s.readmitGrid h n gr x
      | none => s.readmitTeam h n { gr with part := part }
  | none =>
    if gr.part ≠ part then none
    else
      match gr.slalom with
      | some x =>
          if x.started || (s.held.any fun h => h.grid == some n)
              || !x.cores.all (fun c => s.coreFree c && !s.claimedBefore x.accepted c) then none
          else some (s.admitSlalom n x)
      | none =>
        if gr.total ≤ gr.nextTeam || s.requeued n != [] then none
        else
          match s.teamCore gr with
          | none => none
          | some core => (s.freeTeam core).map fun tk => s.admitTeam n gr core tk
/-- Does a grid stand before another in an admission list: higher class first, then earlier packets? -/
def Grid.before (a b : Grid) : Bool := b.cls < a.cls || (a.cls == b.cls && a.order < b.order)
/-- Put a grid into its place. -/
def insertGrid (x : Nat × Grid) : List (Nat × Grid) → List (Nat × Grid)
  | [] => [x]
  | y :: r => if x.2.before y.2 then x :: y :: r else y :: insertGrid x r
/-- TEAM_ADMIT (R448): the first grid of the list whose next team fits admits it. -/
def teamAdmit (s : State) (part : Nat) : State :=
  let list := s.grids.foldl (fun l x => insertGrid x l) []
  ((list.findSome? fun x => s.admitNext part x.1 x.2)).getD s
/-- TEAM_ADMIT (R155: its pages change owner). -/
def execTeamAdmit (part : Nat) (s : State) : Host.Outcome State Fault Refusal := .next (s.orWait (s.ownersFrom (teamAdmit s part)))

end Sys2Proof.Machine
end

