-- ==== Sys2Proof/Machine/Host.lean ====
section
/-! DEFINITION. Host queues, the taking of packets, and the packets that are not launches or pre-emptions
(R442-R447). -/
namespace Sys2Proof.Machine

/-! ## Host queues (R442) -/

/-- RING of a QCFG block. -/
def HostQ.ring (h : HostQ) : Nat := bits h.cfg 63 0
/-- ENTRIES. -/
def HostQ.entries (h : HostQ) : Nat := bits h.cfg 95 64
/-- ASID. -/
def HostQ.asid (h : HostQ) : Nat := bits h.cfg 111 96
/-- TENANT. -/
def HostQ.tenant (h : HostQ) : Nat := bits h.cfg 119 112
/-- CLASS. -/
def HostQ.cls (h : HostQ) : Nat := bits h.cfg 121 120
/-- PRIV. -/
def HostQ.priv (h : HostQ) : Bool := h.cfg.getLsbD 122
/-- VALID. -/
def HostQ.valid (h : HostQ) : Bool := h.cfg.getLsbD 123
/-- Is a number a power of two within bounds? -/
def powerIn (n lo hi : Nat) : Bool := lo ≤ n && n ≤ hi && n == 2 ^ Nat.log2 n
/-- Does a block that sets VALID keep the table of R442, with a ring in HBM wholly in it (R33)? -/
def State.qcfgOk (s : State) (h : HostQ) : Bool :=
  let t := s.tenant h.tenant
  h.ring % 64 == 0 && powerIn h.entries 16 65536
  && (h.ring / 2 ^ 63 == 0 || h.ring % 2 ^ 63 + 64 * h.entries ≤ 2 ^ 40)
  && h.tenant < 64 && t.bound && tcfgAsid t.tcfg ≤ h.asid && h.asid < tcfgAsid t.tcfg + tcfgAsids t.tcfg
/-- A QCFG write (R442); what it writes to reserved fields is ignored (R8). One that breaks the table while it sets VALID
is discarded (log 20). -/
def State.qcfg (s : State) (n : Nat) (v : BitVec 256) : State :=
  let v := v &&& BitVec.ofNat 256 (2 ^ 124 - 1)
  let old := s.hostq n
  let new : HostQ := { old with cfg := v }
  if 4096 ≤ n ∨ (new.valid && !s.qcfgOk new) = true then s
  else
    { s with hostqs := Tab.put s.hostqs n (if new.valid && !old.valid then { new with head := 0, tail := 0 } else new) }
/-- QCFG_WRITE. -/
def execQcfgWrite (m n : Nat) (val : BitVec 256) (s : State) : Host.Outcome State Fault Refusal :=
  .next (s.asOwner m fun s => s.qcfg n val)
/-- A doorbell write (R442). -/
def State.doorbell (s : State) (q : Nat) (v : W32) : State :=
  let h := s.hostq q
  if s.recovering || !h.valid || decide (h.entries < (v.toNat + 2 ^ 32 - h.head) % 2 ^ 32) then s
  else { s with hostqs := Tab.put s.hostqs q { h with tail := v.toNat } }
/-- QTAIL. -/
def execQtail (q : Nat) (val : W32) (s : State) : Host.Outcome State Fault Refusal := .next (s.doorbell q val)

/-! ## Memory as the front end uses it -/

/-- The front end reads home addresses, for a packet that may have read others before: a byte of a word with an
uncorrectable error is free (log 12). -/
def State.frontRead (s : State) (t : Nat) (as : List Nat) (before : List Nat := []) : State × List Byte :=
  let s := s.engineReadsMore t as before
  (s.used, ((List.range as.length).zip as).map fun x => if s.errAt x.2 then Config.freeByte s.freeCtr x.1 else s.readHome x.2)
/-- The home addresses of `n` bytes from a physical address, or an address of the host's bus (R442, R458). -/
def busAddrs (ring n : Nat) : List Nat :=
  (List.range n).map fun i =>
    if ring / 2 ^ 63 = 1 then ring % 2 ^ 63 + i else 2 ^ 50 + (ring + i) % 2 ^ 50

/-! ## Well-formed packets (R444, R446) -/

/-- Are the bytes of a packet from an offset zero? -/
def Packet.zeroFrom (p : Packet) (off : Nat) : Bool := (p.bytes.drop off).all fun b => b == 0
/-- A pointer of tag 0000 or 0001, aligned. -/
def tagLocal (p n : Nat) : Bool := p / 2 ^ 60 ≤ 1 && p % n == 0
/-- The common header. -/
def Packet.headOk (p : Packet) : Bool := p.field 1 1 ≤ 1 && p.field 2 2 == 0 && tagAligned p.cpl 8
/-- LAUNCH. PLACE is a base core, or the pointer of a core map, which R425 aligns. -/
def Packet.launchOk (p : Packet) : Bool :=
  let code := p.field 0x10 8
  let none := code == 0 && p.field 0x18 8 == 0 && p.field 0x20 6 == 0 && p.field 0x38 8 == 0
  let shape := p.field 0x20 2 * p.field 0x22 2 * p.field 0x24 2
  p.field 0x26 1 ≤ 63 && p.field 0x27 1 ≤ 3
  && (if p.place then p.field 0x38 8 < 2 ^ 16 else tagAligned (p.field 0x38 8) 64)
  && (if p.resume && p.tag == 0xFFFFFFFF then none
      else tagAligned code 256 && tagAligned (p.field 0x18 8) 1 && (p.resume || (1 ≤ shape && shape < 2 ^ 32)))
/-- TASKBIND. -/
def Packet.taskbindOk (p : Packet) : Bool :=
  p.field 0x1F 1 ≤ 1 && p.field 0x1C 2 ≤ 1023 && p.field 0x1E 1 ≤ 63 && p.zeroFrom 0x28
/-- ARM. -/
def Packet.armOk (p : Packet) : Bool := tagAligned (p.field 0x10 8) 64 && p.zeroFrom 0x18
/-- COPY. -/
def Packet.copyOk (p : Packet) : Bool :=
  tagLocal (p.field 0x10 8) 1 && tagLocal (p.field 0x18 8) 1 && 1 ≤ p.field 0x20 8 && p.field 0x20 8 ≤ 2 ^ 32
  && tagLocal (p.field 0x28 8) 8 && p.zeroFrom 0x30
/-- WAIT. -/
def Packet.waitOk (p : Packet) : Bool := tagLocal (p.field 0x10 8) 8 && p.zeroFrom 0x24
/-- SIGNAL. -/
def Packet.signalOk (p : Packet) : Bool :=
  p.field 0x20 2 ≤ 2 && (p.field 0x22 2 ≤ 2047 || p.field 0x22 2 == 0xFFFF)
  && tagLocal (p.field 0x10 8) (if p.field 0x20 2 = 2 then 4 else 8) && p.zeroFrom 0x24
/-- PREEMPT: IMAGE is not checked for DISCARD. -/
def Packet.preemptOk (p : Packet) : Bool :=
  (p.mode == 2 || tagAligned (p.field 0x10 8) 4096) && p.field 0x28 1 ≤ 2 && p.mode ≤ 2 && p.field 0x2A 1 ≤ 63
  && p.zeroFrom 0x2B
/-- Is a packet well formed? -/
def Packet.ok (p : Packet) : Bool :=
  p.headOk
  && (match p.typ with
      | 1 => p.launchOk
      | 2 => p.taskbindOk
      | 3 => p.armOk
      | 4 => p.copyOk
      | 5 => p.waitOk
      | 6 => p.signalOk
      | 7 => p.preemptOk
      | _ => false)

/-! ## Taking packets (R443, R447) -/

/-- May the head packet of a queue be taken? A WAIT in flight holds it, and BARRIER waits for all before it. -/
def State.takeable (s : State) (q : Nat) (h : HostQ) : Bool :=
  let flight := s.packets.filter fun p => p.queue == q
  let flags := s.readHomeNat ((busAddrs (h.ring + 64 * (h.head % h.entries)) 2).getD 1 0) 1
  h.valid && h.head != h.tail && (flight.all fun p => p.typ != 5) && (flags % 2 == 0 || flight == [])
/-- The queue of a class that is served next: rotation by queue number. -/
def State.nextQueue (s : State) (c : Nat) : Option (Nat × HostQ) :=
  let qs := s.hostqs.filter fun x => x.2.cls == c && s.takeable x.1 x.2
  match Tab.find s.fe.lastQueue c with
  | none => qs.head?
  | some l =>
    match qs.find? fun (x : Nat × HostQ) => l < x.1 with
    | some x => some x
    | none => qs.head?
/-- The weight of a class; a written 0 is taken as 1 (R433). -/
def State.weight (s : State) (c : Nat) : Nat := max 1 (bits s.fe.qWeight (8 * c + 7) (8 * c))
/-- The next queue to serve, with its class and what the class has used of its round. -/
def State.nextTake (s : State) : Option (Nat × Nat × Nat × HostQ) :=
  let c := s.fe.roundClass
  ([(c, s.fe.roundUsed), ((c + 3) % 4, 0), ((c + 2) % 4, 0), ((c + 1) % 4, 0), (c, 0)]).findSome?
    fun (v : Nat × Nat) => if v.2 < s.weight v.1 then (s.nextQueue v.1).map fun x => (v.1, v.2, x) else none
/-- The bytes of the core map that a LAUNCH names (R425); none where they cannot be read. A head that the map is refused
for is read alone. -/
def State.mapBytes (s : State) (p : Packet) : State × Option (List Byte) :=
  let a := p.field 0x38 8
  if p.typ ≠ 1 ∨ p.place ∨ a = 0 then (s, none)
  else
    match s.readFe p.tenant p.asid [0] (BitVec.ofNat 64 a) 16 with
    | (s, .error _) => (s, none)
    | (s, .ok h) =>
      if !mapHeadOk h then (s, some h)
      else
      match s.readFe p.tenant p.asid [0] (BitVec.ofNat 64 a) (16 + 4 * fieldAt h 4 2) with
      | (s, .error _) => (s, none)
      | (s, .ok bs) => (s, some bs)
/-- A packet is taken: QHEAD moves past it; a malformed one completes. -/
def State.take (s : State) (q : Nat) (h : HostQ) : State :=
  let r := s.frontRead h.tenant (busAddrs (h.ring + 64 * (h.head % h.entries)) 64)
  let s := r.1
  let p : Packet :=
    { queue := q, index := h.head, bytes := r.2, cls := h.cls, asid := h.asid, tenant := h.tenant, priv := h.priv
      taken := s.nextUid, begun := false, value := 0, pending := 0 }
  let s := { s.fresh with hostqs := Tab.put s.hostqs q { h with head := (h.head + 1) % 2 ^ 32 } }
  if !p.ok then s.failPacket p 1 0
  else
    let m := s.mapBytes p
    { m.1 with packets := m.1.packets ++ [{ p with map := m.2 }] }
/-- One cycle of the front end takes at most one packet. -/
def packetTake (s : State) : State :=
  if s.recovering then s
  else
    match s.nextTake with
    | none => s
    | some (c, used, q, h) =>
      (s.updFe fun f => { f with roundClass := c, roundUsed := used + 1, lastQueue := Tab.put f.lastQueue c q }).take q h
/-- PACKET_TAKE. -/
def execPacketTake (s : State) : Host.Outcome State Fault Refusal := .next (s.orWait (packetTake s))

/-! ## TASKBIND (R380, R446, R447) -/

/-- Does a trigger entry still target a task queue? -/
def State.targeted (s : State) (q : Nat) : Bool :=
  s.trigs.any fun e => (e.2.state == 1 || e.2.state == 2) && e.2.action == 2 && e.2.queue == q
/-- QUEUE. -/
def Packet.taskQueue (p : Packet) : Nat := p.field 0x1C 2
/-- Is a TASKBIND packet an unbinding? -/
def Packet.unbinds (p : Packet) : Bool := p.field 0x1F 1 == 1
/-- Binding a queue. -/
def bindRun (s : State) (p : Packet) : State :=
  let tq := s.taskq p.taskQueue
  let part := p.field 0x1E 1
  let x := s.partn part
  if tq.bound && (tq.tenant != p.tenant || tq.recs != []) then s.failPacket p 3 1
  else if !x.valid || x.tenant != p.tenant then s.failPacket p 3 2
  else if !tagAligned (p.field 0x10 8) 4096 || !powerIn (p.field 0x18 4) 16 65536 then s.failPacket p 3 3
  else
    (s.updTaskq p.taskQueue fun _ =>
      { bound := true, tenant := p.tenant, asid := p.asid, part := part, ring := BitVec.ofNat 64 (p.field 0x10 8)
        slots := p.field 0x18 4, hvec := BitVec.ofNat 64 (p.field 0x20 8), tail := 0, recs := [] }).completePacket p 0 0 p.tag
/-- Unbinding a queue. -/
def unbindRun (s : State) (p : Packet) : State :=
  let q := p.taskQueue
  let tq := s.taskq q
  if tq.bound && (tq.tenant != p.tenant || tq.recs != [] || s.targeted q) then s.failPacket p 3 1
  else (s.updTaskq q fun _ => TaskQ.unbound).completePacket p 0 0 p.tag
/-- TASKBIND, OP 0. -/
def execTaskbind (q k : Nat) (s : State) : Host.Outcome State Fault Refusal :=
  .next (s.orWait (onPacket s q k 2 fun s' p => if p.unbinds then s else bindRun s' p))
/-- TASKBIND, OP 1. -/
def execTaskbindUnbind (q k : Nat) (s : State) : Host.Outcome State Fault Refusal :=
  .next (s.orWait (onPacket s q k 2 fun s' p => if p.unbinds then unbindRun s' p else s))

/-! ## ARM (R446, R447) -/

/-- An ARM packet: its block, then the arming as ARMAC's. A BARPTR that does not translate is MALFORMED (log 20). -/
def armRun (s : State) (p : Packet) : State :=
  match s.readFe p.tenant p.asid [0] (BitVec.ofNat 64 (p.field 0x10 8)) 128 with
  | (s, .error _) => s.failPacket p 2 0
  | (s, .ok bs) =>
    let b := armBlkOf bs
    let r := s.armLocate (fun s tags need q => s.locateFe p.tenant p.asid tags need q) b
    if r.2.range.isSome then r.1.failPacket p 2 0
    else if r.2.bar.isSome then r.1.failPacket p 3 5
    else
      let x := r.1.armEntry p.tenant b r.2 true .none
      if x.2.1 = 0 then x.1.completePacket p 0 0 x.2.2 else x.1.failPacket p 3 x.2.1
/-- ARM. -/
def execArm (q k : Nat) (s : State) : Host.Outcome State Fault Refusal := .next (s.orWait (onPacket s q k 3 armRun))

/-! ## COPY (R447) -/

/-- Bytes of a COPY. -/
def Packet.copyLen (p : Packet) : Nat := p.field 0x20 8
/-- The counter of a COPY, where it names one, translates. -/
def State.copyCtr (s : State) (p : Packet) : State × Except AccFault (Option Nat) :=
  let c := p.field 0x28 8
  if c = 0 then (s, .ok none)
  else
    match s.locateFe p.tenant p.asid [0, 1] (permR + permW) (BitVec.ofNat 64 c) with
    | (s, .ok a) => (s, .ok (some a))
    | (s, .error f) => (s, .error f)
/-- A COPY begins: its ranges and its counter translate, or it fails. -/
def copyBegin (s : State) (p : Packet) : State :=
  let loc (need : Nat) : Locator := fun s tags _ x => s.locateFe p.tenant p.asid tags need x
  match s.segsBy (loc permR) (BitVec.ofNat 64 (p.field 0x10 8)) p.copyLen with
  | (s, .error _) => s.failPacket p 2 0
  | (s, .ok _) =>
    match s.segsBy (loc permW) (BitVec.ofNat 64 (p.field 0x18 8)) p.copyLen with
    | (s, .error _) => s.failPacket p 2 0
    | (s, .ok _) =>
      match s.copyCtr p with
      | (s, .error _) => s.failPacket p 2 0
      | (s, .ok _) => s
/-- The next bytes of a COPY: up to the next aligned 8-byte unit of the destination. -/
def copyMove (s : State) (p : Packet) : State :=
  let src := p.field 0x10 8 + p.value
  let dst := p.field 0x18 8 + p.value
  let n := min (8 - dst % 8) (p.copyLen - p.value)
  if n = 0 then s
  else
    match s.spanFe p.tenant p.asid [0, 1] permR (BitVec.ofNat 64 src) n with
    | (s, .error _) => s.failPacket p 2 0
    | (s, .ok rd) =>
      match s.spanFe p.tenant p.asid [0, 1] permW (BitVec.ofNat 64 dst) n with
      | (s, .error _) => s.failPacket p 2 0
      | (s, .ok wr) =>
        let r := s.frontRead p.tenant rd (if p.value = 0 ∨ src % 128 = 0 then [] else rd.take 1)
        (r.1.engineWrites p.tenant (wr.zip r.2)).updPacket p.queue p.index fun x =>
          { x with value := x.value + n }
/-- COPY_PACKET: the packet begins, or moves its next bytes. -/
def copyPacket (s : State) (q k : Nat) : State :=
  match s.packet q k with
  | none => s
  | some p => if p.typ = 4 ∧ p.begun then copyMove s p else onPacket s q k 4 copyBegin
/-- COPY_PACKET. -/
def execCopyPacket (q k : Nat) (s : State) : Host.Outcome State Fault Refusal := .next (s.orWait (copyPacket s q k))
/-- COPY_PACKET_DONE: the counter, then the completion word. -/
def copyPacketDone (s : State) (q k : Nat) : State :=
  match s.packet q k with
  | none => s
  | some p =>
    if p.typ ≠ 4 ∨ p.begun = false ∨ p.value ≠ p.copyLen then s
    else
      match s.copyCtr p with
      | (s, .error _) => s.failPacket p 2 0
      | (s, .ok none) => s.completePacket p 0 0 p.tag
      | (s, .ok (some a)) => (s.homeAdd p.tenant a 8 p.copyLen).completePacket p 0 0 p.tag
/-- COPY_PACKET_DONE. -/
def execCopyPacketDone (q k : Nat) (s : State) : Host.Outcome State Fault Refusal := .next (s.orWait (copyPacketDone s q k))

/-! ## WAIT (R447) -/

/-- A WAIT completes if its word has reached VALUE; `value` holds the word's home address. -/
def waitTest (s : State) (p : Packet) : State :=
  let r := s.frontRead p.tenant ((List.range 8).map fun i => p.value + i)
  if p.field 0x18 8 ≤ leNat r.2 then r.1.completePacket p 0 0 p.tag else r.1
/-- A WAIT begins: `pending` holds the time. -/
def waitBegin (s : State) (p : Packet) : State :=
  match s.locateFe p.tenant p.asid [0, 1] permR (BitVec.ofNat 64 (p.field 0x10 8)) with
  | (s, .error _) => s.failPacket p 2 0
  | (s, .ok a) =>
    let p := { p with value := a, pending := s.clock }
    waitTest (s.updPacket p.queue p.index fun _ => p) p
/-- WAIT. -/
def execWait (q k : Nat) (s : State) : Host.Outcome State Fault Refusal := .next (s.orWait (onPacket s q k 5 waitBegin))
/-- A WAIT that has begun. -/
def onWait (s : State) (q k : Nat) (run : State → Packet → State) : State :=
  match s.packet q k with
  | none => s
  | some p => if p.typ = 5 ∧ p.begun then run s p else s
/-- WAIT_SATISFIED. -/
def execWaitSatisfied (q k : Nat) (s : State) : Host.Outcome State Fault Refusal := .next (s.orWait (onWait s q k waitTest))
/-- The limit of a WAIT, in µs; one cycle of the reference clock is 1/2250 of one (R114). -/
def Packet.limit (p : Packet) : Nat := p.field 0x20 4
/-- WAIT_LIMIT. -/
def execWaitLimit (q k : Nat) (s : State) : Host.Outcome State Fault Refusal :=
  .next (s.orWait (onWait s q k fun s p =>
    if p.limit ≠ 0 ∧ p.pending + 2250 * p.limit ≤ s.clock then s.completePacket p 4 0 p.tag else s))

/-! ## SIGNAL (R447) -/

/-- The MSI-X message of a SIGNAL, and its completion. -/
def signalDone (s : State) (p : Packet) : State :=
  let v := p.field 0x22 2
  (if v = 0xFFFF then s else { s with msix := s.msix ++ [v] }).completePacket p 0 0 p.tag
/-- A SIGNAL: its write or add, then its message. -/
def signalRun (s : State) (p : Packet) : State :=
  let a := p.field 0x10 8
  let v := p.field 0x18 8
  let op := p.field 0x20 2
  if a = 0 then signalDone s p
  else
    match s.locateFe p.tenant p.asid [0, 1] (if op = 1 then permR + permW else permW) (BitVec.ofNat 64 a) with
    | (s, .error _) => s.failPacket p 2 0
    | (s, .ok h) =>
      signalDone (if op = 1 then s.homeAdd p.tenant h 8 v
        else s.engineWriteN p.tenant h (leBytes (if op = 2 then 4 else 8) v)) p
/-- SIGNAL. -/
def execSignal (q k : Nat) (s : State) : Host.Outcome State Fault Refusal := .next (s.orWait (onPacket s q k 6 signalRun))

/-! ## Task dispatch (R382, R385) -/

/-- Held task groups whose queue is homed on a die, which may re-enter. -/
def State.heldTasks (s : State) (die : Nat) : List HeldUnit :=
  s.held.filter fun h => h.grid.isNone && h.ready && h.unit / 256 == die
/-- TASK_DISPATCH: a captured task group re-enters, or else at most one head is taken; one that fits nowhere does not
hold back the others. -/
def taskDispatch (s : State) (die : Nat) : State :=
  match (s.heldTasks die).findSome? fun h => s.readmitTask h with
  | some s => s
  | none => ((s.heads die).findSome? fun h => s.dispatchHead h).getD s
/-- TASK_DISPATCH. -/
def execTaskDispatch (die : Nat) (s : State) : Host.Outcome State Fault Refusal := .next (s.orWait (taskDispatch s die))

end Sys2Proof.Machine
end

