-- ==== Sys2Proof/Machine/Tenant.lean ====
section
/-! DEFINITION. Tenants and partitions: TCFG, the partition table, PARTCFG, reservations (R332-R335, R436-R441), and the
extension of measurements (R475). -/
namespace Sys2Proof.Machine

/-! ## Measurements (R475) -/

/-- MEASi. -/
def State.meas (s : State) (i : Nat) : BitVec 512 := Tab.get 0 s.plat.meas i
/-- An extension: SHA-512 of the old value followed by the digest. -/
def State.extend (s : State) (i : Nat) (d : BitVec 512) : State :=
  s.updPlat fun p =>
    { p with meas := Tab.put p.meas i (sha512 (leBytes 64 (Tab.get 0 p.meas i).toNat ++ leBytes 64 d.toNat)) }
/-- MEAS3 takes in an accepted configuration write, by the digest of its new value. -/
def State.measure (s : State) (v : List Byte) : State := s.extend 3 (sha512 v)

/-! ## The partition table (R332, R333) -/

/-- An extent's fields. -/
def extentOfBytes (bs : List Byte) : Extent :=
  let e := leNat bs
  { kind := e % 16, policy := e / 16 % 4, span := e / 2 ^ 9 % 8, first := e / 2 ^ 12 % 256, sbase := e / 2 ^ 20 % 4096
    units := e / 2 ^ 32 % 2 ^ 13, obase := e / 2 ^ 64 % 2 ^ 32 }
/-- The zero bits of an extent. -/
def extentPad (bs : List Byte) : Bool :=
  let e := leNat bs
  e / 2 ^ 6 % 8 == 0 && e / 2 ^ 45 % 2 ^ 19 == 0 && e / 2 ^ 96 == 0
/-- Does an extent name a range of store space? -/
def Extent.addressed (x : Extent) : Bool := x.kind != 1
/-- Bytes of an extent. -/
def State.extentSize (s : State) (x : Extent) : Nat := x.units * (s.liveList x.span x.first).length * 4096
/-- Does one extent keep the tables? -/
def State.extentOk (s : State) (x : Extent) : Bool :=
  (x.kind == 1 || x.kind == 2 || (4 ≤ x.kind && x.kind ≤ 7)) && (4 ≤ x.kind || x.policy == 0)
  && s.spanOk x.span x.first && 1 ≤ x.units && x.units ≤ 4096 && x.obase % 4096 == 0 && (x.addressed || x.obase == 0)
  && x.sbase + x.units ≤ 4096 && x.sbase / 2048 == (x.sbase + x.units - 1) / 2048
  && (!x.addressed || x.obase + s.extentSize x ≤ 2 ^ 32)
/-- Do two extents share a unit of a slice? -/
def State.extentsShare (s : State) (x y : Extent) : Bool :=
  (x.sbase < y.sbase + y.units && y.sbase < x.sbase + x.units)
  && (s.liveList x.span x.first).any fun n => (s.liveList y.span y.first).contains n
/-- Do two extents of one tenant clash: in units, in store space, or as one reserve? -/
def State.extentsClash (s : State) (x y : Extent) : Bool :=
  s.extentsShare x y || (4 ≤ x.kind && x.kind == y.kind)
  || (x.addressed && y.addressed && x.obase < y.obase + s.extentSize y && y.obase < x.obase + s.extentSize x)
/-- No two elements of a list stand in a relation. -/
def noPair (r : Extent → Extent → Bool) : List Extent → Bool
  | [] => true
  | x :: l => (l.all fun y => !r x y) && noPair r l

/-- A partition table: CQUOTA and the extents; none where it breaks a rule. A byte with an uncorrectable error is free (log
12). -/
def State.readTable (s : State) (t ptab : Nat) : Option (Nat × List Extent) :=
  let bs := s.gather ((List.range 144).map fun i => ptab + i)
  let n := fieldAt bs 2 1 % 16
  let es := (List.range 8).map fun k => (bs.drop (16 + 16 * k)).take 16
  let xs := (es.take n).map extentOfBytes
  let others := (s.tenants.filter fun y => y.1 != t && y.2.bound).flatMap fun y => y.2.extents
  let ok := fieldAt bs 2 14 / 16 == 0 && n ≤ 8 && fieldAt bs 0 2 ≤ 4096 && (es.take n).all extentPad
    && ((es.drop n).all fun e => leNat e == 0) && xs.all s.extentOk && noPair s.extentsClash xs
    && xs.all fun x => others.all fun y => !s.extentsShare x y
  if ok then some (fieldAt bs 0 2, xs) else none

/-! ## TCFG (R436) -/

/-- Are the zero bits of a TCFG block zero? -/
def tcfgPad (c : BitVec 256) : Bool := bits c 255 194 == 0
/-- Does a block that sets VALID keep the table, and its ASIDs clear of other bound tenants'? -/
def State.tcfgOk (s : State) (t : Nat) (c : BitVec 256) : Bool :=
  let lo := tcfgAsid c
  let hi := lo + tcfgAsids c
  tcfgPtab c % 16 == 0 && tcfgPtab c < 2 ^ 40 && tcfgFlog c % 4096 == 0 && tcfgFlog c < 2 ^ 40
  && powerIn (tcfgEntries c) 64 65536 && 1 ≤ tcfgAsids c && hi ≤ 8192
  && s.tenants.all fun y => y.1 == t || !y.2.bound || tcfgAsid y.2.tcfg + tcfgAsids y.2.tcfg ≤ lo || hi ≤ tcfgAsid y.2.tcfg
/-- Has a tenant a unit that is resident, queued for admission, or held? -/
def State.tenantBusy (s : State) (t : Nat) : Bool :=
  (s.groups.any fun g => g.2.tenant == t) || (s.swapped.any fun x => x.group.tenant == t)
  || (s.teams.any fun x => x.2.tenant == t) || (s.grids.any fun g => g.2.tenant == t)
  || s.held.any fun h => h.tenant == t
/-- Does a group have an access to store space that is not applied? -/
def Group.inStore (g : Group) : Bool :=
  g.ops.any fun o =>
    match o.kind with
    | .mem m => m.parts.any fun p => !p.done && isStore p.addr
    | .kvins _ _ _ _ _ _ _ _ => true
    | .xpose _ _ _ _ _ _ _ _ => true
    | .send _ _ _ _ _ isScr _ payload _ => !isScr && payload.isNone
    | _ => false
/-- Has a tenant store accesses in flight, which a rebinding drains first (R335)? -/
def State.storeBusy (s : State) (t : Nat) : Bool :=
  (s.groups.any fun g => g.2.tenant == t && g.2.inStore)
  || s.clusters.any fun c => c.2.copies.any fun x => (s.team x.2.tk).any fun y => y.tenant == t

/-- Is a byte of a slice in an addressed extent of a list? -/
def State.extentHas (s : State) (xs : List Extent) (slice sb : Nat) : Bool :=
  xs.any fun x => x.addressed && (s.liveList x.span x.first).contains slice && x.sbase ≤ sb / 4096
    && sb / 4096 < x.sbase + x.units
/-- The bytes of extents read zero (R335). -/
def State.zeroExtents (s : State) (xs : List Extent) : State :=
  { s with storeMem := s.storeMem.filter fun c => !s.extentHas xs (c.1 / 2 ^ 24) (c.1 % 2 ^ 24) }
/-- Is an entry's range or word still mapped where it was, when the tenant's extents change (R364)? -/
def State.trigMapped (s : State) (old xs : List Extent) (e : Trig) : Bool :=
  e.segs.all fun g =>
    !isStore g.1 || (List.range ((g.1 % 4096 + g.2 + 4095) / 4096)).all fun k =>
      let a := g.1 / 4096 * 4096 + 4096 * k
      (s.offsetIn xs a).isSome && s.offsetIn xs a == s.offsetIn old a
/-- Free a tenant's trigger entries that a test names. -/
def State.freeTrigs (s : State) (t : Nat) (p : Trig → Bool) : State :=
  { s with trigs := s.trigs.map fun (e : Nat × Trig) =>
      if e.2.tenant = t && e.2.state != 0 && p e.2 then (e.1, e.2.freed) else e }
/-- Store-cache lines that a tenant's units no longer hold leave, with their data (R331). -/
def State.trimAll (s : State) : State := s.slices.foldl (fun (s : State) x => s.trimSlice x.1) s

/-- A tenant is bound (R335). -/
def State.bindTenant (s : State) (t cq : Nat) (xs : List Extent) (c : BitVec 256) : State :=
  (s.zeroExtents xs).updTenant t fun y =>
    { y with tcfg := c, bound := true, cquota := cq, extents := xs, contracts := [], reserves := [], lateHbm := 0
             lateHost := 0, latePeer := 0, wakes := 0 }
/-- A tenant is bound again (R335): equal extents keep their contents. -/
def State.rebindTenant (s : State) (t cq : Nat) (xs : List Extent) (c : BitVec 256) : State :=
  let old := (s.tenant t).extents
  let kept := fun (x : Extent) => old.contains x
  let s := s.zeroExtents (xs.filter fun x => !kept x)
  let s := s.updTenant t fun y =>
    { y with tcfg := c, cquota := cq, extents := xs
             reserves := y.reserves.filter fun (r : Nat × Reserve) => xs.any fun x => x.kind == 4 + r.1 && kept x }
  ((s.freeTrigs t fun e => !s.trigMapped old xs e).trimAll).reevaluate t
/-- A tenant is unbound (R436). -/
def State.unbindTenant (s : State) (t : Nat) (c : BitVec 256) : State :=
  let s := s.freeTrigs t fun _ => true
  let s : State := { s with taskqs := s.taskqs.map fun (q : Nat × TaskQ) =>
    if q.2.bound && q.2.tenant == t then (q.1, { q.2 with recs := [] }) else q }
  (s.updTenant t fun y =>
    { y with tcfg := c, bound := false, cquota := 0, extents := [], contracts := [], reserves := [] }).trimAll
/-- A TCFG write (R436); `ptab`: it writes PTAB. A rebinding waits until the tenant's store accesses have drained. -/
def State.tcfg (s : State) (t : Nat) (c : BitVec 256) (ptab : Bool) : State :=
  let x := s.tenant t
  let done (s : State) : State := s.measure (leBytes 32 c.toNat)
  if 64 ≤ t ∨ tcfgPad c = false then s
  else if !tcfgValid c then
    if !x.bound then done (s.updTenant t fun y => { y with tcfg := c })
    else if s.tenantBusy t then s
    else done (s.unbindTenant t c)
  else if !s.tcfgOk t c then s
  else if x.bound && !ptab then done (s.updTenant t fun y => { y with tcfg := c })
  else
    match s.readTable t (tcfgPtab c) with
    | none => s
    | some (cq, xs) =>
      let s := s.met ((List.range 144).map fun i => tcfgPtab c + i)
      let s := if s.plat.bad = [] then s else s.used
      if !x.bound then done (s.bindTenant t cq xs c)
      else if s.storeBusy t then s
      else done (s.rebindTenant t cq xs c)
/-- TCFG_WRITE. -/
def execTcfgWrite (m n : Nat) (val : BitVec 256) (s : State) : Host.Outcome State Fault Refusal :=
  .next (s.orWait (s.asOwner m fun s => s.tcfg n val true))

/-! ## PARTCFG (R438-R441) -/

/-- CLUSTERS. -/
def partClusters (v : BitVec 128) : List Nat := (List.range 48).filter fun c => v.getLsbD c
/-- TOK of a die. -/
def partTok (v : BitVec 128) (d : Nat) : Nat := bits v (72 + 6 * d + 5) (72 + 6 * d)
/-- HBMSLOTS. -/
def partSlots (v : BitVec 128) : Nat := bits v 71 68
/-- Has a partition a unit that is resident, or held as an image (R439)? -/
def State.partBusy (s : State) (p : Nat) : Bool :=
  (s.groups.any fun g => g.2.part == p) || (s.swapped.any fun x => x.group.part == p)
  || (s.teams.any fun x => x.2.part == p) || (s.held.any fun h => h.part == p)
  || s.grids.any fun g => g.2.part == p && g.2.slalom.any fun x => x.started && !x.cores.isEmpty
/-- The reserved partitions, with a write of partition `p` counted. -/
def State.reservations (s : State) (p : Nat) (v : BitVec 128) : List (BitVec 128) :=
  ((s.parts.filter fun x => x.1 != p && x.2.formed.isSome).map fun x => x.2.cfg) ++ [v]
/-- The number of a partition's reservation: its rank among them in order of formation (R440; log 23). -/
def State.reservation (s : State) (p : Nat) : Option Nat :=
  (s.partn p).formed.map fun n => (s.parts.filter fun x => x.2.formed.any fun m => m < n).length
/-- The virtual channels that carry a partition's traffic, on every link (R440). -/
def State.channels (s : State) (p : Nat) : List Nat :=
  match s.reservation p with
  | some i => [2 * i + 2, 2 * i + 3]
  | none => [0, 1]
/-- The limits of R440 for a write that leaves a partition reserved. -/
def State.reserveOk (s : State) (p : Nat) (v : BitVec 128) : Bool :=
  let rs := s.reservations p v
  rs.length ≤ 3 && (rs.map partSlots).sum ≤ 12
  && (List.range 4).all fun d =>
    let tok := (rs.map fun r => partTok r d).sum
    let outside := s.liveCl.any fun c => c / 12 == d && rs.all fun r => !r.getLsbD c
    tok ≤ 40 && (!outside || tok ≤ 36) && (partTok v d != 0 || (partClusters v).all fun c => c / 12 != d)
/-- Why a PARTCFG write is refused (R439); 0: it is accepted. -/
def State.partRefusal (s : State) (p : Nat) (v : BitVec 128) : Nat :=
  let old := s.partn p
  let new : PartSt := { old with cfg := v }
  let cs := partClusters v
  if (cs.any fun c => !s.liveCl.contains c) || (cs.any fun c => s.parts.any fun x => x.1 != p && x.2.hasCluster c)
      || !(s.tenant new.tenant).bound then 1
  else if !new.reserved && (bits v 95 72 != 0 || partSlots v != 0) then 2
  else if bits v 95 0 ≠ bits old.cfg 95 0 ∧ s.partBusy p = true then 3
  else if new.reserved && !s.reserveOk p v then 4
  else 0
/-- The relay tokens of each die pass to their owners (R275, R441): a reservation of TOK tokens of a die owns the lowest
that no other owns; without one, a partition owns none. -/
def State.giveTokens (s : State) (p : Nat) (tok : Nat → Nat) : State :=
  (List.range 4).foldl (fun (s : State) d =>
    s.updDie d fun x =>
      let free := (x.tokens.filter fun t => t.2.part.isNone || t.2.part == some p).map fun t => t.1
      let mine := free.take (tok d)
      { x with tokens := x.tokens.map fun (t : Nat × Token) =>
          if mine.contains t.1 then (t.1, { t.2 with part := some p })
          else if t.2.part = some p then (t.1, { t.2 with part := none }) else t }) s
/-- Has a die a cluster of a reserved partition (R441, R485)? -/
def State.dieReserved (s : State) (d : Nat) : Bool :=
  s.parts.any fun x => x.2.formed.isSome && (partClusters x.2.cfg).any fun c => c / 12 == d
/-- The dies of reserved partitions run at 2.25 GHz (R441), unless a trip holds them (R485). -/
def State.fullClocks (s : State) : State :=
  (List.range 4).foldl (fun (s : State) d =>
    if s.dieReserved d && (s.die d).tripped.isNone then s.updDie d fun x => { x with clk := 9 } else s) s
/-- A PARTCFG write; what it writes to reserved fields is ignored (R8). -/
def State.partcfg (s : State) (p : Nat) (v : BitVec 128) : State :=
  let v := v &&& 0xFFFFFFFFFFFFFFFCFC00FFFFFFFFFFFF
  if 64 ≤ p then s
  else
    match s.partRefusal p v with
    | 0 =>
      let now : PartSt := { s.partn p with cfg := v }
      let res : Bool := now.reserved
      let n := s.fe.formedNext
      let s := if res && now.formed.isNone then s.updFe fun f => { f with formedNext := n + 1 } else s
      let s := s.updPart p fun x =>
        { x with cfg := v, code := 0, halted := false, formed := if res then (if x.formed.isSome then x.formed else some n) else none }
      ((s.giveTokens p fun d => if res then partTok v d else 0).fullClocks).measure (leBytes 16 v.toNat)
    | code => s.updPart p fun x => { x with code := code }
/-- PARTCFG_WRITE. -/
def execPartcfgWrite (m n : Nat) (val : BitVec 128) (s : State) : Host.Outcome State Fault Refusal :=
  .next (s.asOwner m fun s => s.partcfg n val)
/-- A reservation ends by itself (R441, R485): RESERVED, TOK and HBMSLOTS clear, and a record of kind 6 is written. -/
def State.dissolve (s : State) (p : Nat) : State :=
  let x := s.partn p
  let keep := bits x.cfg 66 0 + bits x.cfg 127 96 * 2 ^ 96
  let s := s.updPart p fun y => { y with cfg := BitVec.ofNat 128 keep, formed := none }
  (s.giveTokens p fun _ => 0).faultLog x.tenant
    { kind := 6, cause := 0xFF, part := p, gridid := 0xFFFFFFFF, unit := 0, core := 0, epc := 0, eaddr := 0, einfo := 0 }

end Sys2Proof.Machine
end

