-- ==== Sys2Proof/Machine/Inval.lean ====
section
/-! DEFINITION. Invalidation of translations (R457), page migration (R458-R462) and bias flips (R466, R467). -/
namespace Sys2Proof.Machine

/-! ## TLBINV (R457) -/

/-- Is an ASID named by an invalidation? -/
def Inval.names (v : Inval) (asid : Nat) : Bool := v.scope == 0 || v.asid == asid
/-- Is a cached translation named? -/
def Inval.hits (v : Inval) (e : TlbEntry) : Bool :=
  v.names e.asid && (v.scope != 2 || (4096 * v.va < e.va + e.size && e.va < 4096 * (v.va + v.pages)))
/-- Every TLB drops the translations that a test names. -/
def State.dropTlb (s : State) (p : TlbEntry → Bool) : State :=
  { s with
    cores := s.cores.map fun (c : Nat × CoreSt) => (c.1, { c.2 with tlb := c.2.tlb.filter fun e => !p e })
    clusters := s.clusters.map fun (c : Nat × ClusterSt) => (c.1, { c.2 with tlb := c.2.tlb.filter fun e => !p e }) }
/-- Every L1 writes back and invalidates the lines that a test names. -/
def State.flushL1s (s : State) (p : L1Line → Bool) : State :=
  s.cores.foldl (fun (s : State) c =>
    (c.2.l1.filter p).foldl (fun (s : State) l => s.flushLine c.1 l.asid l.line true) s) s
/-- Write-backs under way that a test names are applied now. -/
def State.finishWbs (s : State) (p : WriteBack → Bool) : State :=
  s.cores.foldl (fun (s : State) c =>
    (c.2.wbq.filter p).foldl (fun (s : State) w =>
      (s.updCore c.1 fun y => { y with wbq := y.wbq.filter fun x => x.id != w.id }).flushLine c.1 w.asid w.line w.inval) s) s
/-- Does an outstanding operation still have an access to make through a translation that is named? -/
def Inval.awaits (v : Inval) (k : OpKind) : Bool :=
  match k with
  | .mem m => !m.isLocal && m.parts.any fun p =>
      !p.done && !isStore p.addr && (v.scope != 2 || (4096 * v.va ≤ p.va.toNat && p.va.toNat < 4096 * (v.va + v.pages)))
  | .kvins _ _ _ _ _ _ _ _ => true
  | .send _ _ _ _ _ isScr _ payload _ => !isScr && payload.isNone
  | _ => false
/-- Does a fragment's WAITGE still read a word through a translation that is named? -/
def Inval.polls (v : Inval) (w : Wait) : Bool := match w with | .waitge m => v.awaits (.mem m) | _ => false
/-- Does a packet that has begun read through one? A WAIT reads its word until it completes (R447). -/
def Inval.packet (v : Inval) (p : Packet) : Bool :=
  p.typ == 5 && p.begun && v.names p.asid && p.field 0x10 8 / 2 ^ 60 == 0
  && (v.scope != 2 || (4096 * v.va ≤ p.field 0x10 8 % 2 ^ 57 && p.field 0x10 8 % 2 ^ 57 < 4096 * (v.va + v.pages)))
/-- Must an invalidation still wait for accesses already translated? Those of a group that is swapped out are among
them, and so is a command with a held WHOLE payload. -/
def State.invalBusy (s : State) (v : Inval) : Bool :=
  ((s.groups.map fun g => g.2) ++ s.swapped.map fun w => w.group).any (fun g =>
    v.names g.asid && (g.ops.any (fun o => v.awaits o.kind) || g.frags.any fun f => v.polls f.wait))
  || s.packets.any v.packet
  || s.clusters.any fun c => c.2.copies.any fun x =>
      x.2.held != [] && (s.team x.2.tk).any fun t => v.names t.asid
/-- An invalidation starts. One that meets another under way joins it as an invalidation of every ASID, which R457 lets
either become (log 21). -/
def State.invalStart (s : State) (v : Inval) : State :=
  s.updFe fun f =>
    { f with inval := match f.inval with | none => some v | some _ => some { scope := 0, asid := 0, va := 0, pages := 0 } }
/-- TLBINV with SCOPE 0. -/
def execTlbinvAll (m : Nat) (s : State) : Host.Outcome State Fault Refusal :=
  .next (s.asOwner m fun s => (s.holdRaw 0x090 16 0).invalStart { scope := 0, asid := 0, va := 0, pages := 0 })
/-- TLBINV with SCOPE 1. -/
def execTlbinvAsid (m asid : Nat) (s : State) : Host.Outcome State Fault Refusal :=
  .next (s.asOwner m fun s => 
    (s.holdRaw 0x090 16 (1 + asid % 2 ^ 13 * 2 ^ 6)).invalStart { scope := 1, asid := asid, va := 0, pages := 0 })
/-- TLBINV with SCOPE 2: `va` is the number of the first page. -/
def execTlbinvRange (m asid va pages : Nat) (s : State) : Host.Outcome State Fault Refusal :=
  .next (s.asOwner m fun s => 
    (s.holdRaw 0x090 16 (2 + asid % 2 ^ 13 * 2 ^ 6 + pages % 2 ^ 32 * 2 ^ 32 + va % 2 ^ 45 * 2 ^ 83)).invalStart
      { scope := 2, asid := asid, va := va, pages := pages })
/-- TLBINV_DONE: the named translations are dropped, and every L1 has written back and invalidated the lines of the
ASIDs named. -/
def tlbinvDone (s : State) : State :=
  match s.fe.inval with
  | none => s
  | some v =>
    if s.invalBusy v then s
    else
      let s := s.dropTlb v.hits
      let s := (s.finishWbs fun w => v.names w.asid).flushL1s fun l => v.names l.asid
      s.updFe fun f => { f with inval := none }
/-- TLBINV_DONE. -/
def execTlbinvDone (s : State) : Host.Outcome State Fault Refusal := .next (s.orWait (tlbinvDone s))

/-! ## Migration (R458-R462) -/

/-- SIZE of a MIGCMD. -/
def migSize (v : BitVec 384) : Nat := bits v 1 0
/-- ASID. -/
def migAsid (v : BitVec 384) : Nat := bits v 18 6
/-- SRC. -/
def migSrc (v : BitVec 384) : Nat := bits v 127 64
/-- DST. -/
def migDst (v : BitVec 384) : Nat := bits v 191 128
/-- LEAF. -/
def migLeaf (v : BitVec 384) : Nat := bits v 255 192
/-- VA. -/
def migVa (v : BitVec 384) : Nat := bits v 319 256
/-- The pages of a SIZE, as a power of two. -/
def migPages (size : Nat) : Nat := if size = 0 then 0 else if size = 1 then 4 else 9
/-- Bytes of a migrating page. -/
def Migration.bytes (g : Migration) : Nat := 4096 * 2 ^ g.size
/-- Does an address lie in the source page? -/
def Migration.has (g : Migration) (a : Nat) : Bool := g.src ≤ a && a < g.src + g.bytes
/-- An address after the page has moved. -/
def Migration.move (g : Migration) (a : Nat) : Nat := if g.has a then g.dst + (a - g.src) else a
/-- Is a frame in HBM or host memory? -/
def frameOk (a : Nat) : Bool := a < 2 ^ 40 || (2 ^ 50 ≤ a && a < 2 ^ 51)
/-- Does LEAF, an entry or a CONT group in memory that may hold page tables (R33), still map SRC? -/
def State.migMapped (s : State) (g : Migration) : Bool :=
  let e := s.readHomeNat g.leaf 8
  let cont := g.size == 4
  frameOk g.leaf && g.leaf % (if cont then 128 else 8) == 0 && e % 2 == 1 && e / 2 % 2 == 1 && pteAddr e == g.src && (e / 32 % 2 == 1) == cont
  && (!cont || contOk ((List.range 16).map fun k => s.readHomeNat (g.leaf + 8 * k) 8))
/-- Why a MIGCMD is refused, its SIZE and frames first and its leaf last (log 21); 0: it is not. -/
def State.migRefusal (s : State) (v : BitVec 384) (g : Migration) : Nat :=
  if 16 ≤ s.fe.migs.length then 4
  else if migSize v = 3 ∨ g.src % g.bytes ≠ 0 ∨ g.dst % g.bytes ≠ 0 then 2
  else if !frameOk g.src || !frameOk g.dst then 3
  else if !s.migMapped g then 1
  else 0
/-- The slot that a migration takes: the lowest free one. -/
def State.freeMig (s : State) : Nat := ((List.range 16).find? fun k => (Tab.find s.fe.migs k).isNone).getD 0
/-- A write of MIGCMD that sets GO (R459). -/
def State.migStart (s : State) (v : BitVec 384) : State :=
  let size := migPages (migSize v)
  let g : Migration :=
    { src := migSrc v, dst := migDst v, size := size, leaf := migLeaf v, va := migVa v, asid := migAsid v, passes := 0
      marked := (List.range (32 * 2 ^ size)).map fun k => migSrc v / 128 + k }
  match s.migRefusal v g with
  | 0 => s.updFe fun f => { f with migs := Tab.put f.migs s.freeMig g, migSlot := s.freeMig, migCode := 0 }
  | code => s.updFe fun f => { f with migCode := code }
/-- MIGCMD. -/
def execMigcmd (m : Nat) (val : BitVec 384) (s : State) : Host.Outcome State Fault Refusal :=
  .next (s.asOwner m fun s =>
    let s := s.holdRaw 0x0C0 48 val.toNat
    if val.getLsbD 31 then s.migStart val else s)

/-- Lines are copied to the destination page: no access for the memory model, and not counted (R460). An uncorrectable
word stays uncorrectable at its new place (log 12). -/
def State.copyLines (s : State) (g : Migration) (ls : List Nat) : State :=
  let as := ls.flatMap fun l => (List.range 128).map fun i => 128 * l + i
  let s := s.met as
  let vals := as.map fun a => (g.move a, s.readHome a)
  let bad := (as.filter s.badAt).map fun a => (protWord (g.move a)).1
  let s : State := vals.foldl (fun (s : State) x => s.putHome x.1 x.2) s
  if s.plat.bad = [] then s
  else s.updPlat fun p => { p with bad := (healBy (vals.map fun x => x.1) p.bad) ++ bad.eraseDups }
/-- A migration, by slot. -/
def State.mig (s : State) (slot : Nat) : Option Migration := Tab.find s.fe.migs slot
/-- Change a migration. -/
def State.updMig (s : State) (slot : Nat) (f : Migration → Migration) : State :=
  s.updFe fun x => { x with migs := Tab.upd x.migs slot f }
/-- MIGRATION_COPY_PASS (R460): the first pass copies every line; up to three more copy the lines marked since. -/
def migrationCopyPass (s : State) (slot : Nat) : State :=
  match s.mig slot with
  | none => s
  | some g =>
    if 4 ≤ g.passes ∨ g.marked = [] ∨ s.migMapped g = false then s
    else (s.copyLines g g.marked).updMig slot fun y => { y with passes := y.passes + 1, marked := [] }
/-- MIGRATION_COPY_PASS. -/
def execMigrationCopyPass (slot : Nat) (s : State) : Host.Outcome State Fault Refusal := .next (migrationCopyPass s slot)

/-- The memory word with its addresses moved. -/
def MemOp.moved (g : Migration) (m : MemOp) : MemOp :=
  if m.isLocal then m else { m with parts := m.parts.map fun p => if p.done then p else { p with addr := g.move p.addr } }
/-- Runs of home addresses, moved. -/
def movedRuns (g : Migration) (rs : List (Nat × Nat)) : List (Nat × Nat) :=
  if rs.any fun r => decide (r.1 < g.src + g.bytes) && decide (g.src < r.1 + r.2) then
    runsOf ((runAddrs rs).map g.move)
  else rs
/-- An outstanding operation with its addresses moved. -/
def OpKind.moved (g : Migration) (k : OpKind) : OpKind :=
  match k with
  | .mem m => .mem (m.moved g)
  | .kvins d r b ev prio key src runs => .kvins d r b ev prio key src (movedRuns g runs)
  | .send d todo off len src false runs pl st => .send d todo off len src false (movedRuns g runs) pl st
  | k => k
/-- A wait with its addresses moved. -/
def Wait.moved (g : Migration) (w : Wait) : Wait :=
  match w with
  | .waita m => .waita (m.moved g)
  | .waitge m => .waitge (m.moved g)
  | w => w
/-- A group with its addresses moved. -/
def Group.moved (g : Migration) (x : Group) : Group :=
  { x with ops := x.ops.map fun o => { o with kind := o.kind.moved g }
           frags := x.frags.map fun f => { f with wait := f.wait.moved g } }
/-- The lines of the source page that home addresses reach: the requests of one word, command or packet (R462). -/
def Migration.lines (g : Migration) (as : List Nat) : Nat := (((as.filter g.has).map fun a => a / 128).eraseDups).length
/-- The home addresses that a memory word still has to reach. -/
def MemOp.reach (m : MemOp) : List Nat :=
  if m.isLocal then [] else (m.parts.filter fun p => !p.done).map fun p => p.addr
/-- The home addresses that an outstanding operation still has to reach. -/
def OpKind.reach (k : OpKind) : List Nat :=
  match k with
  | .mem m => m.reach
  | .kvins _ _ _ _ _ _ _ runs => runAddrs runs
  | .send _ _ _ _ _ false runs none _ => runAddrs runs
  | _ => []
/-- The home addresses that a wait reads. -/
def Wait.reach (w : Wait) : List Nat := match w with | .waitge m => m.reach | _ => []
/-- The requests of a group that the final pass holds (R462). -/
def Group.heldAt (g : Migration) (x : Group) : Nat :=
  (x.ops.map fun o => g.lines o.kind.reach).sum + (x.frags.map fun f => g.lines f.wait.reach).sum
/-- The home addresses that a copy command's next row, or its held payload, reaches. -/
def State.copyReach (s : State) (cl uid : Nat) (c : CopyCmd) : List Nat :=
  match c.stage, s.team c.tk with
  | .running r, some t =>
    if !s.copyStarted cl uid c then []
    else
      let src := match c.rowSrc r with
        | .mem tag a n => (match (s.copySpan c.tk t tag a n permR).2 with | .ok as => as | .error _ => [])
        | _ => []
      if c.isWhole then src
      else src ++ (match (s.destSpans c.tk t (c.rowDests r)).2 with | .ok as => as | .error _ => [])
  | _, _ => c.held.map fun w => w.1
/-- The home addresses that a packet's next access reaches. -/
def State.packetReach (s : State) (p : Packet) : List Nat :=
  if !p.begun then []
  else if p.typ = 5 then [p.value]
  else if p.typ = 4 then
    let n := min (8 - (p.field 0x18 8 + p.value) % 8) (p.copyLen - p.value)
    let at_ (a need : Nat) : List Nat :=
      match (s.spanFe p.tenant p.asid [0, 1] need (BitVec.ofNat 64 (a + p.value)) n).2 with | .ok as => as | .error _ => []
    at_ (p.field 0x10 8) permR ++ at_ (p.field 0x18 8) permW
  else []
/-- A trigger entry with its addresses moved. -/
def Trig.moved (g : Migration) (s : State) (e : Trig) : Trig :=
  if e.segs.any fun x => decide (x.1 < g.src + g.bytes) && decide (g.src < x.1 + x.2) then
    let segs := runsOf ((runAddrs e.segs).map g.move)
    { e with segs := segs, home := g.move e.home, bar := g.move e.bar, slices := if e.slices = [] then [] else s.segSlices segs }
  else { e with bar := g.move e.bar }
/-- A copy command with its addresses moved. -/
def CopyCmd.moved (g : Migration) (c : CopyCmd) : CopyCmd :=
  { c with held := c.held.map fun x => (g.move x.1, x.2), seen := c.seen.map g.move, wrote := c.wrote.map g.move }
/-- A contract with its pages and its counter moved. -/
def Contract.moved (g : Migration) (c : Contract) : Contract :=
  { c with pages := c.pages.map fun p => g.move (4096 * p) / 4096, counter := c.counter.map fun x => (g.move x.1, x.2) }
/-- What names the page by its physical address names its new place (R460). -/
def State.moveAll (s : State) (g : Migration) : State :=
  { s with
    groups := s.groups.map fun (x : Nat × Group) => (x.1, x.2.moved g)
    swapped := s.swapped.map fun x => { x with group := x.group.moved g }
    trigs := s.trigs.map fun (x : Nat × Trig) => (x.1, x.2.moved g s)
    clusters := s.clusters.map fun (x : Nat × ClusterSt) =>
      (x.1, { x.2 with copies := x.2.copies.map fun (c : Nat × CopyCmd) => (c.1, c.2.moved g) })
    tenants := s.tenants.map fun (x : Nat × TenantSt) => (x.1, { x.2 with contracts := x.2.contracts.map (Contract.moved g) })
    taskqs := s.taskqs.map fun (x : Nat × TaskQ) =>
      (x.1, { x.2 with pages := x.2.pages.map fun p => g.move (4096 * p) / 4096 })
    granted := s.granted.filter fun x => !g.has (128 * x.2)
    plat := { s.plat with healed := s.plat.healed.filter fun w => !g.has w }
    packets := s.packets.map fun p => if p.typ = 5 ∧ p.begun then { p with value := g.move p.value } else p
    slices := s.slices.map fun (x : Nat × SliceSt) =>
      (x.1, { x.2 with lines := x.2.lines.filter fun l => !g.has (128 * l.line)
                       misses := x.2.misses.filter fun m => !g.has (128 * m.line) }) }
/-- The leaf, or its CONT group, names the destination frame; the other bits stay. -/
def State.rewriteLeaf (s : State) (g : Migration) : State :=
  (List.range (if g.size = 4 then 16 else 1)).foldl (fun (s : State) k =>
    let a := g.leaf + 8 * k
    let e := s.readHomeNat a 8
    s.writeHomeN a (leBytes 8 (e - pteAddr e + (g.dst + 4096 * k)))) s
/-- The requests that a migration's final pass holds, each count with its tenant (R462). -/
def State.heldRequests (s : State) (g : Migration) : List (Nat × Nat) :=
  (s.groups.map fun x => (x.2.tenant, x.2.heldAt g)) ++ (s.swapped.map fun x => (x.group.tenant, x.group.heldAt g))
  ++ (s.clusters.flatMap fun cl => cl.2.copies.filterMap fun c =>
      (s.team c.2.tk).map fun t => (t.tenant, g.lines (s.copyReach cl.1 c.1 c.2)))
  ++ s.packets.map fun p => (p.tenant, g.lines (s.packetReach p))
/-- Requests that the final pass holds count in MIGSTALL (R462). -/
def State.countStalls (s : State) (g : Migration) : State :=
  (s.heldRequests g).foldl (fun (s : State) x =>
    s.updTenant x.1 fun t => { t with migStall := min 0xFFFFFFFF (t.migStall + x.2) }) s
/-- MIGRATION_FINAL_PASS (R460), once the copying passes are over: accesses that have not reached SRC are held and sent
to DST; every L1 writes back its lines; the last marked lines are copied; what names the page moves with it. -/
def migrationFinalPass (s : State) (slot : Nat) : State :=
  match s.mig slot with
  | none => s
  | some g =>
    if g.passes = 0 ∨ (g.marked ≠ [] ∧ g.passes < 4) ∨ s.migMapped g = false then s
    else
      let s := (s.countStalls g).rewriteLeaf g
      let s := s.dropTlb fun e => e.asid == g.asid && e.va < g.va + g.bytes && g.va < e.va + e.size
      let s := s.finishWbs fun w => g.has (128 * w.line)
      let s := s.flushL1s fun l => g.has (128 * l.line)
      let marked := ((s.mig slot).map fun y => y.marked).getD []
      let s := (s.copyLines g marked).moveAll g
      s.updFe fun f =>
        { f with migs := Tab.del f.migs slot, migCode := 0, migFailed := f.migFailed &&& ~~~ BitVec.ofNat 16 (2 ^ slot) }
/-- MIGRATION_FINAL_PASS. -/
def execMigrationFinalPass (slot : Nat) (s : State) : Host.Outcome State Fault Refusal := .next (s.orWait (migrationFinalPass s slot))
/-- MIGRATION_UNMAPPED (R462): a page that is no longer mapped ends its migration with code 5. -/
def migrationUnmapped (s : State) (slot : Nat) : State :=
  match s.mig slot with
  | none => s
  | some g =>
    if s.migMapped g then s
    else s.updFe fun f =>
      { f with migs := Tab.del f.migs slot, migSlot := slot, migCode := 5
               migFailed := f.migFailed ||| BitVec.ofNat 16 (2 ^ slot) }
/-- MIGRATION_UNMAPPED. -/
def execMigrationUnmapped (slot : Nat) (s : State) : Host.Outcome State Fault Refusal := .next (migrationUnmapped s slot)

/-! ## Bias flips (R467) -/

/-- A write of BIASFLIP starts a flip; a COUNT of 0 flips nothing. -/
def State.flipStart (s : State) (v : W64) : State :=
  if bits v 35 8 = 0 then s
  else s.updFe fun f => { f with flip := some { first := bits v 63 36, count := bits v 35 8, toHost := v.getLsbD 0 } }
/-- BIASFLIP with TOHOST 1. -/
def execBiasflipToHost (m : Nat) (val : W64) (s : State) : Host.Outcome State Fault Refusal :=
  .next (if val.getLsbD 0 then s.asOwner m fun s => s.rawWrite 0x078 8 0 8 val.toNat 0 fun s _ => s.flipStart val else s)
/-- BIASFLIP with TOHOST 0. -/
def execBiasflipToDevice (m : Nat) (val : W64) (s : State) : Host.Outcome State Fault Refusal :=
  .next (if val.getLsbD 0 then s else s.asOwner m fun s => s.rawWrite 0x078 8 0 8 val.toNat 0 fun s _ => s.flipStart val)
/-- A byte of the bias table with the bits of pages `lo` to `hi - 1` set to a value. -/
def biasByte (old n lo hi : Nat) (on : Bool) : Nat :=
  (List.range 8).foldl (fun b i =>
    let v := if lo ≤ 8 * n + i ∧ 8 * n + i < hi then on else old.testBit i
    b + (if v then 2 ^ i else 0)) 0
/-- BIASFLIP_DONE: the bits are set; pages beyond HBM have none. -/
def biasflipDone (s : State) : State :=
  match s.fe.flip with
  | none => s
  | some f =>
    let hi := min (f.first + f.count) (2 ^ 28)
    let n0 := f.first / 8
    (List.range ((hi + 7) / 8 - n0)).foldl (fun (s : State) k =>
      let a := s.fe.biasBase.toNat + n0 + k
      s.writeHomeN a (leBytes 1 (biasByte (s.readHomeNat a 1) (n0 + k) f.first hi f.toHost)))
      (s.updFe fun x => { x with flip := none })
/-- BIASFLIP_DONE. -/
def execBiasflipDone (s : State) : Host.Outcome State Fault Refusal := .next (s.orWait (biasflipDone s))

end Sys2Proof.Machine
end

