-- ==== Sys2Proof/Machine/Links.lean ====
section
/-! DEFINITION. The host link, CXL and Rink (R192, R464-R471), and errors: scrubbing and bonds (R477-R481). -/
namespace Sys2Proof.Machine

/-! ## Host link and CXL (R192, R464, R465) -/

/-- LINK_TRAIN (R464): 16, 8 or 4 lanes at 128, 64 or 32 GT/s. -/
def execLinkTrain (lanes speed : Nat) (s : State) : Host.Outcome State Fault Refusal :=
  .next (if [16, 8, 4].contains lanes && [128, 64, 32].contains speed then
    s.updPlat fun p => { p with lanes := lanes, speed := speed } else s)
/-- The write from outside of bytes of one line: a line that the store cache holds keeps them, valid and dirty (R329). -/
def State.outsideLine (s : State) (ws : List (Nat × Byte)) : State :=
  match ws with
  | [] => s
  | (a, _) :: _ =>
    match (s.homeSlice a).bind fun n => s.storeLine n (a / 128) with
    | some l => (s.applyHome ws).cacheWrite l.tenant ws false
    | none => s.applyHome ws
/-- A write from outside, each line applied at its home slice as one application (R192). -/
def State.outsideWrite (s : State) (a : Nat) (bs : List Byte) : State :=
  let ws := ((List.range bs.length).zip bs).map fun x => (a + x.1, x.2)
  ((ws.map fun w => w.1 / 128).eraseDups).foldl (fun (s : State) l => s.outsideLine (ws.filter fun w => w.1 / 128 == l)) s
/-- The tenant number of a request from outside, which uses no tenant's cache units: its line is uncached, and it joins or
takes an entry of the miss table as such a request does (R326, R329). -/
def noTenant : Nat := 64
/-- A word that an outside request changes: it reads its old value, and one with an uncorrectable error is left as it is. -/
def State.outsideAtom (s : State) (a n : Nat) (k : AccKind) (data swap : Nat) : State :=
  let s := s.engineRead noTenant a n false
  if (n ≠ 4 ∧ n ≠ 8) ∨ a % n ≠ 0 ∨ (List.range n).any fun i => s.badAt (a + i) then s
  else
    match k.apply n (s.readHomeNat a n) data swap with
    | none => s
    | some x => s.outsideWrite a (leBytes n x)
/-- A request from outside at a home address (R192): a read repairs and counts corrected errors (R478). -/
def State.outside (s : State) (a : Nat) (op : OutsideOp) : State :=
  match op with
  | .read n => s.engineRead noTenant a n false
  | .write bs => s.outsideWrite a bs
  | .atom aop sg n x => s.outsideAtom a n (.atom aop sg true) x 0
  | .cas n x y => s.outsideAtom a n .cas x y
  | .red aop sg fl n x => s.outsideAtom a n (.red aop sg fl) x 0
/-- The bytes that a request covers. -/
def outsideLen (op : OutsideOp) : Nat :=
  match op with
  | .read n => n
  | .write bs => bs.length
  | .atom _ _ n _ => n
  | .cas n _ _ => n
  | .red _ _ _ n _ => n
/-- Does a request write? -/
def outsideWrites (op : OutsideOp) : Bool :=
  match op with
  | .read _ => false
  | _ => true
/-- Is a byte of `n` in a page whose bias is being changed (R467)? -/
def State.flipsAny (s : State) (a n : Nat) : Bool := (List.range n).any fun i => s.flipping (a + i)
/-- CXL_MEM_ACCESS (R192, R465): a host write to HBM takes its place in the home order; a read, of a 64-byte line, changes
no byte. An access to a page whose bias is being changed is held (R467). -/
def cxlMem (s : State) (a : Nat) (data : Option (List Byte)) : State :=
  let r : Nat × OutsideOp := match data with
    | none => (a / 64 * 64, .read 64)
    | some bs => (a, .write bs)
  if 2 ^ 40 < r.1 + (outsideLen r.2) ∨ s.flipsAny r.1 (outsideLen r.2) then s else s.outside r.1 r.2
/-- CXL_MEM_ACCESS. -/
def execCxlMemAccess (addr : Nat) (data : Option (List Byte)) (s : State) : Host.Outcome State Fault Refusal :=
  .next (s.orWait (cxlMem s addr data))
/-- The host writes bytes of its own memory, in a line that no store cache holds any more: no home slice sees it (R192).
A task queue's ring there is spoilt as by any other agent's write (R380). -/
def State.hostWrite (s : State) (a : Nat) (bs : List Byte) : State :=
  let ws := (((List.range bs.length).zip bs).map fun x => (a + x.1, x.2)).filter fun w => w.1 / 128 == a / 128
  let s : State := ws.foldl (fun (s : State) w => s.putHome w.1 w.2) s
  let s := s.spoilQueues (ws.map fun w => w.1)
  if s.plat.bad = [] then s else s.updPlat fun p => { p with bad := healBy (ws.map fun w => w.1) p.bad }
/-- CXL_CACHE_SNOOP (R192): a host-tier line of the store cache is no longer dirty; or (`some bs`) it is given up to the
host, which then writes `bs` in it, as it may in a line that the store cache does not hold. -/
def cxlSnoop (s : State) (a : Nat) (taken : Option (List Byte)) : State :=
  let line := a / 128
  if tierOf (128 * line) ≠ 1 then s
  else
    match s.homeSlice (128 * line) with
    | none => s
    | some n =>
      match s.storeLine n line with
      | none => taken.elim s (s.hostWrite a)
      | some l =>
        match taken with
        | some bs => (s.dropLine n l).hostWrite a bs
        | none =>
          ((s.updSlice n fun x => { x with lines := x.lines.map fun y =>
            if y.line = line then { y with dirty := 0, by_ := [] } else y }).sendLine l).healTier l
/-- CXL_CACHE_SNOOP. -/
def execCxlCacheSnoop (addr : Nat) (taken : Option (List Byte)) (s : State) : Host.Outcome State Fault Refusal :=
  .next (s.orWait (cxlSnoop s addr taken))

/-! ## Rink (R468-R471) -/

/-- Change a port. -/
def State.updPort (s : State) (k : Nat) (f : Port → Port) : State :=
  s.updPlat fun p => { p with ports := Tab.put p.ports k (f (Tab.get Port.fresh p.ports k)) }
/-- RINK_REQUEST (R470): a peer's request arrives at a port; an accepted read, write or atomic is applied at its home
slice. A flit has come through, so the next is a new one (R468). -/
def rinkRequest (s : State) (port off key : Nat) (op : OutsideOp) : State :=
  if 16 ≤ port ∨ (s.port port).up = false then s
  else
    match s.exportAt off key (outsideWrites op) with
    | some a =>
      if s.flipsAny a (outsideLen op) then s
      else
        let s := s.updPort port fun p => { p with replaysIn := 0 }
        if 2 ^ 30 < off % 2 ^ 30 + (outsideLen op) then s else s.outside a op
    | none => s.updPort port fun p => { p with replaysIn := 0 }
/-- RINK_REQUEST. -/
def execRinkRequest (port off key : Nat) (op : OutsideOp) (s : State) : Host.Outcome State Fault Refusal :=
  .next (s.orWait (rinkRequest s port off key op))
/-- A write-back of a core's L1, its `k`th, is refused by its peer (R471): its dirty bytes are lost, and the owning
partition halts. -/
def refusedWb (s : State) (core k : Nat) : State :=
  match (s.core core).wbq[k]? with
  | none => s
  | some w =>
    if tierOf (128 * w.line) ≠ 2 then s
    else
      let s := s.updCore core fun c => { c with wbq := c.wbq.eraseIdx k }
      match s.l1Line core w.asid w.line with
      | none => s
      | some _ => (s.dropL1 core w.asid w.line).haltTenant ((s.tenantOfAsid w.asid).getD 0)
/-- A line of a slice's store cache is refused by its peer. -/
def refusedLine (s : State) (slice line : Nat) : State :=
  match s.storeLine slice line with
  | none => s
  | some l =>
    if tierOf (128 * line) ≠ 2 ∨ l.dirty = 0 then s
    else (s.updSlice slice fun x => { x with lines := x.lines.filter fun y => y.line != line }).loseLine l
/-- An outstanding part of a group's word at a peer address is refused, or its request is lost. -/
def refusedPart (s : State) (gk op j : Nat) : State :=
  match s.memOp gk op with
  | none => s
  | some (g, _, m) =>
    match m.parts[j]? with
    | none => s
    | some p =>
      if m.isLocal || p.done || isStore p.addr || tierOf p.addr != 2 || !g.mayPerform op m j || m.l1Served p && m.kind == .store then s
      else homeRefuse s gk op j
/-- The read of a waiting lane of WAITGE is refused: it ends the lane's wait as an error does (R180, R471). -/
def refusedWait (s : State) (gk fid j : Nat) : State :=
  match s.group gk with
  | none => s
  | some g =>
    match g.frag fid with
    | none => s
    | some f =>
      match f.wait with
      | .waitge m =>
        (match m.parts[j]? with
        | none => s
        | some p =>
          if s.stopped g || !f.free || p.done || isStore p.addr || tierOf p.addr != 2 then s
          else
            let m' := m.setPart j { p with done := true, err := true }
            let g := g.waitErr m m'
            if m'.performed then endMemWait s gk g f m' else s.setGroup gk (g.setFrag { f with wait := .waitge m' }))
      | _ => s
/-- RINK_REFUSAL (R471). -/
def execRinkRefusal (r : RefusedOp) (a b c : Nat) (s : State) : Host.Outcome State Fault Refusal :=
  .next (s.orWait (match r with
    | .wb => refusedWb s a b
    | .line => refusedLine s a b
    | .part => refusedPart s a b c
    | .wait => refusedWait s a b c
    | .lines ls => { s with peerNo := ls }))
/-- FLIT_REPLAY (R468): a flit fails its CRC and is replayed; when its 16th replay has failed, the port goes down. A port
number of 16 + k stands for the flit that port k receives (log 34). -/
def execFlitReplay (port : Nat) (s : State) : Host.Outcome State Fault Refusal :=
  let k := port % 16
  .next (if 32 ≤ port ∨ (s.port k).up = false then s
    else s.updPort k fun p =>
      if (if port < 16 then p.replays else p.replaysIn) = 16 then { up := false, replays := 0 }
      else if port < 16 then { p with replays := p.replays + 1 }
      else { p with replaysIn := p.replaysIn + 1 })

/-! ## Scrubbing (R478) -/

/-- SCRUB: the protected word at a home address (`storeBase` and above for a store) is read: a corrected error is
repaired and counted, an uncorrectable word is logged and left. -/
def scrub (s : State) (a : Nat) : State :=
  let w := (protWord a).1
  if (ceIndex w).isNone then s
  else
    let s := if s.plat.soft.contains w then s.correct w else s
    if s.plat.bad.contains w then s.devLog w 1 else s
/-- SCRUB. -/
def execScrub (addr : Nat) (s : State) : Host.Outcome State Fault Refusal := .next (scrub s addr)

/-! ## Bonds (R480, R481) -/

/-- The bonded region of a slice and layer. -/
def State.bond (s : State) (slice layer : Nat) : Bond := if layer = 0 then (s.slice slice).bond0 else (s.slice slice).bond1
/-- Change a bonded region. -/
def State.updBond (s : State) (slice layer : Nat) (f : Bond → Bond) : State :=
  s.updSlice slice fun x => if layer = 0 then { x with bond0 := f x.bond0 } else { x with bond1 := f x.bond1 }
/-- BOND_CHECK (R480): a canary that has drifted sets DRIFT, schedules the repair and sends vector 2. -/
def execBondCheck (slice layer : Nat) (drift : Bool) (s : State) : Host.Outcome State Fault Refusal :=
  .next (if drift = false ∨ 256 ≤ slice ∨ 2 ≤ layer ∨ (s.bond slice layer).drift = true then s
    else { s.updBond slice layer fun b => { b with drift := true, repair := 1 } with msix := s.msix ++ [2] })
/-- A write of BONDREPAIR that sets GO (R481): for a layer that is not OFF, or while a repair runs, it is discarded. -/
def State.repairStart (s : State) (v : W32) : State :=
  let r := bits v 8 0
  let l := s.layer (r / 2 / 64) (r % 2)
  if s.plat.repair.isSome ∨ l.state ≠ 2 ∨ l.ends.isSome then s else s.updPlat fun p => { p with repair := some r }
/-- BONDREPAIR. -/
def execBondrepair (m : Nat) (val : W32) (s : State) : Host.Outcome State Fault Refusal :=
  .next (s.asOwner m fun s => if val.getLsbD 31 then s.repairStart val else s)
/-- BONDREPAIR_DONE (R481): the drifted bonds took a number of spares that the part knows, or too few were left. -/
def bondrepairDone (s : State) (ok : Bool) : State :=
  match s.plat.repair with
  | none => s
  | some r =>
    let s := s.updPlat fun p => { p with repair := none }
    let n := 1 + Config.freeIndex s.freeCtr % 8
    let b := s.bond (r / 2) (r % 2)
    if ok && n ≤ b.spares then s.used.updBond (r / 2) (r % 2) fun b => { spares := b.spares - n, repair := 2, drift := false }
    else s.used.updBond (r / 2) (r % 2) fun b => { b with repair := 3 }
/-- BONDREPAIR_DONE. -/
def execBondrepairDone (ok : Bool) (s : State) : Host.Outcome State Fault Refusal := .next (bondrepairDone s ok)

end Sys2Proof.Machine
end

