-- ==== Sys2Proof/Machine/Boot.lean ====
section
/-! DEFINITION. Boot, recovery, firmware updates (R472-R474), measurements and attestation (R475, R476), and the loss of
power (R474). -/
namespace Sys2Proof.Machine

/-! ## Images (R472, R473) -/

/-- The first bytes of an image: its header. -/
def imageHead : Nat := 0x400
/-- LENGTH of an image. -/
def imageLength (bs : List Byte) : Nat := fieldAt bs 8 8
/-- SVN of an image. -/
def imageSvn (bs : List Byte) : Nat := fieldAt bs 4 4
/-- Is the header well formed? -/
def imageHeadOk (bs : List Byte) : Bool :=
  fieldAt bs 0 4 == 0x57465647 && 1 ≤ imageLength bs && imageLength bs ≤ 2 ^ 25 - 2 ^ 10 && fieldAt bs 0x50 48 == 0
  && fieldAt bs 0x280 384 == 0
/-- The verification of an image (R473): 0, or the code of the first failure. -/
def State.verifyImage (s : State) (bs : List Byte) : Nat :=
  if !imageHeadOk bs then 1
  else if !sigOk Config.vendorKey.1 Config.vendorKey.2 (bs.take 0x80) ((bs.drop 0x80).take 512) then 2
  else if (sha512 ((bs.drop imageHead).take (imageLength bs))).toNat ≠ fieldAt bs 0x10 64 then 3
  else if imageSvn bs < s.plat.fusedSvn then 4
  else 0
/-- The verification of the firmware slot: a write of it that was cut short fails by how far it had reached (R474,
R486). -/
def State.verifySlot (s : State) (bs : List Byte) : Nat :=
  match s.plat.torn with
  | some n => if n < 0x80 then 1 else if n < 0x280 then 2 else 3
  | none => s.verifyImage bs
/-- An image in a memory: its header, then as much body as LENGTH says. -/
def imageIn (m : Memory) : List Byte :=
  let h := Memory.readN m 0 imageHead
  h ++ Memory.readN m imageHead (min (imageLength h) (2 ^ 25 - 2 ^ 10))

/-- The firmware that runs may have asked for the fused minimum to rise to its own SVN (R473). When it asks is not stated:
the model lets it ask, or not, before each event at which the minimum matters (log 10). -/
def State.fuseAsk (s : State) : State :=
  if s.plat.bootMode = 1 ∧ Config.freeIndex s.freeCtr % 2 = 1 then
    s.used.updPlat fun p => { p with fusedSvn := max p.fusedSvn p.bootSvn }
  else s.used

/-! ## Package reset (R473) -/

/-- The state that a reset leaves before the boot ROM runs: what the part is, the flash slot, the schedule and the
counters of free values stay, and host memory, which is not the package's. -/
def State.afterReset (s : State) : State :=
  let r := State.reset
  { r with
    sched := s.sched, turnNo := s.turnNo, freeCtr := s.freeCtr, nextUid := s.nextUid, liveCl := s.liveCl, liveSl := s.liveSl
    mem := s.mem.filter fun c => 2 ^ 50 ≤ c.1 && c.1 < 2 ^ 51
    plat := { r.plat with bin := s.plat.bin, flash := s.plat.flash, fusedSvn := s.plat.fusedSvn, torn := s.plat.torn } }
/-- The measurements of a boot (R475): the ROM's digest, the image's DIGEST, the fuses. -/
def State.measureBoot (s : State) (bs : List Byte) : State :=
  ((s.extend 0 Config.romDigest).extend 1 (BitVec.ofNat 512 (fieldAt bs 0x10 64))).extend 2
    (Config.fuseDigest s.plat.fusedSvn s.plat.bin)
/-- The boot ROM (R473): it verifies the slot and runs it, or enters recovery. -/
def State.boot (s : State) : State :=
  let bs := imageIn s.plat.flash
  match s.verifySlot bs with
  | 0 => (s.measureBoot bs).updPlat fun p => { p with bootMode := 1, bootCode := 0, bootSvn := imageSvn bs }
  | code => s.updPlat fun p => { p with bootMode := 2, bootCode := code }
/-- PACKAGE_RESET. -/
def execPackageReset (s : State) : Host.Outcome State Fault Refusal := .next s.fuseAsk.afterReset.boot

/-! ## Recovery and updates (R474) -/

/-- An image is written into the slot. -/
def State.writeSlot (s : State) (bs : List Byte) : State :=
  s.updPlat fun p => { p with flash := Memory.writeN [] 0 bs, torn := none }
/-- A write of the slot is cut short, somewhere in it: the part has written a beginning of the image; the rest of the slot
is undefined. -/
def State.tearSlot (s : State) (bs : List Byte) : State :=
  let n := Config.freeIndex s.freeCtr % bs.length
  let rest := (List.range (bs.length - n)).map fun i => Config.freeByte s.freeCtr i
  s.used.updPlat fun p => { p with flash := Memory.writeN [] 0 (bs.take n ++ rest), torn := some n }
/-- A write of 1 to RECOVERGO, in recovery. -/
def State.recover (s : State) : State :=
  if !s.recovering then s
  else
    let bs := imageIn s.plat.recovery
    if s.verifyImage bs = 0 then (s.writeSlot bs).afterReset.boot
    else s.updPlat fun p => { p with bootCode := 5 }
/-- RECOVERGO. -/
def execRecovergo (s : State) : Host.Outcome State Fault Refusal := .next s.recover
/-- LENGTH of a FWUPDATE. -/
def fwLength (v : BitVec 128) : Nat := bits v 63 32
/-- ADDR. -/
def fwAddr (v : BitVec 128) : Nat := bits v 127 64
/-- A write of FWUPDATE that sets GO: refused while an update runs. Fields outside their ranges name no image: CODE 1
(log 22). -/
def State.fwStart (s : State) (v : BitVec 128) : State :=
  if s.plat.fwBusy.isSome then s.updPlat fun p => { p with fwCode := 7 }
  else if fwLength v < 0x401 ∨ 2 ^ 25 < fwLength v ∨ fwAddr v % 4096 ≠ 0 ∨ 2 ^ 40 < fwAddr v + fwLength v then
    s.updPlat fun p => { p with fwCode := 1 }
  else s.updPlat fun p => { p with fwBusy := some (fwAddr v, fwLength v), fwCode := 0 }
/-- FWUPDATE. -/
def execFwupdate (m : Nat) (val : BitVec 128) (s : State) : Host.Outcome State Fault Refusal :=
  .next (s.asOwner m fun s =>
    let s := s.holdRaw 0x120 16 val.toNat
    if val.getLsbD 31 then s.fwStart val else s)
/-- The image of an update that runs, as the firmware reads it: a byte of a word with an uncorrectable error is free
(log 12). -/
def State.fwImage (s : State) (addr len : Nat) : List Byte :=
  if s.plat.bad = [] then s.readHomeN addr len else s.gather ((List.range len).map fun i => addr + i)
/-- The firmware reads the image: errors are met (R478), and a page whose bias is being changed is held (R467). -/
def State.fwReads (s : State) (addr len : Nat) : State :=
  if (List.range (len / 4096 + 1)).any fun k => s.flipping (addr + 4096 * k) then s.mustWait
  else s.met ((List.range len).map fun i => addr + i)
/-- Does the firmware accept an image of a length? LENGTH of the header must fit the LENGTH given. -/
def State.fwVerify (s : State) (bs : List Byte) (len : Nat) : Nat :=
  if len < imageHead + imageLength bs then 1 else s.verifyImage bs
/-- FWUPDATE_DONE: the image is verified, then the slot is rewritten (`ok`), or its write failed. -/
def fwDone (s : State) (ok : Bool) : State :=
  match s.plat.fwBusy with
  | none => s
  | some (addr, len) =>
    let s := s.fuseAsk.fwReads addr len
    let bs := s.fwImage addr len
    let s := s.updPlat fun p => { p with fwBusy := none }
    match s.fwVerify bs len with
    | 0 =>
      let bs := bs.take (imageHead + imageLength bs)
      if ok then (s.writeSlot bs).updPlat fun p => { p with fwCode := 0, fwSvn := imageSvn bs % 2 ^ 16 }
      else (s.tearSlot bs).updPlat fun p => { p with fwCode := 6 }
    | code => s.updPlat fun p => { p with fwCode := code }
/-- FWUPDATE_DONE. -/
def execFwupdateDone (ok : Bool) (s : State) : Host.Outcome State Fault Refusal := .next (s.orWait (fwDone s ok))
/-- POWER_FAILURE (R474): an update may be verifying its image, or writing the slot; a write is cut short. -/
def powerFail (s : State) : State :=
  let s := match s.plat.fwBusy with
    | none => s
    | some (addr, len) =>
      let s := s.fuseAsk
      let bs := s.fwImage addr len
      if (s.fwReads addr len).stall = s.stall ∧ s.fwVerify bs len = 0 ∧ Config.freeIndex s.freeCtr % 2 = 1 then s.used.tearSlot (bs.take (imageHead + imageLength bs))
      else s.used
  { s.updPlat fun p => { p with fwBusy := none, mgmtOn := false } with power := false }
/-- POWER_FAILURE. -/
def execPowerFailure (s : State) : Host.Outcome State Fault Refusal := .next (powerFail s)

/-! ## Measurements and attestation (R475, R476) -/

/-- A write of MEASEXT that sets GO: MEAS4 to MEAS7 only. -/
def State.measExt (s : State) (v : BitVec 576) : State :=
  let i := bits v 2 0
  if 4 ≤ i then s.extend i (BitVec.ofNat 512 (bits v 575 64)) else s
/-- MEASEXT. -/
def execMeasext (m : Nat) (val : BitVec 576) (s : State) : Host.Outcome State Fault Refusal :=
  .next (s.asOwner m fun s =>
    if !val.getLsbD 31 then s.holdRaw 0x180 72 val.toNat
    else if rawTakes 0x180 val.toNat then (s.holdRaw 0x180 72 val.toNat).measExt val
    else s)
/-- A report up to its signature: what it says is fixed when the request takes effect. -/
def State.reportBody (s : State) (mask : Nat) (nonce : List Byte) : List Byte :=
  leBytes 4 0x54415647 ++ leBytes 1 s.plat.bin ++ leBytes 1 mask ++ leBytes 2 0 ++ leBytes 8 s.clock ++ nonce
  ++ ((List.range 8).filter fun j => mask.testBit j).flatMap fun j => leBytes 64 (s.meas j).toNat
/-- A write of ATTREQ that sets GO, by any master; one made while a report is under way is discarded. -/
def State.attStart (s : State) (v : BitVec 320) : State :=
  if s.plat.attest.isSome then s
  else s.updPlat fun p => { p with attest := some (s.reportBody (bits v 7 0) (leBytes 32 (bits v 319 64))) }
/-- ATTREQ. -/
def execAttreq (m : Nat) (val : BitVec 320) (s : State) : Host.Outcome State Fault Refusal :=
  .next (if s.recovering || decide (4 ≤ m) then s
    else
      let s := (if s.isOwner m then s.renewLease else s).holdRaw 0x140 40 val.toNat
      if val.getLsbD 31 then s.attStart val else s)
/-- ATTREQ_DONE: the report stands in the ATTREP window, signed. -/
def attDone (s : State) : State :=
  match s.plat.attest with
  | none => s
  | some b =>
    let sig := pssSign Config.idKey.1 Config.idKey.2 (leBytes 64 (Config.salt s.freeCtr).toNat) b
    s.used.updPlat fun p => { p with attest := none, report := b ++ sig }
/-- ATTREQ_DONE. -/
def execAttreqDone (s : State) : Host.Outcome State Fault Refusal := .next (attDone s)

end Sys2Proof.Machine
end

