-- ==== Sys2Proof/Machine/Debug.lean ====
section
/-! DEFINITION. The debugger (R433, R482, R483), power and cooling (R484, R485). -/
namespace Sys2Proof.Machine

/-! ## Claims and halted units (R482) -/

/-- The last DBGCTL's OPSTATUS. -/
def State.opStatus (s : State) (n : Nat) : State := s.updFe fun f => { f with opStatus := n }
/-- May a partition be debugged: its tenant has DEBUG (R436)? -/
def State.debuggable (s : State) (p : Nat) : Bool :=
  let x := s.partn p
  let t := s.tenant x.tenant
  x.valid && t.bound && tcfgDebug t.tcfg
/-- DBGCTL, OP 1. One claim stands at a time (log 23). -/
def State.debugClaim (s : State) (p : Nat) : State :=
  if !s.debuggable p then s.opStatus 1
  else if s.fe.claim.isSome then s.opStatus 4
  else (s.updFe fun f => { f with claim := some p }).opStatus 0
/-- A write of DBGCTL that sets GO, in the register. -/
def State.holdDbgctl (s : State) (op part gridid unit : Nat) : State :=
  s.holdRaw 0x200 16 (2 ^ 31 + part % 64 * 2 ^ 8 + op + gridid % 2 ^ 32 * 2 ^ 64 + unit % 2 ^ 32 * 2 ^ 96)
/-- DEBUG_CLAIM. -/
def execDebugClaim (m part : Nat) (s : State) : Host.Outcome State Fault Refusal :=
  .next (s.asOwner m fun s => (s.holdDbgctl 1 part 0 0).debugClaim part)
/-- DEBUG_RELEASE: DBGCTL, OP 2. -/
def execDebugRelease (m : Nat) (s : State) : Host.Outcome State Fault Refusal :=
  .next (s.asOwner m fun s => ((s.holdDbgctl 2 0 0 0).updFe fun f => { f with claim := none }).opStatus 0)
/-- The groups that DBGCTL's GRIDID and UNIT name, of a team, of slalom or of a task; those of the claimed partition,
while one is claimed. -/
def State.named (s : State) (gridid unit : Nat) : List Group :=
  ((s.groups.map fun x => x.2) ++ s.swapped.map fun x => x.group).filter fun g =>
    s.gridIdOf g == gridid && g.unitNo == unit && (s.fe.claim.isNone || s.fe.claim == some g.part)
/-- A group goes on after the halt: each fragment at its BKPT passes it. -/
def Group.resumed (g : Group) : Group :=
  { g with halted := false
           frags := g.frags.map fun f => match f.wait with | .bkpt _ => f.advance | _ => f }
/-- A unit resumes. -/
def State.resumeUnit (s : State) (u : UnitRef) : State :=
  { s with
    groups := s.groups.map fun x => if x.2.unit = u then (x.1, x.2.resumed) else x
    swapped := s.swapped.map fun x => if x.group.unit = u then { x with group := x.group.resumed } else x }
/-- The fragments of a unit that stand at a BKPT: slot, fragment, IMM22. -/
def State.atBkpt (s : State) (u : UnitRef) : List (Nat × Nat × Nat) :=
  s.groups.flatMap fun x =>
    if x.2.unit = u then
      x.2.frags.filterMap fun f => match f.wait with | .bkpt imm => some (x.1, f.id, imm) | _ => none
    else []
/-- A unit goes on, its BKPT delivered as though no debugger had claimed the partition. -/
def State.releaseUnit (s : State) (u : UnitRef) : State :=
  let at_ := s.atBkpt u
  let s : State := { s with
    groups := s.groups.map fun x => if x.2.unit = u then (x.1, { x.2 with halted := false }) else x
    swapped := s.swapped.map fun x => if x.group.unit = u then { x with group := { x.group with halted := false } } else x }
  at_.foldl (fun (s : State) b =>
    match s.group b.1 with
    | none => s
    | some g =>
      match g.frag b.2.1 with
      | none => s
      | some f =>
        let f := { f with wait := .none }
        takeTrap s b.1 (g.setFrag f) f [(14, { eaddr := 0, detail := b.2.2 })]) s
/-- DBGCTL, OP 3 and 4: the unit is found, is its tenant's to debug, and is halted. -/
def State.onHalted (s : State) (gridid unit : Nat) (run : State → UnitRef → State) : State :=
  match s.named gridid unit with
  | [] => s.opStatus 2
  | g :: r =>
    if !tcfgDebug (s.tenant g.tenant).tcfg then s.opStatus 1
    else
      match (g :: r).find? fun (x : Group) => x.halted with
      | none => s.opStatus 3
      | some x => (run s x.unit).opStatus 0
/-- DEBUG_RESUME. -/
def execDebugResume (m gridid unit : Nat) (s : State) : Host.Outcome State Fault Refusal :=
  .next (s.asOwner m fun s => (s.holdDbgctl 3 0 gridid unit).onHalted gridid unit State.resumeUnit)
/-- DEBUG_RELEASE_TO_HANDLER. -/
def execDebugReleaseToHandler (m gridid unit : Nat) (s : State) : Host.Outcome State Fault Refusal :=
  .next (s.asOwner m fun s => (s.holdDbgctl 4 0 gridid unit).onHalted gridid unit State.releaseUnit)

/-! ## Debug reads (R483) -/

/-- The extent of the claimed partition's tenant that holds a slice byte. -/
def State.dbgExtent (s : State) (slice sb : Nat) : Option Extent :=
  match s.fe.claim with
  | none => none
  | some p =>
    if s.liveSl.contains slice ∧ sb % 8 = 0 ∧ s.debuggable p = true then
      (s.tenant (s.partn p).tenant).extents.find? fun x =>
        (s.liveList x.span x.first).contains slice && x.sbase ≤ sb / 4096 && sb / 4096 < x.sbase + x.units
    else none
/-- The status that the layer's state gives a debug read as it starts: 0 OK, 1 WOKEN, 2 OFF, 3 DENIED. A layer that is
changing reads as its target (R336). -/
def State.dbgStatus (s : State) (slice sb : Nat) : Nat :=
  match s.dbgExtent slice sb with
  | none => 3
  | some _ =>
    min 2 (s.layer (slice / 64) (layerOfByte sb)).target
/-- A debug read wakes a layer that sleeps: no WAKES counts it, and the layer is to sleep again. -/
def State.dbgWake (s : State) (d l : Nat) : State :=
  if (s.layer d l).state = 1 ∧ (s.layer d l).target = 1 then
    (s.beginLayer d l 0).updLayer d l fun y => { y with dbg := true }
  else s
/-- A write of DBGRD that sets GO; one that meets a read under way is discarded. -/
def State.dbgStart (s : State) (v : W64) : State :=
  let slice := bits v 7 0
  let sb := bits v 31 8
  if s.fe.dbgRead.isSome then s
  else
    let st := s.dbgStatus slice sb
    (if st = 1 then s.dbgWake (slice / 64) (layerOfByte sb) else s).updFe fun f => { f with dbgRead := some (slice, sb, st) }
/-- DBGRD. -/
def execDbgrd (m : Nat) (val : W64) (s : State) : Host.Outcome State Fault Refusal :=
  .next (s.asOwner m fun s => if val.getLsbD 63 then s.dbgStart val else s)
/-- The value and the status of a debug read that started with a status. What a cache unit's bytes are is not stated
(free). -/
def State.dbgValue (s : State) (slice sb st : Nat) : W64 × Nat :=
  let free := BitVec.ofNat 64 (leNat ((List.range 8).map fun i => Config.freeByte s.freeCtr i))
  if 2 ≤ st then (0, st)
  else if s.badAt (storeAddr slice sb) then (free, 4)
  else
    match s.dbgExtent slice sb with
    | some x => (if x.addressed then BitVec.ofNat 64 (s.readHomeNat (storeAddr slice sb) 8) else free, st)
    | none => (0, 3)
/-- A debug read is over: a layer that it alone woke sleeps again. -/
def State.dbgSleep (s : State) (d l : Nat) : State :=
  if (s.layer d l).dbg then (s.beginLayer d l 1).updLayer d l fun y => { y with dbg := false } else s
/-- Must a debug read with a status still wait for its layer? One that began in a layer falling asleep waits until it has
been woken, and any waits for a layer that is waking or powering on. A layer that goes OFF is still read (R483). -/
def Layer.dbgWaits (y : Layer) (st : Nat) : Bool :=
  st ≤ 1 && y.target != 2 && (y.state != 0 || (st == 1 && y.target != 0))
/-- DBGRD_DONE, once the layer is awake. DBGDATA keeps its value where there was no read, but for an OFF layer. -/
def dbgDone (s : State) : State :=
  match s.fe.dbgRead with
  | none => s
  | some (slice, sb, st) =>
    let d := slice / 64
    let l := layerOfByte sb
    if (s.layer d l).dbgWaits st then s.dbgWake d l
    else
      let s := if st ≤ 1 then s.met ((List.range 8).map fun i => storeAddr slice sb + i) else s
      let r := s.dbgValue slice sb (if (s.layer d l).state = 2 then max 2 st else st)
      (s.used.dbgSleep d l).updFe fun f =>
        { f with dbgRead := none, rdStatus := r.2, dbgData := if r.2 = 3 then f.dbgData else r.1 }
/-- DBGRD_DONE. -/
def execDbgrdDone (s : State) : Host.Outcome State Fault Refusal := .next (dbgDone s)

/-! ## Clock steps (R6, R485) -/

/-- CLOCK_STEP_DOWN: dies of reserved partitions are never stepped. -/
def execClockStepDown (die : Nat) (s : State) : Host.Outcome State Fault Refusal :=
  .next (if 4 ≤ die ∨ s.dieReserved die = true then s else s.updDie die fun x => { x with clk := max 6 (x.clk - 1) })
/-- CLOCK_STEP_UP: a die that a trip holds stays at 1.5 GHz. -/
def execClockStepUp (die : Nat) (s : State) : Host.Outcome State Fault Refusal :=
  .next (if 4 ≤ die ∨ (s.die die).tripped.isSome = true then s else s.updDie die fun x => { x with clk := min 9 (x.clk + 1) })
/-- THERMAL_TRIP: the die is held at 1.5 GHz for 100 ms, and the reservations with a cluster on it end. -/
def thermalTrip (s : State) (d : Nat) : State :=
  let hit := s.parts.filter fun x => x.2.formed.isSome && (partClusters x.2.cfg).any fun c => c / 12 == d
  let s := hit.foldl (fun (s : State) x => s.dissolve x.1) s
  s.updDie d fun x => { x with clk := 6, tripped := some (s.clock + 225000000) }
/-- THERMAL_TRIP. -/
def execThermalTrip (die : Nat) (s : State) : Host.Outcome State Fault Refusal :=
  .next (s.orWait (if 4 ≤ die then s else thermalTrip s die))
/-- TRIP_HOLD_EXPIRE. -/
def tripExpire (s : State) (d : Nat) : State :=
  match (s.die d).tripped with
  | none => s
  | some t => if s.clock < t then s else (s.updDie d fun x => { x with tripped := none }).fullClocks
/-- TRIP_HOLD_EXPIRE. -/
def execTripHoldExpire (die : Nat) (s : State) : Host.Outcome State Fault Refusal := .next (tripExpire s die)
/-- THERMAL_CRITICAL: every partition halts, and all but the management logic loses power. -/
def thermalCritical (s : State) : State :=
  let s := s.parts.foldl (fun (s : State) x => if x.2.valid then s.haltPart x.1 else s) s
  { s with power := false }
/-- THERMAL_CRITICAL. -/
def execThermalCritical (die : Nat) (s : State) : Host.Outcome State Fault Refusal :=
  .next (s.orWait (if 4 ≤ die then s else thermalCritical s))

end Sys2Proof.Machine
end

