-- ==== Sys2Proof/Machine/VecInt.lean ====
section
/-! DEFINITION. Integer and logic instructions, moves and predicate instructions (R202-R207). -/
namespace Sys2Proof.Machine

/-! ## Values, on natural numbers below 2^w -/

/-- An exact integer wrapped to `w` bits. -/
def wrap (w : Nat) (i : Int) : Nat := (i % 2 ^ w).toNat
/-- An operand read under the signedness of X (R203): two's complement for the signed types. -/
def typed (signed : Bool) (w x : Nat) : Int := if signed then sVal w x else ((x % 2 ^ w : Nat) : Int)
/-- An exact result clamped to the type's range (SAT of R203). -/
def clamp (signed : Bool) (w : Nat) (i : Int) : Int :=
  if signed then max (-(2 ^ (w - 1))) (min i (2 ^ (w - 1) - 1)) else max 0 (min i (2 ^ w - 1))

/-- IADD and ISUB with SAT (R203). -/
def addSat (sat signed : Bool) (w : Nat) (i : Int) : Nat := wrap w (if sat then clamp signed w i else i)

/-- SHF (R203): a funnel of b:a by c mod 64. -/
def shfVal (left : Bool) (a b c : Nat) : Nat :=
  let q := b * 2 ^ 32 + a
  let n := c % 64
  if left then q * 2 ^ n / 2 ^ 32 % 2 ^ 32 else q / 2 ^ n % 2 ^ 32

/-- SAR (R203). DESIGN CHOICE (log 42): an amount with bit 31 set is the large unsigned number that its bits are, so that
it leaves only copies of the sign. -/
def sarVal (w a b : Nat) : Nat := wrap w (sVal w a / 2 ^ (min b w))

/-- Count of set bits of the low `w` bits. -/
def popVal (w a : Nat) : Nat := ((List.range w).filter fun i => a.testBit i).length
/-- Leading zeros (R203). -/
def clzVal (w a : Nat) : Nat := w - bitLen (a % 2 ^ w)
/-- Trailing zeros; 0 gives w (R203). -/
def ctzVal (w a : Nat) : Nat := ((List.range w).find? fun i => a.testBit i).getD w
/-- The bits in reverse order (R203). -/
def brevVal (w a : Nat) : Nat := (List.range w).foldl (fun r i => if a.testBit i then r + 2 ^ (w - 1 - i) else r) 0

/-- Sum of products of `n` elements of `eb` bits (R204). -/
def dotVal (n eb : Nat) (sa sb : Bool) (a b c : Nat) : Nat :=
  wrap 32 ((List.range n).foldl (fun acc k =>
    acc + typed sa eb (a / 2 ^ (eb * k)) * typed sb eb (b / 2 ^ (eb * k))) (c : Int))

/-- BFE (R205). -/
def bfeVal (signed : Bool) (w a b : Nat) : Nat :=
  let pos := b % 256
  let len := min (b / 256 % 256) w
  let ext : Nat := if signed && a.testBit (w - 1) then 1 else 0
  let f := (List.range len).foldl (fun r k =>
    r + (if pos + k < w then (if a.testBit (pos + k) then 1 else 0) else ext) * 2 ^ k) 0
  if len = 0 then 0 else wrap w (typed signed len f)

/-- BFI (R205). -/
def bfiVal (w a b c : Nat) : Nat :=
  let pos := b % 256
  let len := min (b / 256 % 256) w
  (List.range w).foldl (fun r j =>
    r + (if pos ≤ j && j < pos + len then (if a.testBit (j - pos) then 1 else 0)
         else if c.testBit j then 1 else 0) * 2 ^ j) 0

/-- LUT3 (R205): the table indexed by 4*d + 2*a + b, bit by bit. -/
def lut3Val (w table d a b : Nat) : Nat :=
  (List.range w).foldl (fun r j =>
    let i := (if d.testBit j then 4 else 0) + (if a.testBit j then 2 else 0) + (if b.testBit j then 1 else 0)
    r + (if table.testBit i then 2 ^ j else 0)) 0

/-- BSEL (R205): bytes of d:a chosen by the selector's nibbles. -/
def bselVal (d a b : Nat) : Nat :=
  let q := d * 2 ^ 32 + a
  (List.range 4).foldl (fun r k =>
    let n := b / 16 ^ k % 16
    r + (if n < 8 then q / 256 ^ n % 256 else 0) * 256 ^ k) 0

/-- The conditions of R206. -/
def intCond (code : Nat) (a b : Int) : Bool :=
  match code with
  | 0 => a == b
  | 1 => a != b
  | 2 => a < b
  | 3 => a ≤ b
  | 4 => b < a
  | _ => b ≤ a

/-- Combine of R206: none, AND, OR, XOR. -/
def combine (code : Nat) (r p : Bool) : Bool :=
  match code with
  | 0 => r
  | 1 => r && p
  | 2 => r || p
  | _ => r != p

/-! ## Effects -/

/-- A two-source integer result: both operands of the type of X. -/
def intBin (g : Group) (f : Frag) (o : FOp) (op : Nat → Nat → Nat) : Eff :=
  dEff g f o o.w fun i => op (opA g f o o.w i) (opB g f o (intImm o) o.w i)
/-- A shift: B is one 32-bit register (R202). -/
def intShift (g : Group) (f : Frag) (o : FOp) (op : Nat → Nat → Nat) : Eff :=
  dEff g f o o.w fun i => op (opA g f o o.w i) (opB g f o (intImm o) 1 i)
/-- IADDX and ISUBX (R203): `neg` complements b. Carries are predicates, in the lane, or in the lowest member lane
under U = 1. DESIGN CHOICE (log 42): with X = 00 the carry out is that of the operands' bits taken as unsigned, as with
X = 01. -/
def carryEff (g : Group) (f : Frag) (o : FOp) (neg : Bool) : Eff :=
  let pin := g.regs.readP (o.fn % 8)
  let pout := o.fn / 8 % 8
  let sum : Nat → Nat := fun i =>
    let lane := if o.uni then lowestMember f else i
    let b := opB g f o (intImm o) 1 i
    opA g f o 1 i + (if neg then 2 ^ 32 - 1 - b else b) + (if pin.getLsbD lane then 1 else 0)
  { dEff g f o 1 (fun i => sum i % 2 ^ 32) with
    p := (actLanes g f o).map fun i => (pout, if o.uni then lowestMember f else i, 2 ^ 32 ≤ sum i) }
/-- The combined condition of a compare in lane `i` (R206). -/
def withCombine (g : Group) (o : FOp) (i : Nat) (r : Bool) : Bool :=
  combine (o.fn / 16 % 4) r ((g.regs.readP (o.fn / 64 % 8)).getLsbD i)

/-- IADD (R203): a + b, with SAT clamped. -/
def effIadd (o : FOp) (g : Group) (f : Frag) : Eff :=
  intBin g f o fun a b =>
    addSat (o.fn % 2 == 1) o.signed o.wbits (typed o.signed o.wbits a + typed o.signed o.wbits b)
/-- ISUB (R203): a - b, with SAT clamped. -/
def effIsub (o : FOp) (g : Group) (f : Frag) : Eff :=
  intBin g f o fun a b =>
    addSat (o.fn % 2 == 1) o.signed o.wbits (typed o.signed o.wbits a - typed o.signed o.wbits b)
/-- IADDX (R203): add with carry predicates. -/
def effIaddx (o : FOp) (g : Group) (f : Frag) : Eff :=
  carryEff g f o false
/-- ISUBX (R203): subtract with borrow. -/
def effIsubx (o : FOp) (g : Group) (f : Frag) : Eff :=
  carryEff g f o true
/-- IMUL (R203): low half of the product. -/
def effImul (o : FOp) (g : Group) (f : Frag) : Eff :=
  intBin g f o fun a b => a * b % 2 ^ o.wbits
/-- IMULH (R203): high half of the exact product. -/
def effImulh (o : FOp) (g : Group) (f : Frag) : Eff :=
  intBin g f o fun a b =>
    wrap o.wbits (typed o.signed o.wbits a * typed o.signed o.wbits b / 2 ^ o.wbits)
/-- IMULW (R203): the 64-bit product of two 32-bit operands. -/
def effImulw (o : FOp) (g : Group) (f : Frag) : Eff :=
  dEff g f o 2 fun i =>
    wrap 64 (typed o.signed 32 (opA g f o 1 i) * typed o.signed 32 (opB g f o (intImm o) 1 i))
/-- IMAD (R203): a * b + c. -/
def effImad (o : FOp) (g : Group) (f : Frag) : Eff :=
  dEff g f o o.w fun i =>
    (opA g f o o.w i * opB g f o (intImm o) o.w i + opC g f o o.w i) % 2 ^ o.wbits
/-- IMADW (R203): a * b + c with a 64-bit c. -/
def effImadw (o : FOp) (g : Group) (f : Frag) : Eff :=
  dEff g f o 2 fun i =>
    wrap 64 (typed o.signed 32 (opA g f o 1 i) * typed o.signed 32 (opB g f o (intImm o) 1 i) + opC g f o 2 i)
/-- IMIN (R203): the smaller under the signedness of X. -/
def effImin (o : FOp) (g : Group) (f : Frag) : Eff :=
  intBin g f o fun a b =>
    if typed o.signed o.wbits a ≤ typed o.signed o.wbits b then a else b
/-- IMAX (R203): the larger under the signedness of X. -/
def effImax (o : FOp) (g : Group) (f : Frag) : Eff :=
  intBin g f o fun a b =>
    if typed o.signed o.wbits a ≤ typed o.signed o.wbits b then b else a
/-- IABS (R203): the magnitude; the most negative value gives itself. -/
def effIabs (o : FOp) (g : Group) (f : Frag) : Eff :=
  dEff g f o o.w fun i =>
    wrap o.wbits ((sVal o.wbits (opA g f o o.w i)).natAbs : Int)
/-- ISAD (R203): |a - b| + c. -/
def effIsad (o : FOp) (g : Group) (f : Frag) : Eff :=
  dEff g f o 1 fun i =>
    wrap 32 (((typed o.signed 32 (opA g f o 1 i) - typed o.signed 32 (opB g f o (intImm o) 1 i)).natAbs : Int)
      + opC g f o 1 i)
/-- IDOT4 (R204). -/
def effIdot4 (o : FOp) (g : Group) (f : Frag) : Eff :=
  dEff g f o 1 fun i =>
    dotVal 4 8 (o.x == 0 || o.x == 2) (o.x == 0 || o.x == 3) (opA g f o 1 i) (opB g f o .zext 1 i) (opC g f o 1 i)
/-- IDOT2 (R204). -/
def effIdot2 (o : FOp) (g : Group) (f : Frag) : Eff :=
  dEff g f o 1 fun i =>
    dotVal 2 16 (o.x == 0 || o.x == 2) (o.x == 0 || o.x == 3) (opA g f o 1 i) (opB g f o .zext 1 i) (opC g f o 1 i)
/-- AND (R203). -/
def effAnd (o : FOp) (g : Group) (f : Frag) : Eff :=
  intBin g f o fun a b => a &&& b
/-- OR (R203). -/
def effOr (o : FOp) (g : Group) (f : Frag) : Eff :=
  intBin g f o fun a b => a ||| b
/-- XOR (R203). -/
def effXor (o : FOp) (g : Group) (f : Frag) : Eff :=
  intBin g f o fun a b => a ^^^ b
/-- LUT3 (R205): D is the third input. -/
def effLut3 (o : FOp) (g : Group) (f : Frag) : Eff :=
  dEff g f o o.w fun i =>
    lut3Val o.wbits (o.fn % 256) (opD g f o o.w i) (opA g f o o.w i) (opB g f o (intImm o) o.w i)
/-- SHL (R203): zeros shifted in; b at or past w gives 0. -/
def effShl (o : FOp) (g : Group) (f : Frag) : Eff :=
  intShift g f o fun a b => if o.wbits ≤ b then 0 else a * 2 ^ b % 2 ^ o.wbits
/-- SHR (R203). -/
def effShr (o : FOp) (g : Group) (f : Frag) : Eff :=
  intShift g f o fun a b => if o.wbits ≤ b then 0 else a / 2 ^ b
/-- SAR (R203): the sign shifted in. -/
def effSar (o : FOp) (g : Group) (f : Frag) : Eff :=
  intShift g f o fun a b => sarVal o.wbits a b
/-- SHF (R203): funnel shift. -/
def effShf (o : FOp) (g : Group) (f : Frag) : Eff :=
  dEff g f o 1 fun i =>
    shfVal (o.x == 1) (opA g f o 1 i) (opB g f o .zext 1 i) (opC g f o 1 i)
/-- BFE (R205): extract a field. -/
def effBfe (o : FOp) (g : Group) (f : Frag) : Eff :=
  intShift g f o fun a b => bfeVal o.signed o.wbits a b
/-- BFI (R205): insert a field into c. -/
def effBfi (o : FOp) (g : Group) (f : Frag) : Eff :=
  dEff g f o o.w fun i =>
    bfiVal o.wbits (opA g f o o.w i) (opB g f o .zext 1 i) (opC g f o o.w i)
/-- POPC (R203). -/
def effPopc (o : FOp) (g : Group) (f : Frag) : Eff :=
  dEff g f o 1 fun i => popVal o.wbits (opA g f o o.w i)
/-- CLZ (R203). -/
def effClz (o : FOp) (g : Group) (f : Frag) : Eff :=
  dEff g f o 1 fun i => clzVal o.wbits (opA g f o o.w i)
/-- CTZ (R203). -/
def effCtz (o : FOp) (g : Group) (f : Frag) : Eff :=
  dEff g f o 1 fun i => ctzVal o.wbits (opA g f o o.w i)
/-- BREV (R203). -/
def effBrev (o : FOp) (g : Group) (f : Frag) : Eff :=
  dEff g f o o.w fun i => brevVal o.wbits (opA g f o o.w i)
/-- BSEL (R205): D gives bytes 4 to 7. -/
def effBsel (o : FOp) (g : Group) (f : Frag) : Eff :=
  dEff g f o 1 fun i =>
    bselVal (opD g f o 1 i) (opA g f o 1 i) (opB g f o .zext 1 i)
/-- ICMP (R206): the condition, combined, in predicate D. -/
def effIcmp (o : FOp) (g : Group) (f : Frag) : Eff :=
  pEff g f o fun i =>
    withCombine g o i (intCond (o.fn % 16) (typed o.signed o.wbits (opA g f o o.w i))
      (typed o.signed o.wbits (opB g f o (intImm o) o.w i)))
/-- SEL (R206): a where the predicate holds, b elsewhere; under U = 1 read in the lowest member lane. -/
def effSel (o : FOp) (g : Group) (f : Frag) : Eff :=
  let p := g.regs.readP (o.fn % 8)
  dEff g f o o.w fun i =>
    if p.getLsbD (if o.uni then lowestMember f else i) != (o.fn / 8 % 2 == 1) then opA g f o o.w i
    else opB g f o (intImm o) o.w i
/-- MOV (R207). -/
def effMov (o : FOp) (g : Group) (f : Frag) : Eff :=
  dEff g f o o.w fun i => opA g f o o.w i
/-- MOVI (R75, R207): the immediate, sign-extended. -/
def effMovi (o : FOp) (g : Group) (f : Frag) : Eff :=
  dEff g f o 1 fun _ => immExt .sext 32 o.b.immVal
/-- MOVHI (R75, R207): the immediate in bits [31:10], bits [9:0] kept. -/
def effMovhi (o : FOp) (g : Group) (f : Frag) : Eff :=
  dEff g f o 1 fun i =>
    o.b.immVal.toNat * 2 ^ 10 + opD g f o 1 i % 2 ^ 10
/-- PLOP (R207): the truth table of two predicates; under U = 1 bit by bit on scalars. -/
def effPlop (o : FOp) (g : Group) (f : Frag) : Eff :=
  if o.uni then
    let a := opA g f o 1 0
    let b := opB g f o .zext 1 0
    { s := [(o.d.toNat, BitVec.ofNat 32 ((List.range 32).foldl (fun r j =>
        r + (if o.fn.testBit ((if a.testBit j then 2 else 0) + (if b.testBit j then 1 else 0)) then 2 ^ j else 0)) 0))] }
  else
    let a := g.regs.readP (o.a.idx.toNat % 8)
    let b := g.regs.readP (o.cv % 8)
    pEff g f o fun i => o.fn.testBit ((if a.getLsbD i then 2 else 0) + (if b.getLsbD i then 1 else 0))
/-- P2S (R207): the predicate of the Enabled lanes in three scalars, whenever it issues. -/
def effP2s (o : FOp) (g : Group) (f : Frag) : Eff :=
  let m := enabled g f o.guard &&& g.regs.readP (o.a.idx.toNat % 8)
  { s := (List.range 3).map fun k => (o.d.toNat + k, maskPart m k) }
/-- S2P (R207): bits of three scalars in predicate D of the Enabled lanes. -/
def effS2p (o : FOp) (g : Group) (f : Frag) : Eff :=
  pEff g f o fun i => (readS g f (o.a.idx.toNat + i / 32)).getLsbD (i % 32)

/-! ## Meanings -/

/-- IADD (R203). -/
def execIadd (o : FOp) (s : State) : Host.Outcome State Fault Refusal := .next (aluWord (.iadd o) s (effIadd o))
/-- ISUB (R203). -/
def execIsub (o : FOp) (s : State) : Host.Outcome State Fault Refusal := .next (aluWord (.isub o) s (effIsub o))
/-- IADDX (R203). -/
def execIaddx (o : FOp) (s : State) : Host.Outcome State Fault Refusal := .next (aluWord (.iaddx o) s (effIaddx o))
/-- ISUBX (R203). -/
def execIsubx (o : FOp) (s : State) : Host.Outcome State Fault Refusal := .next (aluWord (.isubx o) s (effIsubx o))
/-- IMUL (R203). -/
def execImul (o : FOp) (s : State) : Host.Outcome State Fault Refusal := .next (aluWord (.imul o) s (effImul o))
/-- IMULH (R203). -/
def execImulh (o : FOp) (s : State) : Host.Outcome State Fault Refusal := .next (aluWord (.imulh o) s (effImulh o))
/-- IMULW (R203). -/
def execImulw (o : FOp) (s : State) : Host.Outcome State Fault Refusal := .next (aluWord (.imulw o) s (effImulw o))
/-- IMAD (R203). -/
def execImad (o : FOp) (s : State) : Host.Outcome State Fault Refusal := .next (aluWord (.imad o) s (effImad o))
/-- IMADW (R203). -/
def execImadw (o : FOp) (s : State) : Host.Outcome State Fault Refusal := .next (aluWord (.imadw o) s (effImadw o))
/-- IMIN (R203). -/
def execImin (o : FOp) (s : State) : Host.Outcome State Fault Refusal := .next (aluWord (.imin o) s (effImin o))
/-- IMAX (R203). -/
def execImax (o : FOp) (s : State) : Host.Outcome State Fault Refusal := .next (aluWord (.imax o) s (effImax o))
/-- IABS (R203). -/
def execIabs (o : FOp) (s : State) : Host.Outcome State Fault Refusal := .next (aluWord (.iabs o) s (effIabs o))
/-- ISAD (R203). -/
def execIsad (o : FOp) (s : State) : Host.Outcome State Fault Refusal := .next (aluWord (.isad o) s (effIsad o))
/-- IDOT4 (R204). -/
def execIdot4 (o : FOp) (s : State) : Host.Outcome State Fault Refusal := .next (aluWord (.idot4 o) s (effIdot4 o))
/-- IDOT2 (R204). -/
def execIdot2 (o : FOp) (s : State) : Host.Outcome State Fault Refusal := .next (aluWord (.idot2 o) s (effIdot2 o))
/-- AND (R203). -/
def execAnd (o : FOp) (s : State) : Host.Outcome State Fault Refusal := .next (aluWord (.and o) s (effAnd o))
/-- OR (R203). -/
def execOr (o : FOp) (s : State) : Host.Outcome State Fault Refusal := .next (aluWord (.or o) s (effOr o))
/-- XOR (R203). -/
def execXor (o : FOp) (s : State) : Host.Outcome State Fault Refusal := .next (aluWord (.xor o) s (effXor o))
/-- LUT3 (R205). -/
def execLut3 (o : FOp) (s : State) : Host.Outcome State Fault Refusal := .next (aluWord (.lut3 o) s (effLut3 o))
/-- SHL (R203). -/
def execShl (o : FOp) (s : State) : Host.Outcome State Fault Refusal := .next (aluWord (.shl o) s (effShl o))
/-- SHR (R203). -/
def execShr (o : FOp) (s : State) : Host.Outcome State Fault Refusal := .next (aluWord (.shr o) s (effShr o))
/-- SAR (R203). -/
def execSar (o : FOp) (s : State) : Host.Outcome State Fault Refusal := .next (aluWord (.sar o) s (effSar o))
/-- SHF (R203). -/
def execShf (o : FOp) (s : State) : Host.Outcome State Fault Refusal := .next (aluWord (.shf o) s (effShf o))
/-- BFE (R205). -/
def execBfe (o : FOp) (s : State) : Host.Outcome State Fault Refusal := .next (aluWord (.bfe o) s (effBfe o))
/-- BFI (R205). -/
def execBfi (o : FOp) (s : State) : Host.Outcome State Fault Refusal := .next (aluWord (.bfi o) s (effBfi o))
/-- POPC (R203). -/
def execPopc (o : FOp) (s : State) : Host.Outcome State Fault Refusal := .next (aluWord (.popc o) s (effPopc o))
/-- CLZ (R203). -/
def execClz (o : FOp) (s : State) : Host.Outcome State Fault Refusal := .next (aluWord (.clz o) s (effClz o))
/-- CTZ (R203). -/
def execCtz (o : FOp) (s : State) : Host.Outcome State Fault Refusal := .next (aluWord (.ctz o) s (effCtz o))
/-- BREV (R203). -/
def execBrev (o : FOp) (s : State) : Host.Outcome State Fault Refusal := .next (aluWord (.brev o) s (effBrev o))
/-- BSEL (R205). -/
def execBsel (o : FOp) (s : State) : Host.Outcome State Fault Refusal := .next (aluWord (.bsel o) s (effBsel o))
/-- ICMP (R206). -/
def execIcmp (o : FOp) (s : State) : Host.Outcome State Fault Refusal := .next (aluWord (.icmp o) s (effIcmp o))
/-- SEL (R206). -/
def execSel (o : FOp) (s : State) : Host.Outcome State Fault Refusal := .next (aluWord (.sel o) s (effSel o))
/-- MOV (R207). -/
def execMov (o : FOp) (s : State) : Host.Outcome State Fault Refusal := .next (aluWord (.mov o) s (effMov o))
/-- MOVI (R75, R207). -/
def execMovi (o : FOp) (s : State) : Host.Outcome State Fault Refusal := .next (aluWord (.movi o) s (effMovi o))
/-- MOVHI (R75, R207). -/
def execMovhi (o : FOp) (s : State) : Host.Outcome State Fault Refusal := .next (aluWord (.movhi o) s (effMovhi o))
/-- PLOP (R207). -/
def execPlop (o : FOp) (s : State) : Host.Outcome State Fault Refusal := .next (aluWord (.plop o) s (effPlop o))
/-- P2S (R207). -/
def execP2s (o : FOp) (s : State) : Host.Outcome State Fault Refusal := .next (aluWord (.p2s o) s (effP2s o))
/-- S2P (R207). -/
def execS2p (o : FOp) (s : State) : Host.Outcome State Fault Refusal := .next (aluWord (.s2p o) s (effS2p o))

end Sys2Proof.Machine
end

