-- ==== Sys2Proof/Machine/VecFp.lean ====
section
/-! DEFINITION. Floating-point instructions of the vector engine (R208-R215) and the paired word (R70-R74, R224). -/
namespace Sys2Proof.Machine

/-- Negate and absolute value on the sign bit of a code (R209): FN[base] negates, FN[base + 1] takes the magnitude
first. -/
def signMod (fmt : Fmt) (fn base : Nat) (x : Nat) : Nat :=
  let h := 2 ^ (fmt.width - 1)
  let x := if fn.testBit (base + 1) then x % h else x
  if fn.testBit base then (x + h) % (2 * h) else x

/-- An operation on each element of an operand: one element, or the two halves of a packed register (R208). -/
def perElem (packed : Bool) (op : Nat → Nat → Nat → FRes) (a b c : Nat) : Nat × FFlags :=
  if packed then
    let lo := op (a % 2 ^ 16) (b % 2 ^ 16) (c % 2 ^ 16)
    let hi := op (a / 2 ^ 16 % 2 ^ 16) (b / 2 ^ 16 % 2 ^ 16) (c / 2 ^ 16 % 2 ^ 16)
    (lo.code + 2 ^ 16 * hi.code, lo.fl ||| hi.fl)
  else
    let r := op a b c
    (r.code, r.fl)

/-- The packed format of X[0] (R208). -/
def halfFmt (o : FOp) : Fmt := if o.x.getLsbD 0 then bf16 else fp16
/-- Registers of an element: two for FP64. -/
def Fmt.regs (f : Fmt) : Nat := if f = fp64 then 2 else 1
/-- The immediate form of a format (R75). -/
def Fmt.imm (f : Fmt) : ImmT := if f = fp64 then .fp64 else if f = fp32 then .fp32 else .half2

/-- Sum, difference and product with the modifiers of R209: the operation on codes. -/
def fArith (fmt : Fmt) (op : Fmt → Rm → FVal → FVal → FRes) (rm : Rm) (ftz : Bool) (fn : Nat) (a b : Nat) : FRes :=
  let x := fmt.decode (signMod fmt fn 0 (ftzIn fmt ftz a))
  let y := fmt.decode (signMod fmt fn 2 (ftzIn fmt ftz b))
  ftzRes fmt ftz (op fmt rm x y)

/-- a - b (R211). -/
def fSubV (fmt : Fmt) (rm : Rm) (a b : FVal) : FRes := fAddV fmt rm a b.neg

/-- FMIN and FMAX with the modifiers of R209. -/
def fMinMaxMod (fmt : Fmt) (mx ftz : Bool) (fn : Nat) (a b : Nat) : FRes :=
  fMinMax fmt mx (signMod fmt fn 0 (ftzIn fmt ftz a)) (signMod fmt fn 2 (ftzIn fmt ftz b))

/-- A two-source floating word (R209, R211): `op` on each element. -/
def fBin (fmt : Fmt) (packed : Bool) (op : Fmt → Rm → FVal → FVal → FRes) (o : FOp) (g : Group) (f : Frag) : Eff :=
  dEffFl g f o fmt.regs fun i =>
    perElem packed (fun a b _ => fArith fmt op (rmOverride (o.fn / 16 % 8) g.rm) g.ftz o.fn a b)
      (opA g f o fmt.regs i) (opB g f o fmt.imm fmt.regs i) 0

/-- A fused word (R211): `negP` negates the product, `negC` the addend. -/
def fFused (fmt : Fmt) (packed negP negC : Bool) (o : FOp) (g : Group) (f : Frag) : Eff :=
  dEffFl g f o fmt.regs fun i =>
    perElem packed (fun a b c =>
        ftzRes fmt g.ftz (fFmaV fmt (rmOfMode g.rm) negP negC (fmt.decode (ftzIn fmt g.ftz a))
          (fmt.decode (ftzIn fmt g.ftz b)) (fmt.decode (ftzIn fmt g.ftz c))))
      (opA g f o fmt.regs i) (opB g f o fmt.imm fmt.regs i) (opC g f o fmt.regs i)

/-- A minimum or maximum word (R212). -/
def fMm (fmt : Fmt) (packed mx : Bool) (o : FOp) (g : Group) (f : Frag) : Eff :=
  dEffFl g f o fmt.regs fun i =>
    perElem packed (fun a b _ => fMinMaxMod fmt mx g.ftz o.fn a b)
      (opA g f o fmt.regs i) (opB g f o fmt.imm fmt.regs i) 0

/-- One compare of codes (R213). -/
def fCmpCodes (fmt : Fmt) (ftz : Bool) (code a b : Nat) : Bool × FFlags :=
  fCond code (fmt.decode (ftzIn fmt ftz a)) (fmt.decode (ftzIn fmt ftz b))

/-- FCMP and DCMP (R213): the condition, combined as R206, in predicate D. -/
def fCmpEff (fmt : Fmt) (o : FOp) (g : Group) (f : Frag) : Eff :=
  let r : Nat → Bool × FFlags := fun i =>
    fCmpCodes fmt g.ftz (o.fn % 16) (opA g f o fmt.regs i) (opB g f o fmt.imm fmt.regs i)
  { pEff g f o (fun i => withCombine g o i (r i).1) with
    fl := (actLanes g f o).foldl (fun acc i => acc ||| (r i).2) 0 }

/-- FADD (R211). -/
def effFadd (o : FOp) (g : Group) (f : Frag) : Eff :=
  fBin fp32 false fAddV o g f
/-- FSUB (R211). -/
def effFsub (o : FOp) (g : Group) (f : Frag) : Eff :=
  fBin fp32 false fSubV o g f
/-- FMUL (R211). -/
def effFmul (o : FOp) (g : Group) (f : Frag) : Eff :=
  fBin fp32 false fMulV o g f
/-- FFMA (R211): X[0] negates the product, X[1] the addend. -/
def effFfma (o : FOp) (g : Group) (f : Frag) : Eff :=
  fFused fp32 false (o.x.getLsbD 0) (o.x.getLsbD 1) o g f
/-- FMIN (R212). -/
def effFmin (o : FOp) (g : Group) (f : Frag) : Eff :=
  fMm fp32 false false o g f
/-- FMAX (R212). -/
def effFmax (o : FOp) (g : Group) (f : Frag) : Eff :=
  fMm fp32 false true o g f
/-- FCMP (R213). -/
def effFcmp (o : FOp) (g : Group) (f : Frag) : Eff :=
  fCmpEff fp32 o g f
/-- FRND (R214): to an integral value. -/
def effFrnd (o : FOp) (g : Group) (f : Frag) : Eff :=
  dEffFl g f o 1 fun i =>
    let r := fRound (rmOverride (o.fn % 8) g.rm) (ftzIn fp32 g.ftz (opA g f o 1 i))
    (r.code, r.fl)
/-- FCLASS (R214): the class mask, from the bits as stored. -/
def effFclass (o : FOp) (g : Group) (f : Frag) : Eff :=
  dEff g f o 1 fun i => fClass (opA g f o 1 i)
/-- FCPYS (R214): magnitude of a, sign of b, bit for bit. -/
def effFcpys (o : FOp) (g : Group) (f : Frag) : Eff :=
  dEff g f o 1 fun i =>
    opA g f o 1 i % 2 ^ 31 + opB g f o .fp32 1 i / 2 ^ 31 % 2 * 2 ^ 31
/-- FSCALE (R214): a * 2^b, b a signed integer. -/
def effFscale (o : FOp) (g : Group) (f : Frag) : Eff :=
  dEffFl g f o 1 fun i =>
    let r := ftzRes fp32 g.ftz (fScale (rmOfMode g.rm) (ftzIn fp32 g.ftz (opA g f o 1 i)) (sVal 32 (opB g f o .sext 1 i)))
    (r.code, r.fl)
/-- HADD2 (R211). -/
def effHadd2 (o : FOp) (g : Group) (f : Frag) : Eff :=
  fBin (halfFmt o) true fAddV o g f
/-- HSUB2 (R211). -/
def effHsub2 (o : FOp) (g : Group) (f : Frag) : Eff :=
  fBin (halfFmt o) true fSubV o g f
/-- HMUL2 (R211). -/
def effHmul2 (o : FOp) (g : Group) (f : Frag) : Eff :=
  fBin (halfFmt o) true fMulV o g f
/-- HFMA2 (R211): X[1] negates the addend. -/
def effHfma2 (o : FOp) (g : Group) (f : Frag) : Eff :=
  fFused (halfFmt o) true false (o.x.getLsbD 1) o g f
/-- HMIN2 (R212). -/
def effHmin2 (o : FOp) (g : Group) (f : Frag) : Eff :=
  fMm (halfFmt o) true false o g f
/-- HMAX2 (R212). -/
def effHmax2 (o : FOp) (g : Group) (f : Frag) : Eff :=
  fMm (halfFmt o) true true o g f
/-- HCMP2 (R213): low halves in pD, high halves in p(D + 1); under U = 1 both in scalar D. -/
def effHcmp2 (o : FOp) (g : Group) (f : Frag) : Eff :=
  let fmt := halfFmt o
  let lo : Nat → Bool × FFlags := fun i =>
    fCmpCodes fmt g.ftz (o.fn % 16) (opA g f o 1 i % 2 ^ 16) (opB g f o .half2 1 i % 2 ^ 16)
  let hi : Nat → Bool × FFlags := fun i =>
    fCmpCodes fmt g.ftz (o.fn % 16) (opA g f o 1 i / 2 ^ 16) (opB g f o .half2 1 i / 2 ^ 16)
  let fl := (actLanes g f o).foldl (fun acc i => acc ||| (lo i).2 ||| (hi i).2) 0
  if o.uni then { s := [(o.d.toNat, (if (lo 0).1 then 1 else 0) + (if (hi 0).1 then 2 else 0))], fl := fl }
  else
    { p := (actLanes g f o).flatMap fun i => [(o.d.toNat, i, (lo i).1), (o.d.toNat + 1, i, (hi i).1)], fl := fl }
/-- DADD (R211). -/
def effDadd (o : FOp) (g : Group) (f : Frag) : Eff :=
  fBin fp64 false fAddV o g f
/-- DSUB (R211). -/
def effDsub (o : FOp) (g : Group) (f : Frag) : Eff :=
  fBin fp64 false fSubV o g f
/-- DMUL (R211). -/
def effDmul (o : FOp) (g : Group) (f : Frag) : Eff :=
  fBin fp64 false fMulV o g f
/-- DFMA (R211). -/
def effDfma (o : FOp) (g : Group) (f : Frag) : Eff :=
  fFused fp64 false (o.x.getLsbD 0) (o.x.getLsbD 1) o g f
/-- DMIN (R212). -/
def effDmin (o : FOp) (g : Group) (f : Frag) : Eff :=
  fMm fp64 false false o g f
/-- DMAX (R212). -/
def effDmax (o : FOp) (g : Group) (f : Frag) : Eff :=
  fMm fp64 false true o g f
/-- DCMP (R213). -/
def effDcmp (o : FOp) (g : Group) (f : Frag) : Eff :=
  fCmpEff fp64 o g f

/-! ## Paired words -/

/-- The slot's A after PM (R72): a scalar when PM[2], its magnitude and negation in the float class. -/
def slotA (g : Group) (f : Frag) (sl : Slot) (i : Nat) : Nat :=
  if sl.pm.getLsbD 2 then (readS g f sl.a.toNat).toNat else (g.regs.readV sl.a.toNat i).toNat

/-- D op A of one slot (R71, R224), with the flags it raises. PM[1:0] become FN[3:2] of the float operations. -/
def slotVal (g : Group) (sl : Slot) (d a : Nat) : Nat × FFlags :=
  let fn := (if sl.pm.getLsbD 0 then 4 else 0) + (if sl.pm.getLsbD 1 then 8 else 0)
  let rm := rmOfMode g.rm
  let sgn := sl.pm.getLsbD 0
  match sl.op with
  | .nop => (d, 0)
  | .iadd => ((d + a) % 2 ^ 32, 0)
  | .isub => (wrap 32 ((d : Int) - a), 0)
  | .imul => (d * a % 2 ^ 32, 0)
  | .imin => (if typed sgn 32 d ≤ typed sgn 32 a then d else a, 0)
  | .imax => (if typed sgn 32 d ≤ typed sgn 32 a then a else d, 0)
  | .and => (d &&& a, 0)
  | .or => (d ||| a, 0)
  | .xor => (d ^^^ a, 0)
  | .shl => (if 32 ≤ a then 0 else d * 2 ^ a % 2 ^ 32, 0)
  | .shr => (if 32 ≤ a then 0 else d / 2 ^ a, 0)
  | .sar => (sarVal 32 d a, 0)
  | .mov => (a, 0)
  | .fadd => perElem false (fun x y _ => fArith fp32 fAddV rm g.ftz fn x y) d a 0
  | .fsub => perElem false (fun x y _ => fArith fp32 fSubV rm g.ftz fn x y) d a 0
  | .fmul => perElem false (fun x y _ => fArith fp32 fMulV rm g.ftz fn x y) d a 0
  | .fmin => perElem false (fun x y _ => fMinMaxMod fp32 false g.ftz fn x y) d a 0
  | .fmax => perElem false (fun x y _ => fMinMaxMod fp32 true g.ftz fn x y) d a 0
  | .hadd2 => perElem true (fun x y _ => fArith fp16 fAddV rm g.ftz fn x y) d a 0
  | .hmul2 => perElem true (fun x y _ => fArith fp16 fMulV rm g.ftz fn x y) d a 0
  | .hmin2 => perElem true (fun x y _ => fMinMaxMod fp16 false g.ftz fn x y) d a 0
  | .hmax2 => perElem true (fun x y _ => fMinMaxMod fp16 true g.ftz fn x y) d a 0

/-- One slot in every lane of EnabledPair (R74, R81). -/
def slotEff (sl : Slot) (g : Group) (f : Frag) : Eff :=
  if sl.op = .nop then {}
  else
    let lanes := laneList (liveLanes f)
    let r : Nat → Nat × FFlags := fun i => slotVal g sl (g.regs.readV sl.d.toNat i).toNat (slotA g f sl i)
    { v := lanes.map fun i => (sl.d.toNat, i, BitVec.ofNat 32 (r i).1)
      fl := lanes.foldl (fun acc i => acc ||| (r i).2) 0 }

/-- A paired word (R74, R224): both slots read before either writes. -/
def effPairedWord (s0 s1 : Slot) (g : Group) (f : Frag) : Eff :=
  let e0 := slotEff s0 g f
  let e1 := slotEff s1 g f
  { v := e0.v ++ e1.v, fl := e0.fl ||| e1.fl }

/-! ## Meanings -/

/-- The paired word. -/
def execPairedWord (s0 s1 : Slot) (s : State) : Host.Outcome State Fault Refusal :=
  .next (aluWord (.pairedWord s0 s1) s (effPairedWord s0 s1))
/-- FADD (R211). -/
def execFadd (o : FOp) (s : State) : Host.Outcome State Fault Refusal := .next (aluWord (.fadd o) s (effFadd o))
/-- FSUB (R211). -/
def execFsub (o : FOp) (s : State) : Host.Outcome State Fault Refusal := .next (aluWord (.fsub o) s (effFsub o))
/-- FMUL (R211). -/
def execFmul (o : FOp) (s : State) : Host.Outcome State Fault Refusal := .next (aluWord (.fmul o) s (effFmul o))
/-- FFMA (R211). -/
def execFfma (o : FOp) (s : State) : Host.Outcome State Fault Refusal := .next (aluWord (.ffma o) s (effFfma o))
/-- FMIN (R212). -/
def execFmin (o : FOp) (s : State) : Host.Outcome State Fault Refusal := .next (aluWord (.fmin o) s (effFmin o))
/-- FMAX (R212). -/
def execFmax (o : FOp) (s : State) : Host.Outcome State Fault Refusal := .next (aluWord (.fmax o) s (effFmax o))
/-- FCMP (R213). -/
def execFcmp (o : FOp) (s : State) : Host.Outcome State Fault Refusal := .next (aluWord (.fcmp o) s (effFcmp o))
/-- FRND (R214). -/
def execFrnd (o : FOp) (s : State) : Host.Outcome State Fault Refusal := .next (aluWord (.frnd o) s (effFrnd o))
/-- FCLASS (R214). -/
def execFclass (o : FOp) (s : State) : Host.Outcome State Fault Refusal := .next (aluWord (.fclass o) s (effFclass o))
/-- FCPYS (R214). -/
def execFcpys (o : FOp) (s : State) : Host.Outcome State Fault Refusal := .next (aluWord (.fcpys o) s (effFcpys o))
/-- FSCALE (R214). -/
def execFscale (o : FOp) (s : State) : Host.Outcome State Fault Refusal := .next (aluWord (.fscale o) s (effFscale o))
/-- HADD2 (R211). -/
def execHadd2 (o : FOp) (s : State) : Host.Outcome State Fault Refusal := .next (aluWord (.hadd2 o) s (effHadd2 o))
/-- HSUB2 (R211). -/
def execHsub2 (o : FOp) (s : State) : Host.Outcome State Fault Refusal := .next (aluWord (.hsub2 o) s (effHsub2 o))
/-- HMUL2 (R211). -/
def execHmul2 (o : FOp) (s : State) : Host.Outcome State Fault Refusal := .next (aluWord (.hmul2 o) s (effHmul2 o))
/-- HFMA2 (R211). -/
def execHfma2 (o : FOp) (s : State) : Host.Outcome State Fault Refusal := .next (aluWord (.hfma2 o) s (effHfma2 o))
/-- HMIN2 (R212). -/
def execHmin2 (o : FOp) (s : State) : Host.Outcome State Fault Refusal := .next (aluWord (.hmin2 o) s (effHmin2 o))
/-- HMAX2 (R212). -/
def execHmax2 (o : FOp) (s : State) : Host.Outcome State Fault Refusal := .next (aluWord (.hmax2 o) s (effHmax2 o))
/-- HCMP2 (R213). -/
def execHcmp2 (o : FOp) (s : State) : Host.Outcome State Fault Refusal := .next (aluWord (.hcmp2 o) s (effHcmp2 o))
/-- DADD (R211). -/
def execDadd (o : FOp) (s : State) : Host.Outcome State Fault Refusal := .next (aluWord (.dadd o) s (effDadd o))
/-- DSUB (R211). -/
def execDsub (o : FOp) (s : State) : Host.Outcome State Fault Refusal := .next (aluWord (.dsub o) s (effDsub o))
/-- DMUL (R211). -/
def execDmul (o : FOp) (s : State) : Host.Outcome State Fault Refusal := .next (aluWord (.dmul o) s (effDmul o))
/-- DFMA (R211). -/
def execDfma (o : FOp) (s : State) : Host.Outcome State Fault Refusal := .next (aluWord (.dfma o) s (effDfma o))
/-- DMIN (R212). -/
def execDmin (o : FOp) (s : State) : Host.Outcome State Fault Refusal := .next (aluWord (.dmin o) s (effDmin o))
/-- DMAX (R212). -/
def execDmax (o : FOp) (s : State) : Host.Outcome State Fault Refusal := .next (aluWord (.dmax o) s (effDmax o))
/-- DCMP (R213). -/
def execDcmp (o : FOp) (s : State) : Host.Outcome State Fault Refusal := .next (aluWord (.dcmp o) s (effDcmp o))

end Sys2Proof.Machine
end

