-- ==== Sys2Proof/Machine/LaneX.lean ====
section
/-! DEFINITION. Lane exchange (R216-R223): moves between the lanes of one fragment. -/
namespace Sys2Proof.Machine

/-- Lanes of a segment (R216): code 0 is the whole group. -/
def segLen (code : Nat) : Nat := if code = 0 then 96 else 2 ^ code
/-- First lane of lane i's segment. -/
def segBase (code i : Nat) : Nat := i - i % segLen code

/-- The source lane of LPERM (R218), none where it is not defined. Modes: 0 idx, 1 rot, 2 rev, 3 xor. -/
def lpermSrc (mode code i k : Nat) : Option Nat :=
  let seg := segLen code
  let base := segBase code i
  let o := i - base
  match mode with
  | 0 => if k < seg then some (base + k) else none
  | 1 => some (base + (o + k) % seg)
  | 2 => some (base + (seg - 1 - o))
  | _ => if o ^^^ k < seg then some (base + (o ^^^ k)) else none

/-- LPERM (R218). -/
def effLperm (o : FOp) (g : Group) (f : Frag) : Eff :=
  dEff g f o o.wx fun i =>
    match lpermSrc (o.fn % 4) (o.fn / 4 % 8) i (opB g f o .zext 1 i) with
    | some j => if (liveLanes f).getLsbD j then opA g f o o.wx j else opA g f o o.wx i
    | none => opA g f o o.wx i

/-- PQRY (R219) over the Enabled lanes: every, some, same, count, odd. -/
def effPqry (o : FOp) (g : Group) (f : Frag) : Eff :=
  let ins := laneList (enabled g f o.guard)
  let n := (ins.filter fun i => (g.regs.readP (o.a.idx.toNat % 8)).getLsbD i).length
  match o.fn with
  | 0 => pEff g f o fun _ => n == ins.length
  | 1 => pEff g f o fun _ => 0 < n
  | 2 => pEff g f o fun _ => n == 0 || n == ins.length
  | 3 => { s := [(o.d.toNat, BitVec.ofNat 32 n)] }
  | _ => pEff g f o fun _ => n % 2 == 1

/-- PEER (R220): the lowest Enabled lane of equal value, and how many there are. -/
def effPeer (o : FOp) (g : Group) (f : Frag) : Eff :=
  let ins := laneList (enabled g f o.guard)
  { v := ins.flatMap fun i =>
      let same := ins.filter fun j => opA g f o o.wx j == opA g f o o.wx i
      [(o.d.toNat, i, BitVec.ofNat 32 ((same.head?).getD i)), (o.d.toNat + 1, i, BitVec.ofNat 32 same.length)] }

/-- One step of FOLD and SCAN (R221). Operation 6 is fadd, rounding by SR.FPMODE. -/
def foldStep (g : Group) (o : FOp) (x y : Nat) : Nat × FFlags :=
  let w := o.wbits
  let le := typed o.signed w x ≤ typed o.signed w y
  match o.fn % 8 with
  | 0 => ((x + y) % 2 ^ w, 0)
  | 1 => (if le then x else y, 0)
  | 2 => (if le then y else x, 0)
  | 3 => (x &&& y, 0)
  | 4 => (x ||| y, 0)
  | 5 => (x ^^^ y, 0)
  | _ => let r := fArith fp32 fAddV (rmOfMode g.rm) g.ftz 0 x y; (r.code, r.fl)

/-- The exclusive identity of R221. -/
def foldIdent (o : FOp) : Nat :=
  let w := o.wbits
  match o.fn % 8 with
  | 1 => if o.signed then 2 ^ (w - 1) - 1 else 2 ^ w - 1
  | 2 => if o.signed then 2 ^ (w - 1) else 0
  | 3 => 2 ^ w - 1
  | 6 => 2 ^ 31
  | _ => 0

/-- The running folds of a list of values: after each value, and the flags of all steps (R221). -/
def foldRun (g : Group) (o : FOp) : List Nat → Option Nat → List Nat × FFlags
  | [], _ => ([], 0)
  | x :: xs, acc =>
    let r := match acc with
      | none => (x, (0 : FFlags))
      | some a => foldStep g o a x
    let rest := foldRun g o xs (some r.1)
    (r.1 :: rest.1, r.2 ||| rest.2)

/-- The segments' Enabled lanes, in increasing order (R221). -/
def segments (code : Nat) (lanes : List Nat) : List (List Nat) :=
  ((lanes.map (segBase code)).eraseDups).map fun b => lanes.filter fun i => segBase code i == b

/-- FOLD (R221): every Enabled lane of a segment receives the segment's fold. -/
def effFold (o : FOp) (g : Group) (f : Frag) : Eff :=
  let segs := segments (o.fn / 8 % 8) (laneList (enabled g f o.guard))
  let runs := segs.map fun e => (e, foldRun g o (e.map fun i => opA g f o o.w i) none)
  { v := runs.flatMap fun r => r.1.flatMap fun i => vWrites o.d.toNat i ((r.2.1.getLast?).getD 0) o.w
    fl := runs.foldl (fun acc r => acc ||| r.2.2) 0 }

/-- The fold that lane number m of a segment receives from SCAN: inclusive, or exclusive of its own value. An
exclusive scan makes no step with the last value (R221). -/
def scanVals (g : Group) (o : FOp) (xs : List Nat) : List Nat × FFlags :=
  if o.fn.testBit 6 then
    let r := foldRun g o (xs.take (xs.length - 1)) none
    ((foldIdent o :: r.1).take xs.length, r.2)
  else foldRun g o xs none

/-- SCAN (R221). -/
def effScan (o : FOp) (g : Group) (f : Frag) : Eff :=
  let segs := segments (o.fn / 8 % 8) (laneList (enabled g f o.guard))
  let runs := segs.map fun e => (e, scanVals g o (e.map fun i => opA g f o o.w i))
  { v := runs.flatMap fun r => (r.1.zip r.2.1).flatMap fun p => vWrites o.d.toNat p.1 p.2 o.w
    fl := runs.foldl (fun acc r => acc ||| r.2.2) 0 }

/-- COMPACT (R222): the Enabled lanes' values to the lowest member lanes, live or not. -/
def effCompact (o : FOp) (g : Group) (f : Frag) : Eff :=
  { v := ((laneList f.members).zip (laneList (enabled g f o.guard))).flatMap fun p =>
      vWrites o.d.toNat p.1 (opA g f o o.wx p.2) o.wx }

/-- BCAST (R223): one lane's value to every Enabled lane; 0 where the source lane is not live. -/
def effBcast (o : FOp) (g : Group) (f : Frag) : Eff :=
  let src := if o.fn = 1 then (laneList (enabled g f o.guard)).head?
    else some (opB g f o .zext 1 0)
  dEff g f o o.wx fun _ =>
    match src with
    | some j => if j < 96 ∧ (liveLanes f).getLsbD j then opA g f o o.wx j else 0
    | none => 0

/-- LPERM. -/
def execLperm (o : FOp) (s : State) : Host.Outcome State Fault Refusal := .next (aluWord (.lperm o) s (effLperm o))
/-- PQRY. -/
def execPqry (o : FOp) (s : State) : Host.Outcome State Fault Refusal := .next (aluWord (.pqry o) s (effPqry o))
/-- PEER. -/
def execPeer (o : FOp) (s : State) : Host.Outcome State Fault Refusal := .next (aluWord (.peer o) s (effPeer o))
/-- FOLD. -/
def execFold (o : FOp) (s : State) : Host.Outcome State Fault Refusal := .next (aluWord (.fold o) s (effFold o))
/-- SCAN. -/
def execScan (o : FOp) (s : State) : Host.Outcome State Fault Refusal := .next (aluWord (.scan o) s (effScan o))
/-- COMPACT. -/
def execCompact (o : FOp) (s : State) : Host.Outcome State Fault Refusal :=
  .next (aluWord (.compact o) s (effCompact o))
/-- BCAST. -/
def execBcast (o : FOp) (s : State) : Host.Outcome State Fault Refusal := .next (aluWord (.bcast o) s (effBcast o))

end Sys2Proof.Machine
end

