-- ==== Sys2Proof/Machine/FuncWords.lean ====
section
/-! DEFINITION. The words of the function-and-conversion pipe (R240-R256): read at issue, written when
FC_WORD_COMPLETE completes them, lane by lane (R57, R241). -/
namespace Sys2Proof.Machine

/-- The random word of a conversion in lane i (R236): C when RND = 5. -/
def rndOf (g : Group) (f : Frag) (o : FOp) (i : Nat) : Nat := if o.rnd = 5 then opC g f o 1 i else 0

/-- A function word (R243, R244). -/
def funcEff (opc : Nat) (o : FOp) (g : Group) (f : Frag) : Eff :=
  let fmt := if o.x = 1 then fp64 else fp32
  dEffFl g f o o.wx fun i =>
    let r := funcEval opc fmt (rmOverride (o.fn % 8) g.rm) g.ftz (opA g f o o.wx i)
    (r.code, r.fl)

/-- Convert elements and pack them at `step` bits (R252, R253): values, flags ORed. -/
def packConv (df : Nat) (rm : Nat → Rm) (sat : Bool) (step : Nat) (vs : List FVal) : Nat × FFlags :=
  ((vs.zip (List.range vs.length)).map fun p => (convTo df (rm p.2) sat p.1, p.2)).foldl
    (fun acc r => (acc.1 + r.1.code * 2 ^ (step * r.2), acc.2 ||| r.1.fl)) (0, 0)

/-- RCP (R243-R246): 1/a. -/
def effRcp (o : FOp) (g : Group) (f : Frag) : Eff :=
  funcEff 0x80 o g f
/-- RSQ (R243-R246): 1/√a. -/
def effRsq (o : FOp) (g : Group) (f : Frag) : Eff :=
  funcEff 0x81 o g f
/-- SQRT (R243-R246): √a. -/
def effSqrt (o : FOp) (g : Group) (f : Frag) : Eff :=
  funcEff 0x82 o g f
/-- EXP2 (R243-R246): 2^a. -/
def effExp2 (o : FOp) (g : Group) (f : Frag) : Eff :=
  funcEff 0x83 o g f
/-- LOG2 (R243-R246): log2 a. -/
def effLog2 (o : FOp) (g : Group) (f : Frag) : Eff :=
  funcEff 0x84 o g f
/-- SIN (R243-R246): sin a. -/
def effSin (o : FOp) (g : Group) (f : Frag) : Eff :=
  funcEff 0x85 o g f
/-- COS (R243-R246): cos a. -/
def effCos (o : FOp) (g : Group) (f : Frag) : Eff :=
  funcEff 0x86 o g f
/-- TANH (R243-R246): tanh a. -/
def effTanh (o : FOp) (g : Group) (f : Frag) : Eff :=
  funcEff 0x87 o g f
/-- ERF (R243-R246): erf a. -/
def effErf (o : FOp) (g : Group) (f : Frag) : Eff :=
  funcEff 0x88 o g f
/-- F2I (R249). -/
def effF2i (o : FOp) (g : Group) (f : Frag) : Eff :=
  dEffFl g f o o.w fun i =>
    let r := f2iVal o.x.toNat o.sf o.rnd (rndOf g f o i) (opA g f o (fmtRegs o.sf) i)
    (r.code, r.fl)
/-- I2F (R250). -/
def effI2f (o : FOp) (g : Group) (f : Frag) : Eff :=
  dEffFl g f o (fmtRegs o.df) fun i =>
    let r := i2fVal o.x.toNat o.df o.rnd (rndOf g f o i) (opA g f o o.w i)
    (r.code, r.fl)
/-- F2F (R251). -/
def effF2f (o : FOp) (g : Group) (f : Frag) : Eff :=
  dEffFl g f o (fmtRegs o.df) fun i =>
    let r := convTo o.df (rmOfRnd o.rnd (rndOf g f o i)) (o.x.getLsbD 0) (elemVal o.sf (opA g f o (fmtRegs o.sf) i))
    (r.code, r.fl)
/-- CVPK2 (R252): two FP32 to two halves. -/
def effCvpk2 (o : FOp) (g : Group) (f : Frag) : Eff :=
  dEffFl g f o 1 fun i =>
    let a := opA g f o 2 i
    packConv o.df (fun k => rmOfRnd o.rnd (rotRnd (rndOf g f o i) k)) (o.x.getLsbD 0) 16
      [elemVal 0 a, elemVal 0 (a / 2 ^ 32)]
/-- CVPK4 (R252): four elements to bytes, or to nibbles of the half that HI names. -/
def effCvpk4 (o : FOp) (g : Group) (f : Frag) : Eff :=
  dEffFl g f o 1 fun i =>
    let sw := if o.sf = 0 then 32 else 16
    let a := opA g f o (if o.sf = 0 then 4 else 2) i
    let vs := (List.range 4).map fun k => elemVal o.sf (a / 2 ^ (sw * k) % 2 ^ sw)
    let r := packConv o.df (fun k => rmOfRnd o.rnd (rotRnd (rndOf g f o i) k)) (o.x.getLsbD 0)
      (if fmt4 o.df then 4 else 8) vs
    let old := opD g f o 1 i
    if fmt4 o.df then
      (if o.x.getLsbD 1 then old % 2 ^ 16 + r.1 * 2 ^ 16 else old / 2 ^ 16 * 2 ^ 16 + r.1, r.2)
    else r
/-- UNPK (R253): packed elements to FP32 registers or to halves. -/
def effUnpk (o : FOp) (g : Group) (f : Frag) : Eff :=
  let n := if o.sf = 2 ∨ o.sf = 3 then 2 else 4
  let sw := if n = 2 then 16 else if fmt4 o.sf then 4 else 8
  dEffFl g f o (if o.df = 0 then n else n / 2) fun i =>
    let a := opA g f o 1 i / (if fmt4 o.sf && o.x.getLsbD 1 then 2 ^ 16 else 1)
    packConv o.df (fun k => rmOfRnd o.rnd (rotRnd (rndOf g f o i) k)) false (if o.df = 0 then 32 else 16)
      ((List.range n).map fun k => elemVal o.sf (a / 2 ^ (sw * k) % 2 ^ sw))
/-- BFPQ (R254): each block of 32 lanes quantized over its Enabled lanes. -/
def effBfpq (o : FOp) (g : Group) (f : Frag) : Eff :=
  let lanes := laneList (enabled g f o.guard)
  let w := o.cv / 128 % 8 + 2
  let ex : Nat → Option Nat := fun i => bfpExp w ((lanes.filter fun j => j / 32 == i / 32).map fun j => opA g f o 1 j)
  let res : Nat → Nat × FFlags := fun i =>
    match ex i with
    | none => (255 * 2 ^ 32, flInvalid)
    | some e => let q := bfpQuant w o.rnd (rndOf g f o i) e (opA g f o 1 i); (q.code + e * 2 ^ 32, q.fl)
  dEffFl g f o 2 res
/-- BFPX (R255): q * 2^(E - 127). -/
def effBfpx (o : FOp) (g : Group) (f : Frag) : Eff :=
  dEffFl g f o 1 fun i =>
    let a := opA g f o 2 i
    let r := bfpExpand (o.cv / 128 % 8 + 2) o.rnd (rndOf g f o i) (a % 2 ^ 32) (a / 2 ^ 32)
    (r.code, r.fl)
/-- E2MXD (R256): eight E2M1X elements and the side list to halves. -/
def effE2mxd (o : FOp) (g : Group) (f : Frag) : Eff :=
  dEffFl g f o 4 fun i =>
    let r := e2mxd (opA g f o 1 i) (opC g f o 2 i)
    ((r.1.zip (List.range 8)).foldl (fun acc p => acc + p.1 * 2 ^ (16 * p.2)) 0, r.2)

/-- The register writes of an effect, by 96*register + lane. -/
def fcWrites (e : Eff) : Tab W32 := e.v.foldl (fun (t : Tab W32) (w : Nat × Nat × W32) => Tab.put t (96 * w.1 + w.2.1) w.2.2) []

/-- A word of the pipe: its effect is computed at issue from the registers as they stand, and is outstanding until
FC_WORD_COMPLETE (R241). A word with no Enabled lane is outstanding with nothing to write (R242). -/
def fcWord (i : Instr) (fs : Bool) (s : State) (eff : Group → Frag → Eff) : State :=
  onWord i s never never fun gk g f =>
    let e := eff g f
    trackWord s gk g f fs (.fc (fcWrites e) e.fl g.fpmode)

/-- FC_WORD_COMPLETE (R241): writes the named lanes; when none is left, the flags are ORed into SR.FPFLAGS, enabled
causes are recorded, and the completion flag loses 1. -/
def fcComplete (s : State) (gk op : Nat) (lanes : Lanes) : State :=
  match s.group gk with
  | none => s
  | some g =>
    match g.op op with
    | none => s
    | some x =>
      match x.kind with
      | .fc writes fl mode =>
        let now := List.filter (fun (w : Nat × W32) => lanes.getLsbD (w.1 % 96)) writes
        let later := List.filter (fun (w : Nat × W32) => !lanes.getLsbD (w.1 % 96)) writes
        let g := { g with regs := writeVs g.regs (now.map fun (w : Nat × W32) => (w.1 / 96, w.1 % 96, w.2)) }
        let g := if later = [] then (g.raiseFp mode fl).endOp x else g.setOp op (.fc later fl mode)
        (s.setGroup gk g).taintV gk (now.map fun (w : Nat × W32) => w.1 / 96)
      | _ => s

/-! ## Meanings -/

/-- FC_WORD_COMPLETE. -/
def execFcWordComplete (gk op : Nat) (lanes : Lanes) (s : State) : Host.Outcome State Fault Refusal :=
  .next (fcComplete s gk op lanes)
/-- RCP (R243-R246). -/
def execRcp (o : FOp) (s : State) : Host.Outcome State Fault Refusal :=
  .next (fcWord (.rcp o) o.fs s (effRcp o))
/-- RSQ (R243-R246). -/
def execRsq (o : FOp) (s : State) : Host.Outcome State Fault Refusal :=
  .next (fcWord (.rsq o) o.fs s (effRsq o))
/-- SQRT (R243-R246). -/
def execSqrt (o : FOp) (s : State) : Host.Outcome State Fault Refusal :=
  .next (fcWord (.sqrt o) o.fs s (effSqrt o))
/-- EXP2 (R243-R246). -/
def execExp2 (o : FOp) (s : State) : Host.Outcome State Fault Refusal :=
  .next (fcWord (.exp2 o) o.fs s (effExp2 o))
/-- LOG2 (R243-R246). -/
def execLog2 (o : FOp) (s : State) : Host.Outcome State Fault Refusal :=
  .next (fcWord (.log2 o) o.fs s (effLog2 o))
/-- SIN (R243-R246). -/
def execSin (o : FOp) (s : State) : Host.Outcome State Fault Refusal :=
  .next (fcWord (.sin o) o.fs s (effSin o))
/-- COS (R243-R246). -/
def execCos (o : FOp) (s : State) : Host.Outcome State Fault Refusal :=
  .next (fcWord (.cos o) o.fs s (effCos o))
/-- TANH (R243-R246). -/
def execTanh (o : FOp) (s : State) : Host.Outcome State Fault Refusal :=
  .next (fcWord (.tanh o) o.fs s (effTanh o))
/-- ERF (R243-R246). -/
def execErf (o : FOp) (s : State) : Host.Outcome State Fault Refusal :=
  .next (fcWord (.erf o) o.fs s (effErf o))
/-- F2I (R249). -/
def execF2i (o : FOp) (s : State) : Host.Outcome State Fault Refusal :=
  .next (fcWord (.f2i o) o.fs s (effF2i o))
/-- I2F (R250). -/
def execI2f (o : FOp) (s : State) : Host.Outcome State Fault Refusal :=
  .next (fcWord (.i2f o) o.fs s (effI2f o))
/-- F2F (R251). -/
def execF2f (o : FOp) (s : State) : Host.Outcome State Fault Refusal :=
  .next (fcWord (.f2f o) o.fs s (effF2f o))
/-- CVPK2 (R252). -/
def execCvpk2 (o : FOp) (s : State) : Host.Outcome State Fault Refusal :=
  .next (fcWord (.cvpk2 o) o.fs s (effCvpk2 o))
/-- CVPK4 (R252). -/
def execCvpk4 (o : FOp) (s : State) : Host.Outcome State Fault Refusal :=
  .next (fcWord (.cvpk4 o) o.fs s (effCvpk4 o))
/-- UNPK (R253). -/
def execUnpk (o : FOp) (s : State) : Host.Outcome State Fault Refusal :=
  .next (fcWord (.unpk o) o.fs s (effUnpk o))
/-- BFPQ (R254). -/
def execBfpq (o : FOp) (s : State) : Host.Outcome State Fault Refusal :=
  .next (fcWord (.bfpq o) o.fs s (effBfpq o))
/-- BFPX (R255). -/
def execBfpx (o : FOp) (s : State) : Host.Outcome State Fault Refusal :=
  .next (fcWord (.bfpx o) o.fs s (effBfpx o))
/-- E2MXD (R256). -/
def execE2mxd (o : FOp) (s : State) : Host.Outcome State Fault Refusal :=
  .next (fcWord (.e2mxd o) o.fs s (effE2mxd o))

end Sys2Proof.Machine
end

