-- ==== Sys2Proof/Machine/Mgmt.lean ====
section
/-! DEFINITION. The management registers: ownership, what each write does, and what each read returns (R429-R434). -/
namespace Sys2Proof.Machine

/-! ## Ownership (R430, R431) -/

/-- CLAIM. -/
def State.claimBy (s : State) (m : Nat) : State :=
  if s.fe.owner = 15 ∧ m < 4 then (s.updFe fun f => { f with owner := m }).renewLease else s
/-- OFFER. -/
def State.offerTo (s : State) (m target : Nat) : State :=
  if s.isOwner m then s.updFe fun f => { f with nextOwner := target % 16 } else s
/-- ACCEPT. -/
def State.acceptBy (s : State) (m : Nat) : State :=
  if s.fe.nextOwner = m ∧ m < 4 then (s.updFe fun f => { f with owner := m, nextOwner := 15 }).renewLease else s
/-- RELEASE. -/
def State.releaseBy (s : State) (m : Nat) : State :=
  if s.isOwner m then s.updFe fun f => { f with owner := 15, nextOwner := 15 } else s
/-- A write of OWNER (R430): every write by the owner restarts its lease; no command is served in recovery. -/
def State.ownerCmd (s : State) (m : Nat) (act : State → State) : State :=
  if s.recovering then s else act (if s.isOwner m then s.renewLease else s)
/-- OWNER_CLAIM. -/
def execOwnerClaim (m : Nat) (s : State) : Host.Outcome State Fault Refusal := .next (s.ownerCmd m fun s => s.claimBy m)
/-- OWNER_OFFER. -/
def execOwnerOffer (m target : Nat) (s : State) : Host.Outcome State Fault Refusal :=
  .next (s.ownerCmd m fun s => s.offerTo m target)
/-- OWNER_ACCEPT. -/
def execOwnerAccept (m : Nat) (s : State) : Host.Outcome State Fault Refusal := .next (s.ownerCmd m fun s => s.acceptBy m)
/-- OWNER_RELEASE. -/
def execOwnerRelease (m : Nat) (s : State) : Host.Outcome State Fault Refusal := .next (s.ownerCmd m fun s => s.releaseBy m)
/-- OWNER_RENEW. -/
def execOwnerRenew (m : Nat) (s : State) : Host.Outcome State Fault Refusal := .next (s.ownerCmd m fun s => s)
/-- LEASE_EXPIRE (R431): the owner has written nothing for LEASEMS ms. -/
def leaseExpire (s : State) : State :=
  if s.fe.owner = 15 ∨ s.fe.leaseMs = 0 ∨ s.clock < s.fe.leaseFrom + 2250000 * s.fe.leaseMs then s
  else
    (s.updFe fun f => { f with owner := 15 }).faultLog 0
      { kind := 8, cause := 0xFF, part := 0, gridid := 0xFFFFFFFF, unit := 0, core := 0, epc := 0, eaddr := 0, einfo := 0 }
/-- LEASE_EXPIRE. -/
def execLeaseExpire (s : State) : Host.Outcome State Fault Refusal := .next (s.orWait (leaseExpire s))

/-! ## Reads (R432-R434) -/

/-- LIVECL of a die. -/
def State.liveClusters (s : State) (d : Nat) : Nat :=
  ((List.range 12).map fun c => if s.liveCl.contains (12 * d + c) then 2 ^ c else 0).sum
/-- LIVESL of a die. -/
def State.liveSlices (s : State) (d : Nat) : Nat :=
  ((List.range 64).map fun p => if s.liveSl.contains (64 * d + p) then 2 ^ p else 0).sum
/-- LAYERPWR of a die (R336). -/
def State.layerPwr (s : State) (d : Nat) : Nat := (s.layer d 0).code + 4 * (s.layer d 1).code
/-- MIGSTAT. -/
def State.migStat (s : State) : Nat :=
  ((List.range 16).map fun k => if (s.mig k).isSome then 2 ^ (48 + k) else 0).sum + s.fe.migFailed.toNat * 2 ^ 32
  + s.fe.migSlot % 16 * 2 ^ 12 + s.fe.migCode % 256
/-- DBGSTAT. -/
def State.dbgStat (s : State) : Nat :=
  s.fe.opStatus % 256 * 2 ^ 16 + s.fe.rdStatus % 8 * 2 ^ 8 + 4 * bitOf s.fe.dbgRead.isSome
  + 2 * bitOf (s.groups.any fun g => g.2.halted && s.fe.claim == some g.2.part) + bitOf s.fe.claim.isSome
/-- A BONDSTAT register. -/
def Bond.stat (b : Bond) : Nat := b.spares % 16 * 16 + b.repair % 4 * 4 + 2 * bitOf b.drift
/-- The 32 bytes of a DEVLOG entry. -/
def DevLog.value (e : DevLog) : Nat :=
  e.addr.toNat + e.store * 2 ^ 64 + e.kind * 2 ^ 80 + e.clock.toNat * 2 ^ 128

/-- A register file's element: the offset lies in `count` registers of `n` bytes from `base`. -/
def regIn (off base n count : Nat) : Option Nat := if base ≤ off ∧ off < base + n * count then some ((off - base) / n) else none
/-- The single registers: offset, bytes, value. Fields that are write-only read as zero. -/
def State.singles (s : State) : List (Nat × Nat × Nat) :=
  let f := s.fe
  let p := s.plat
  [(0x000, 4, f.leaseMs % 2 ^ 16 * 2 ^ 8 + f.nextOwner * 16 + f.owner), (0x004, 4, f.ignWr), (0x010, 16, 0x3FF),
   (0x030, 4, p.bin), (0x060, 8, f.saveBase.toNat), (0x068, 8, f.asidTab.toNat), (0x070, 8, f.biasBase.toNat),
   (0x078, 8, 0), (0x080, 4, bitOf f.flip.isSome), (0x088, 4, f.qWeight.toNat), (0x090, 16, 0),
   (0x0A0, 4, bitOf f.inval.isSome), (0x0A4, 4, f.pwrLimit.toNat), (0x0C0, 48, s.rawReg 0x0C0 48), (0x0F0, 8, s.migStat)]
  ++
  [(0x100, 4, f.rinkId.toNat), (0x108, 8, f.routeBase.toNat), (0x110, 4, f.ceThresh.toNat),
   (0x114, 4, p.bootSvn % 2 ^ 16 * 2 ^ 16 + p.bootCode * 2 ^ 8 + p.bootMode), (0x118, 4, 0), (0x120, 16, s.rawReg 0x120 16),
   (0x130, 4, p.fwSvn * 2 ^ 16 + p.fwCode * 2 ^ 8 + bitOf p.fwBusy.isSome), (0x140, 40, s.rawReg 0x140 40),
   (0x168, 4, bitOf p.attest.isSome), (0x180, 72, s.rawReg 0x180 72), (0x200, 16, s.rawReg 0x200 16), (0x210, 8, 0),
   (0x218, 8, f.dbgData.toNat), (0x220, 4, s.dbgStat), (0x4900, 4, 0), (0x4A00, 4, p.devlogProd)]
/-- The files of registers: offset, bytes of one, how many, and the value of each. -/
def State.files (s : State) (off : Nat) : Option (Nat × Nat × Nat) :=
  let file (base n count : Nat) (v : Nat → Nat) : Option (Nat × Nat × Nat) :=
    (regIn off base n count).map fun k => (base + n * k, n, v k)
  [file 0x20 4 4 s.liveClusters, file 0x40 8 4 s.liveSlices, file 0x400 4 4 s.layerPwr,
   file 0x800 16 32 fun k => (Tab.get 0 s.fe.iregions k).toNat, file 0x1000 8 16 fun k => (Tab.get 0 s.fe.exports k).toNat,
   file 0x1100 4 64 fun k => (s.tenant k).rinkKey, file 0x2000 16 64 fun k => (s.partn k).cfg.toNat,
   file 0x2400 4 64 fun k => (s.partn k).code + 256 * bitOf (s.partn k).halted,
   file 0x3000 32 64 fun k => (s.tenant k).tcfg.toNat,
   file 0x3800 16 64 fun k => (s.tenant k).flogProd + (s.tenant k).migStall * 2 ^ 32,
   file 0x4000 4 20 fun k => Tab.get 0 s.plat.ceCount k, file 0x4100 4 512 fun k => (s.bond (k / 2) (k % 2)).stat,
   file 0x6000 32 256 fun k => ((Tab.find s.plat.devlog k).map DevLog.value).getD 0,
   file 0x10000 64 8 fun k => (s.meas k).toNat, file 0x11000 8 512 fun k => leNat ((Config.idCert.drop (8 * k)).take 8),
   file 0x12000 8 512 fun k => leNat ((s.plat.report.drop (8 * k)).take 8),
   file 0x100000 32 4096 fun k => (s.hostq k).cfg.toNat].findSome? id
/-- The register at an offset of BAR 0: its offset, bytes and value. Recovery exposes BOOTSTAT alone (R474). -/
def State.regAt (s : State) (off : Nat) : Option (Nat × Nat × Nat) :=
  let r := match s.singles.find? fun r => decide (r.1 ≤ off) && decide (off < r.1 + r.2.1) with
    | some r => some r
    | none => s.files off
  if s.recovering then r.filter fun x => x.1 == 0x114 else r
/-- A read of `n` bytes of BAR 0 by any master (R429, R432). -/
def State.readReg (s : State) (off n : Nat) : Nat :=
  match s.regAt off with
  | none => 0
  | some (base, _, v) => v / 2 ^ (8 * (off - base)) % 2 ^ (8 * n)
/-- A read of a queue's doorbell page, BAR 2: QHEAD (R442). -/
def State.readHead (s : State) (q : Nat) : Nat := (s.hostq q).head

/-! ## Writes (R432, R433) -/

/-- What a write of TLBINV starts. SCOPE 3 starts nothing. -/
def State.tlbWrite (s : State) (x : Nat) : State :=
  let v := BitVec.ofNat 128 x
  match bits v 1 0 with
  | 0 => s.invalStart { scope := 0, asid := 0, va := 0, pages := 0 }
  | 1 => s.invalStart { scope := 1, asid := bits v 18 6, va := 0, pages := 0 }
  | 2 => s.invalStart { scope := 2, asid := bits v 18 6, va := bits v 127 83, pages := bits v 63 32 }
  | _ => s
/-- What a write of DBGCTL with GO does. -/
def State.dbgWrite (s : State) (x : Nat) : State :=
  let v := BitVec.ofNat 128 x
  match bits v 2 0 with
  | 1 => s.debugClaim (bits v 13 8)
  | 2 => (s.updFe fun f => { f with claim := none }).opStatus 0
  | 3 => s.onHalted (bits v 95 64) (bits v 127 96) State.resumeUnit
  | 4 => s.onHalted (bits v 95 64) (bits v 127 96) State.releaseUnit
  | _ => s
/-- The command registers: offset, bytes, the byte that makes a write act, and what it does. -/
def goRegs : List (Nat × Nat × Nat × (State → Nat → State)) :=
  let go (bit : Nat) (act : State → Nat → State) : State → Nat → State := fun s x => if x.testBit bit then act s x else s
  [(0x078, 8, 0, fun s x => s.flipStart (BitVec.ofNat 64 x)), (0x090, 16, 0, State.tlbWrite),
   (0x0C0, 48, 3, go 31 fun s x => s.migStart (BitVec.ofNat 384 x)),
   (0x120, 16, 3, go 31 fun s x => s.fwStart (BitVec.ofNat 128 x)),
   (0x180, 72, 3, go 31 fun s x => s.measExt (BitVec.ofNat 576 x)), (0x200, 16, 3, go 31 State.dbgWrite),
   (0x210, 8, 7, go 63 fun s x => s.dbgStart (BitVec.ofNat 64 x)),
   (0x4900, 4, 3, go 31 fun s x => s.repairStart (BitVec.ofNat 32 x))]
/-- QWEIGHT as it is kept: a written 0 is taken as 1 (R433). -/
def fixWeights (v : Nat) : Nat := ((List.range 4).map fun c => max 1 (v / 2 ^ (8 * c) % 256) * 2 ^ (8 * c)).sum
/-- PWRLIMIT as it is kept: LIMIT takes 16 to 32. -/
def fixLimit (old v : Nat) : Nat := if 16 ≤ v % 64 ∧ v % 64 ≤ 32 then v % 64 else old % 64
/-- An address register that takes aligned HBM addresses; it keeps its value at any other (log 20). -/
def hbmAddr (old : W64) (v align : Nat) : W64 := if v % align = 0 ∧ v < 2 ^ 40 then BitVec.ofNat 64 v else old
/-- A write of a register that only holds a value, once it is merged; `part` is the value written in its place. -/
def State.plainWrite (s : State) (base v part : Nat) : State :=
  match base with
  | 0x060 => s.updFe fun f => { f with saveBase := hbmAddr f.saveBase v (2 ^ 20) }
  | 0x068 =>
    if v + 2 ^ 17 ≤ 2 ^ 40 then (s.updFe fun f => { f with asidTab := BitVec.ofNat 64 v }).measure (leBytes 8 v) else s
  | 0x070 => s.updFe fun f => { f with biasBase := hbmAddr f.biasBase v (2 ^ 20) }
  | 0x088 => s.updFe fun f => { f with qWeight := BitVec.ofNat 32 (fixWeights v) }
  | 0x0A4 => s.updFe fun f => { f with pwrLimit := BitVec.ofNat 32 (fixLimit f.pwrLimit.toNat v) }
  | 0x0F0 => s.updFe fun f => { f with migFailed := f.migFailed &&& ~~~ BitVec.ofNat 16 (part / 2 ^ 32) }
  | 0x100 => s.updFe fun f => { f with rinkId := BitVec.ofNat 32 (v % 2 ^ 17) }
  | 0x108 => s.updFe fun f => { f with routeBase := hbmAddr f.routeBase v (2 ^ 16) }
  | 0x110 => s.updFe fun f => { f with ceThresh := BitVec.ofNat 32 (v % 2 ^ 16) }
  | _ => s
/-- LAYERPWR of a die (R336): each layer's field is a write of its own; code 3 is ignored. -/
def State.layerWrite (s : State) (d v : Nat) : State :=
  let one (s : State) (l code : Nat) : State :=
    match code with
    | 0 => layerTo s d l 0
    | 1 => if s.layerReserved d l then s else layerTo s d l 1
    | 2 => if s.layerReserved d l then s
        else layerTo (if (s.layer d l).target = 2 then s else s.loseRings d l) d l 2
    | _ => s
  one (one s 0 (v % 4)) 1 (v / 4 % 4)
/-- A write of a register of a file, once it is merged; `k` is the first byte written. -/
def State.fileWrite (s : State) (base v k : Nat) : State :=
  match regIn base 0x400 4 4 with
  | some d => s.layerWrite d v
  | none =>
  match regIn base 0x800 16 32 with
  | some n => s.writeIreg n (BitVec.ofNat 128 v)
  | none =>
  match regIn base 0x1000 8 16 with
  | some n => s.updFe fun f => { f with exports := Tab.put f.exports n (BitVec.ofNat 64 v &&& 0x000000FFC003FFFF) }
  | none =>
  match regIn base 0x1100 4 64 with
  | some t => s.updTenant t fun x => { x with rinkKey := v % 2 ^ 16 }
  | none =>
  match regIn base 0x2000 16 64 with
  | some p => s.partcfg p (BitVec.ofNat 128 v)
  | none =>
  match regIn base 0x3000 32 64 with
  | some t => s.tcfg t (BitVec.ofNat 256 v) (k < 8)
  | none =>
  match regIn base 0x100000 32 4096 with
  | some q => s.qcfg q (BitVec.ofNat 256 v)
  | none => s
/-- A write by the owner of `n` bytes at an offset. -/
def State.ownerWrite (s : State) (off n v : Nat) : State :=
  match goRegs.find? fun r => decide (r.1 ≤ off) && decide (off < r.1 + r.2.1) with
  | some r => s.rawWrite r.1 r.2.1 (off - r.1) n v r.2.2.1 r.2.2.2
  | none =>
    match s.regAt off with
    | none => s
    | some (base, _, old) =>
      let new := mergeBytes old (off - base) n v
      if base < 0x400 then s.plainWrite base new (mergeBytes 0 (off - base) n v) else s.fileWrite base new (off - base)
/-- Is the register at an offset one that only the owner writes (R432)? -/
def ownerReg (off : Nat) : Bool :=
  (goRegs.any fun r => decide (r.1 ≤ off) && decide (off < r.1 + r.2.1))
  || ([(0x060, 24), (0x088, 4), (0x0A4, 4), (0x0F0, 8), (0x100, 4), (0x108, 12), (0x400, 16), (0x800, 512),
       (0x1000, 0x80), (0x1100, 0x100), (0x2000, 0x400), (0x3000, 0x800), (0x100000, 0x20000)] : List (Nat × Nat)).any fun r =>
      decide (r.1 ≤ off) && decide (off < r.1 + r.2)
/-- OWNER (R430): a command, and LEASEMS from the owner. -/
def State.ownerReg (s : State) (m v : Nat) : State :=
  s.ownerCmd m fun s =>
    let s := if s.isOwner m then s.updFe fun f => { f with leaseMs := v / 2 ^ 8 % 2 ^ 16 } else s
    match v / 2 ^ 28 with
    | 1 => s.claimBy m
    | 2 => s.offerTo m (v / 16 % 16)
    | 3 => s.acceptBy m
    | 4 => s.releaseBy m
    | _ => s
/-- The bytes of an access at an offset: `wide` asks for 8, which 8-byte aligned places of registers of 8 bytes and more
take. -/
def State.accessBytes (s : State) (off : Nat) (wide : Bool) : Nat :=
  match s.regAt off with
  | some (_, n, _) => if wide ∧ off % 8 = 0 ∧ n % 8 = 0 then 8 else 4
  | none => if wide ∧ off % 8 = 0 then 8 else 4
/-- A write of `n` bytes of BAR 4 (R464). The manual names the CXL component registers and gives none of them: what they
hold after a write is not stated (free; log 47). Recovery exposes none of them (R474). -/
def State.cxlWrite (s : State) (off n : Nat) : State :=
  if s.recovering then s
  else
    s.used.updPlat fun p =>
      { p with cxlComp := Memory.writeN p.cxlComp off ((List.range n).map fun i => Config.freeByte s.freeCtr i) }
/-- A read of `n` bytes of BAR 4. -/
def State.readCxl (s : State) (off n : Nat) : Nat := if s.recovering then 0 else leNat (Memory.readN s.plat.cxlComp off n)
/-- A write of BAR 0 by a master (R429-R433, R474). An address of 2^26 and above asks for a 4-byte access at the offset
below it, and one of 2^27 and above names BAR 4, where bit 16 asks for 4 bytes (log 13). -/
def State.regWrite (s : State) (m addr v : Nat) : State :=
  if 2 ^ 27 ≤ addr then (if 4 ≤ m ∨ addr % 4 ≠ 0 then s else s.cxlWrite (addr % 2 ^ 16) (if addr / 2 ^ 16 % 2 = 0 ∧ addr % 8 = 0 then 8 else 4))
  else
  let off := addr % 2 ^ 26
  let n := s.accessBytes off (addr < 2 ^ 26)
  let v := v % 2 ^ (8 * n)
  if 4 ≤ m ∨ off % 4 ≠ 0 then s
  else if s.recovering then
    if 0x2000000 ≤ off then s.updPlat fun p => { p with recovery := Memory.writeN p.recovery (off - 0x2000000) (leBytes n v) }
    else if off = 0x118 ∧ v % 2 = 1 then s.recover
    else s
  else if off = 0 then s.ownerReg m v
  else if 0x140 ≤ off ∧ off < 0x168 then
    (if s.isOwner m then s.renewLease else s).rawWrite 0x140 40 (off - 0x140) n v 3 fun s x =>
      if x.testBit 31 then s.attStart (BitVec.ofNat 320 x) else s
  else if Machine.ownerReg off then s.asOwner m fun s => s.ownerWrite off n v
  else if s.isOwner m then s.renewLease
  else s
/-- REGISTER_WRITE. -/
def execRegisterWrite (m addr : Nat) (val : W64) (s : State) : Host.Outcome State Fault Refusal :=
  .next (s.orWait (s.regWrite m addr val.toNat))

end Sys2Proof.Machine
end

