-- ==== Sys2Proof/Machine/Dispatch.lean ====
section
/-! DEFINITION. The dispatch: one arm for each instruction, one direct call of its meaning. -/
namespace Sys2Proof.Machine

/-- The meaning of an instruction. -/
def exec (i : Instr) (s : State) : Host.Outcome State Fault Refusal :=
  match i with
  | .clauseHeader h => Sys2Proof.Machine.execClauseHeader h s
  | .nop o => Sys2Proof.Machine.execNop o s
  | .bra o => Sys2Proof.Machine.execBra o s
  | .brx o => Sys2Proof.Machine.execBrx o s
  | .call o => Sys2Proof.Machine.execCall o s
  | .callx o => Sys2Proof.Machine.execCallx o s
  | .ret o => Sys2Proof.Machine.execRet o s
  | .exit o => Sys2Proof.Machine.execExit o s
  | .regang o => Sys2Proof.Machine.execRegang o s
  | .regangResolve gk => Sys2Proof.Machine.execRegangResolve gk s
  | .regroup o => Sys2Proof.Machine.execRegroup o s
  | .regroupFuse tk => Sys2Proof.Machine.execRegroupFuse tk s
  | .regroupLoneRelease gk => Sys2Proof.Machine.execRegroupLoneRelease gk s
  | .elect o => Sys2Proof.Machine.execElect o s
  | .claim o => Sys2Proof.Machine.execClaim o s
  | .giveback o => Sys2Proof.Machine.execGiveback o s
  | .bararv o => Sys2Proof.Machine.execBararv o s
  | .barwt o => Sys2Proof.Machine.execBarwt o s
  | .barsyn o => Sys2Proof.Machine.execBarsyn o s
  | .barrierWaitReturn gk fid => Sys2Proof.Machine.execBarrierWaitReturn gk fid s
  | .yield o => Sys2Proof.Machine.execYield o s
  | .sleep o => Sys2Proof.Machine.execSleep o s
  | .sleepExpire gk fid => Sys2Proof.Machine.execSleepExpire gk fid s
  | .waitf o => Sys2Proof.Machine.execWaitf o s
  | .rdsr o => Sys2Proof.Machine.execRdsr o s
  | .wrsr o => Sys2Proof.Machine.execWrsr o s
  | .trap o => Sys2Proof.Machine.execTrap o s
  | .tretResume o => Sys2Proof.Machine.execTretResume o s
  | .tretSkip o => Sys2Proof.Machine.execTretSkip o s
  | .tretKill o => Sys2Proof.Machine.execTretKill o s
  | .causeclr o => Sys2Proof.Machine.execCauseclr o s
  | .tmask o => Sys2Proof.Machine.execTmask o s
  | .uimask o => Sys2Proof.Machine.execUimask o s
  | .uret o => Sys2Proof.Machine.execUret o s
  | .bkpt o => Sys2Proof.Machine.execBkpt o s
  | .iadd o => Sys2Proof.Machine.execIadd o s
  | .isub o => Sys2Proof.Machine.execIsub o s
  | .iaddx o => Sys2Proof.Machine.execIaddx o s
  | .isubx o => Sys2Proof.Machine.execIsubx o s
  | .imul o => Sys2Proof.Machine.execImul o s
  | .imulh o => Sys2Proof.Machine.execImulh o s
  | .imulw o => Sys2Proof.Machine.execImulw o s
  | .imad o => Sys2Proof.Machine.execImad o s
  | .imadw o => Sys2Proof.Machine.execImadw o s
  | .imin o => Sys2Proof.Machine.execImin o s
  | .imax o => Sys2Proof.Machine.execImax o s
  | .iabs o => Sys2Proof.Machine.execIabs o s
  | .isad o => Sys2Proof.Machine.execIsad o s
  | .idot4 o => Sys2Proof.Machine.execIdot4 o s
  | .idot2 o => Sys2Proof.Machine.execIdot2 o s
  | .and o => Sys2Proof.Machine.execAnd o s
  | .or o => Sys2Proof.Machine.execOr o s
  | .xor o => Sys2Proof.Machine.execXor o s
  | .lut3 o => Sys2Proof.Machine.execLut3 o s
  | .shl o => Sys2Proof.Machine.execShl o s
  | .shr o => Sys2Proof.Machine.execShr o s
  | .sar o => Sys2Proof.Machine.execSar o s
  | .shf o => Sys2Proof.Machine.execShf o s
  | .bfe o => Sys2Proof.Machine.execBfe o s
  | .bfi o => Sys2Proof.Machine.execBfi o s
  | .popc o => Sys2Proof.Machine.execPopc o s
  | .clz o => Sys2Proof.Machine.execClz o s
  | .ctz o => Sys2Proof.Machine.execCtz o s
  | .brev o => Sys2Proof.Machine.execBrev o s
  | .bsel o => Sys2Proof.Machine.execBsel o s
  | .icmp o => Sys2Proof.Machine.execIcmp o s
  | .sel o => Sys2Proof.Machine.execSel o s
  | .mov o => Sys2Proof.Machine.execMov o s
  | .movi o => Sys2Proof.Machine.execMovi o s
  | .movhi o => Sys2Proof.Machine.execMovhi o s
  | .plop o => Sys2Proof.Machine.execPlop o s
  | .p2s o => Sys2Proof.Machine.execP2s o s
  | .s2p o => Sys2Proof.Machine.execS2p o s
  | .fadd o => Sys2Proof.Machine.execFadd o s
  | .fsub o => Sys2Proof.Machine.execFsub o s
  | .fmul o => Sys2Proof.Machine.execFmul o s
  | .ffma o => Sys2Proof.Machine.execFfma o s
  | .fmin o => Sys2Proof.Machine.execFmin o s
  | .fmax o => Sys2Proof.Machine.execFmax o s
  | .fcmp o => Sys2Proof.Machine.execFcmp o s
  | .frnd o => Sys2Proof.Machine.execFrnd o s
  | .fclass o => Sys2Proof.Machine.execFclass o s
  | .fcpys o => Sys2Proof.Machine.execFcpys o s
  | .fscale o => Sys2Proof.Machine.execFscale o s
  | .hadd2 o => Sys2Proof.Machine.execHadd2 o s
  | .hsub2 o => Sys2Proof.Machine.execHsub2 o s
  | .hmul2 o => Sys2Proof.Machine.execHmul2 o s
  | .hfma2 o => Sys2Proof.Machine.execHfma2 o s
  | .hmin2 o => Sys2Proof.Machine.execHmin2 o s
  | .hmax2 o => Sys2Proof.Machine.execHmax2 o s
  | .hcmp2 o => Sys2Proof.Machine.execHcmp2 o s
  | .dadd o => Sys2Proof.Machine.execDadd o s
  | .dsub o => Sys2Proof.Machine.execDsub o s
  | .dmul o => Sys2Proof.Machine.execDmul o s
  | .dfma o => Sys2Proof.Machine.execDfma o s
  | .dmin o => Sys2Proof.Machine.execDmin o s
  | .dmax o => Sys2Proof.Machine.execDmax o s
  | .dcmp o => Sys2Proof.Machine.execDcmp o s
  | .lperm o => Sys2Proof.Machine.execLperm o s
  | .pqry o => Sys2Proof.Machine.execPqry o s
  | .peer o => Sys2Proof.Machine.execPeer o s
  | .fold o => Sys2Proof.Machine.execFold o s
  | .scan o => Sys2Proof.Machine.execScan o s
  | .compact o => Sys2Proof.Machine.execCompact o s
  | .bcast o => Sys2Proof.Machine.execBcast o s
  | .pairedWord s0 s1 => Sys2Proof.Machine.execPairedWord s0 s1 s
  | .rcp o => Sys2Proof.Machine.execRcp o s
  | .rsq o => Sys2Proof.Machine.execRsq o s
  | .sqrt o => Sys2Proof.Machine.execSqrt o s
  | .exp2 o => Sys2Proof.Machine.execExp2 o s
  | .log2 o => Sys2Proof.Machine.execLog2 o s
  | .sin o => Sys2Proof.Machine.execSin o s
  | .cos o => Sys2Proof.Machine.execCos o s
  | .tanh o => Sys2Proof.Machine.execTanh o s
  | .erf o => Sys2Proof.Machine.execErf o s
  | .f2i o => Sys2Proof.Machine.execF2i o s
  | .i2f o => Sys2Proof.Machine.execI2f o s
  | .f2f o => Sys2Proof.Machine.execF2f o s
  | .cvpk2 o => Sys2Proof.Machine.execCvpk2 o s
  | .cvpk4 o => Sys2Proof.Machine.execCvpk4 o s
  | .unpk o => Sys2Proof.Machine.execUnpk o s
  | .bfpq o => Sys2Proof.Machine.execBfpq o s
  | .bfpx o => Sys2Proof.Machine.execBfpx o s
  | .e2mxd o => Sys2Proof.Machine.execE2mxd o s
  | .fcWordComplete gk op lanes => Sys2Proof.Machine.execFcWordComplete gk op lanes s
  | .mmah o => Sys2Proof.Machine.execMmah o s
  | .mmaq8 o => Sys2Proof.Machine.execMmaq8 o s
  | .mmaq6 o => Sys2Proof.Machine.execMmaq6 o s
  | .mmaq4 o => Sys2Proof.Machine.execMmaq4 o s
  | .mmai8 o => Sys2Proof.Machine.execMmai8 o s
  | .mmabfp o => Sys2Proof.Machine.execMmabfp o s
  | .msca o => Sys2Proof.Machine.execMsca o s
  | .maccld o => Sys2Proof.Machine.execMaccld o s
  | .maccldScratch o => Sys2Proof.Machine.execMaccldScratch o s
  | .maccst o => Sys2Proof.Machine.execMaccst o s
  | .maccstScratch o => Sys2Proof.Machine.execMaccstScratch o s
  | .maccz o => Sys2Proof.Machine.execMaccz o s
  | .mfence o => Sys2Proof.Machine.execMfence o s
  | .mwait o => Sys2Proof.Machine.execMwait o s
  | .mwaitComplete gk op => Sys2Proof.Machine.execMwaitComplete gk op s
  | .mxstat o => Sys2Proof.Machine.execMxstat o s
  | .matrixRequestAccept cl rq => Sys2Proof.Machine.execMatrixRequestAccept cl rq s
  | .matrixRequestStart core => Sys2Proof.Machine.execMatrixRequestStart core s
  | .matrixRequestRetire cl rq => Sys2Proof.Machine.execMatrixRequestRetire cl rq s
  | .relayTokenMove die tok => Sys2Proof.Machine.execRelayTokenMove die tok s
  | .tokenReleasePasses core => Sys2Proof.Machine.execTokenReleasePasses core s
  | .tokenReleaseIdle core => Sys2Proof.Machine.execTokenReleaseIdle core s
  | .ldl o => Sys2Proof.Machine.execLdl o s
  | .stl o => Sys2Proof.Machine.execStl o s
  | .ldc o => Sys2Proof.Machine.execLdc o s
  | .stc o => Sys2Proof.Machine.execStc o s
  | .atoml o => Sys2Proof.Machine.execAtoml o s
  | .atomc o => Sys2Proof.Machine.execAtomc o s
  | .casl o => Sys2Proof.Machine.execCasl o s
  | .waita o => Sys2Proof.Machine.execWaita o s
  | .waitaSatisfied gk fid => Sys2Proof.Machine.execWaitaSatisfied gk fid s
  | .waitaRepoll gk fid => Sys2Proof.Machine.execWaitaRepoll gk fid s
  | .localAccessComplete gk op parts lanes => Sys2Proof.Machine.execLocalAccessComplete gk op parts lanes s
  | .ldg o => Sys2Proof.Machine.execLdg o s
  | .stg o => Sys2Proof.Machine.execStg o s
  | .lds o => Sys2Proof.Machine.execLds o s
  | .sts o => Sys2Proof.Machine.execSts o s
  | .atomg o => Sys2Proof.Machine.execAtomg o s
  | .redg o => Sys2Proof.Machine.execRedg o s
  | .casg o => Sys2Proof.Machine.execCasg o s
  | .fence o => Sys2Proof.Machine.execFence o s
  | .waitge o => Sys2Proof.Machine.execWaitge o s
  | .waitgeSatisfied gk fid => Sys2Proof.Machine.execWaitgeSatisfied gk fid s
  | .waitgeRepoll gk fid => Sys2Proof.Machine.execWaitgeRepoll gk fid s
  | .pref o => Sys2Proof.Machine.execPref o s
  | .wbl1 o => Sys2Proof.Machine.execWbl1 o s
  | .wbl1All o => Sys2Proof.Machine.execWbl1All o s
  | .invl1 o => Sys2Proof.Machine.execInvl1 o s
  | .invl1All o => Sys2Proof.Machine.execInvl1All o s
  | .globalAccessComplete gk op lanes => Sys2Proof.Machine.execGlobalAccessComplete gk op lanes s
  | .homeAccess gk op part => Sys2Proof.Machine.execHomeAccess gk op part s
  | .writeBackArrive core k => Sys2Proof.Machine.execWriteBackArrive core k s
  | .missFill slice line => Sys2Proof.Machine.execMissFill slice line s
  | .pin o => Sys2Proof.Machine.execPin o s
  | .unpin o => Sys2Proof.Machine.execUnpin o s
  | .kvins o => Sys2Proof.Machine.execKvins o s
  | .kvinsSwitch gk op => Sys2Proof.Machine.execKvinsSwitch gk op s
  | .kvlook o => Sys2Proof.Machine.execKvlook o s
  | .kvdrop o => Sys2Proof.Machine.execKvdrop o s
  | .xpose o => Sys2Proof.Machine.execXpose o s
  | .stqry o => Sys2Proof.Machine.execStqry o s
  | .storeInstrComplete gk op => Sys2Proof.Machine.execStoreInstrComplete gk op s
  | .layerActive m die layer => Sys2Proof.Machine.execLayerActive m die layer s
  | .layerRetention m die layer => Sys2Proof.Machine.execLayerRetention m die layer s
  | .layerOff m die layer => Sys2Proof.Machine.execLayerOff m die layer s
  | .layerTransitionDone die layer => Sys2Proof.Machine.execLayerTransitionDone die layer s
  | .iregionWrite m n val => Sys2Proof.Machine.execIregionWrite m n val s
  | .armac o => Sys2Proof.Machine.execArmac o s
  | .disarm o => Sys2Proof.Machine.execDisarm o s
  | .acrd o => Sys2Proof.Machine.execAcrd o s
  | .taskq o => Sys2Proof.Machine.execTaskq o s
  | .triggerInstrComplete gk op => Sys2Proof.Machine.execTriggerInstrComplete gk op s
  | .countSend slice entry => Sys2Proof.Machine.execCountSend slice entry s
  | .countArrive k => Sys2Proof.Machine.execCountArrive k s
  | .barrierAddAction e => Sys2Proof.Machine.execBarrierAddAction e s
  | .taskPushAction e => Sys2Proof.Machine.execTaskPushAction e s
  | .deferredPush e => Sys2Proof.Machine.execDeferredPush e s
  | .userInterruptAction e => Sys2Proof.Machine.execUserInterruptAction e s
  | .taskDispatch die => Sys2Proof.Machine.execTaskDispatch die s
  | .leap o => Sys2Proof.Machine.execLeap o s
  | .leapReg o => Sys2Proof.Machine.execLeapReg o s
  | .send o => Sys2Proof.Machine.execSend o s
  | .sendDeliver gk op core => Sys2Proof.Machine.execSendDeliver gk op core s
  | .segrep o => Sys2Proof.Machine.execSegrep o s
  | .departure gk fid => Sys2Proof.Machine.execDeparture gk fid s
  | .recordForward core k => Sys2Proof.Machine.execRecordForward core k s
  | .arrivalAdmit core => Sys2Proof.Machine.execArrivalAdmit core s
  | .launchRecord grid => Sys2Proof.Machine.execLaunchRecord grid s
  | .depthHint core => Sys2Proof.Machine.execDepthHint core s
  | .mapUpdate core => Sys2Proof.Machine.execMapUpdate core s
  | .repinLoad core => Sys2Proof.Machine.execRepinLoad core s
  | .ringNotify tk => Sys2Proof.Machine.execRingNotify tk s
  | .copyTake tk => Sys2Proof.Machine.execCopyTake tk s
  | .copy cl uid => Sys2Proof.Machine.execCopy cl uid s
  | .mcast cl uid => Sys2Proof.Machine.execMcast cl uid s
  | .window cl uid => Sys2Proof.Machine.execWindow cl uid s
  | .spx cl uid => Sys2Proof.Machine.execSpx cl uid s
  | .gather cl uid => Sys2Proof.Machine.execGather cl uid s
  | .scatter cl uid => Sys2Proof.Machine.execScatter cl uid s
  | .fill cl uid => Sys2Proof.Machine.execFill cl uid s
  | .xposeq cl uid => Sys2Proof.Machine.execXposeq cl uid s
  | .copyFence cl uid => Sys2Proof.Machine.execCopyFence cl uid s
  | .notify cl uid => Sys2Proof.Machine.execNotify cl uid s
  | .copyDelivered cl uid => Sys2Proof.Machine.execCopyDelivered cl uid s
  | .wholeApply cl uid => Sys2Proof.Machine.execWholeApply cl uid s
  | .userInterruptDeliver gk fid => Sys2Proof.Machine.execUserInterruptDeliver gk fid s
  | .deferredTrapDeliver gk fid => Sys2Proof.Machine.execDeferredTrapDeliver gk fid s
  | .killUnitDrained u => Sys2Proof.Machine.execKillUnitDrained u s
  | .waitTimeout gk fid => Sys2Proof.Machine.execWaitTimeout gk fid s
  | .swapOut gk => Sys2Proof.Machine.execSwapOut gk s
  | .swapIn core uid => Sys2Proof.Machine.execSwapIn core uid s
  | .groupRetire gk => Sys2Proof.Machine.execGroupRetire gk s
  | .teamComplete tk => Sys2Proof.Machine.execTeamComplete tk s
  | .gridComplete grid => Sys2Proof.Machine.execGridComplete grid s
  | .preemptCapture u => Sys2Proof.Machine.execPreemptCapture u s
  | .ownerClaim m => Sys2Proof.Machine.execOwnerClaim m s
  | .ownerOffer m target => Sys2Proof.Machine.execOwnerOffer m target s
  | .ownerAccept m => Sys2Proof.Machine.execOwnerAccept m s
  | .ownerRelease m => Sys2Proof.Machine.execOwnerRelease m s
  | .ownerRenew m => Sys2Proof.Machine.execOwnerRenew m s
  | .leaseExpire => Sys2Proof.Machine.execLeaseExpire s
  | .registerWrite m addr val => Sys2Proof.Machine.execRegisterWrite m addr val s
  | .tcfgWrite m n val => Sys2Proof.Machine.execTcfgWrite m n val s
  | .partcfgWrite m n val => Sys2Proof.Machine.execPartcfgWrite m n val s
  | .qcfgWrite m n val => Sys2Proof.Machine.execQcfgWrite m n val s
  | .qtail q val => Sys2Proof.Machine.execQtail q val s
  | .packetTake => Sys2Proof.Machine.execPacketTake s
  | .launch q k => Sys2Proof.Machine.execLaunch q k s
  | .resume q k => Sys2Proof.Machine.execResume q k s
  | .teamAdmit part => Sys2Proof.Machine.execTeamAdmit part s
  | .taskbind q k => Sys2Proof.Machine.execTaskbind q k s
  | .taskbindUnbind q k => Sys2Proof.Machine.execTaskbindUnbind q k s
  | .arm q k => Sys2Proof.Machine.execArm q k s
  | .copyPacket q k => Sys2Proof.Machine.execCopyPacket q k s
  | .wait q k => Sys2Proof.Machine.execWait q k s
  | .waitSatisfied q k => Sys2Proof.Machine.execWaitSatisfied q k s
  | .waitLimit q k => Sys2Proof.Machine.execWaitLimit q k s
  | .signal q k => Sys2Proof.Machine.execSignal q k s
  | .preemptRequeue q k => Sys2Proof.Machine.execPreemptRequeue q k s
  | .preemptPark q k => Sys2Proof.Machine.execPreemptPark q k s
  | .preemptDiscard q k => Sys2Proof.Machine.execPreemptDiscard q k s
  | .pageWalk core asid vpage => Sys2Proof.Machine.execPageWalk core asid vpage s
  | .tlbinvAll m => Sys2Proof.Machine.execTlbinvAll m s
  | .tlbinvAsid m asid => Sys2Proof.Machine.execTlbinvAsid m asid s
  | .tlbinvRange m asid va pages => Sys2Proof.Machine.execTlbinvRange m asid va pages s
  | .tlbinvDone => Sys2Proof.Machine.execTlbinvDone s
  | .migcmd m val => Sys2Proof.Machine.execMigcmd m val s
  | .migrationCopyPass slot => Sys2Proof.Machine.execMigrationCopyPass slot s
  | .migrationFinalPass slot => Sys2Proof.Machine.execMigrationFinalPass slot s
  | .migrationUnmapped slot => Sys2Proof.Machine.execMigrationUnmapped slot s
  | .biasflipToHost m val => Sys2Proof.Machine.execBiasflipToHost m val s
  | .biasflipToDevice m val => Sys2Proof.Machine.execBiasflipToDevice m val s
  | .biasflipDone => Sys2Proof.Machine.execBiasflipDone s
  | .cxlMemAccess addr data => Sys2Proof.Machine.execCxlMemAccess addr data s
  | .rinkRequest port off key op => Sys2Proof.Machine.execRinkRequest port off key op s
  | .rinkRefusal r a b c => Sys2Proof.Machine.execRinkRefusal r a b c s
  | .flitReplay port => Sys2Proof.Machine.execFlitReplay port s
  | .linkTrain lanes speed => Sys2Proof.Machine.execLinkTrain lanes speed s
  | .packageReset => Sys2Proof.Machine.execPackageReset s
  | .recovergo => Sys2Proof.Machine.execRecovergo s
  | .fwupdate m val => Sys2Proof.Machine.execFwupdate m val s
  | .fwupdateDone ok => Sys2Proof.Machine.execFwupdateDone ok s
  | .attreq m val => Sys2Proof.Machine.execAttreq m val s
  | .attreqDone => Sys2Proof.Machine.execAttreqDone s
  | .measext m val => Sys2Proof.Machine.execMeasext m val s
  | .scrub addr => Sys2Proof.Machine.execScrub addr s
  | .bondCheck slice layer drift => Sys2Proof.Machine.execBondCheck slice layer drift s
  | .bondrepair m val => Sys2Proof.Machine.execBondrepair m val s
  | .bondrepairDone ok => Sys2Proof.Machine.execBondrepairDone ok s
  | .debugClaim m part => Sys2Proof.Machine.execDebugClaim m part s
  | .debugRelease m => Sys2Proof.Machine.execDebugRelease m s
  | .debugResume m gridid unit => Sys2Proof.Machine.execDebugResume m gridid unit s
  | .debugReleaseToHandler m gridid unit => Sys2Proof.Machine.execDebugReleaseToHandler m gridid unit s
  | .dbgrd m val => Sys2Proof.Machine.execDbgrd m val s
  | .dbgrdDone => Sys2Proof.Machine.execDbgrdDone s
  | .clockStepDown die => Sys2Proof.Machine.execClockStepDown die s
  | .clockStepUp die => Sys2Proof.Machine.execClockStepUp die s
  | .thermalTrip die => Sys2Proof.Machine.execThermalTrip die s
  | .tripHoldExpire die => Sys2Proof.Machine.execTripHoldExpire die s
  | .thermalCritical die => Sys2Proof.Machine.execThermalCritical die s
  | .mxstatComplete gk op => Sys2Proof.Machine.execMxstatComplete gk op s
  | .segrepComplete gk op => Sys2Proof.Machine.execSegrepComplete gk op s
  | .cxlCacheSnoop addr taken => Sys2Proof.Machine.execCxlCacheSnoop addr taken s
  | .powerFailure => Sys2Proof.Machine.execPowerFailure s
  | .copyPacketDone q k => Sys2Proof.Machine.execCopyPacketDone q k s

end Sys2Proof.Machine
end

