-- ==== Sys2Proof/Machine/Issue.lean ====
section
/-! DEFINITION. One issue cycle of a core (R58, R99): which fragment is selected, and which word it issues; what a turn
begins and ends with; and the placing of one word where the next step fetches (log 1, log 2). -/
namespace Sys2Proof.Machine

/-- What an issue cycle comes to: an instruction to execute, or a state in which nothing is left to execute. -/
inductive Issued where
  | act (s : State) (i : Instr)
  | done (s : State)

/-- The next word of a fragment (R51, R58): the header it stands at, or a word of its clause; an uncorrectable error in
the instruction store ends the unit (R479). A clause re-entered has its
header read again, without its WAITMASK. -/
def State.nextWord (s : State) (gk : Nat) (g : Group) (f : Frag) : Issued :=
  let sel := { s with sel := some { gk := gk, fid := f.id } }
  if s.badFetch (coreOf gk) g f.addr || s.badFetch (coreOf gk) g f.hdr then
    .done (s.killAt gk (g.record 11 { eaddr := BitVec.ofNat 64 f.addr, detail := 0 }) f 11)
  else if f.denial.isSome then .done (takeTrap s gk g f (f.denial.map fun x => (4, { eaddr := x.1, detail := x.2 })).toList)
  else if f.word = 0 then
    match f.hw with
    | some h => .act sel (.clauseHeader h)
    | none =>
      match s.fetchHeader gk g f f.hdr with
      | (s, .error c) => .done (takeTrap s gk g f [c])
      | (s, .ok h) => .act { s with sel := sel.sel } (.clauseHeader h)
  else
    let r : State × Except (Nat × CauseRec) Header :=
      match f.hw with
      | some h => (s, .ok h)
      | none => s.fetchHeader gk g f f.hdr
    match r with
    | (s, .error c) => .done (takeTrap s gk g f [c])
    | (s, .ok h) =>
      let f := { f with hw := some h }
      let g := g.setFrag f
      match s.fetchWord gk g f f.addr with
      | (s, .error c) => .done (takeTrap s gk g f [c])
      | (s, .ok w) =>
        match decodeWord w with
        | .error _ => .done (takeTrap s gk g f [plainCause 0])
        | .ok i =>
          if (Instr.flagSel i).isSome && s.departing gk g then .done (waitWord s gk g f .fenceHold)
          else .act { s.setGroup gk g with sel := sel.sel } i

/-- A fetch whose translation must wait comes to nothing yet (R326, R348). -/
def Issued.orWait (x : Issued) (s : State) : Issued :=
  match x with
  | .act t i => if t.stall && !s.stall then .done (s.again t) else .act t i
  | .done t => .done (s.orWait t)

/-- One issue cycle of a core (R99): a TIMEOUT that can be delivered goes to the fragment that waits (R115); otherwise
one eligible fragment is selected, at which a due cause or user interrupt is delivered in place of its instruction
word. -/
def State.issue (s : State) (core : Nat) : Issued :=
  let all := s.fragsOn core
  match all.find? fun x => x.2.1.timeoutDue && !s.stopped x.2.1 && x.2.2.free && s.timedOut x.2.1 x.2.2 with
  | some x => .act s (.deferredTrapDeliver x.1 x.2.2.id)
  | none =>
    match s.picked core with
    | none => .done (s.aged core [] none)
    | some (gk, g, f) =>
      let s := s.aged core (s.considered core) (some (gk, f.id))
      let sel := { s with sel := some { gk := gk, fid := f.id } }
      if f.free && f.atWord && dueCauses g.trap != [] && g.trap.plevel == 0 then .act sel (.deferredTrapDeliver gk f.id)
      else if f.free && f.atWord && g.uiDue then .act s (.userInterruptDeliver gk f.id)
      else
        match s.group gk with
        | none => .done s
        | some g =>
          match g.frag f.id with
          | none => .done s
          | some f => (sel.nextWord gk g f).orWait sel

/-- The turn that comes next: the first of the schedule, or, when it is empty, the one that Config chooses (log 1). -/
def State.nextTurn (s : State) : Turn :=
  match s.sched with
  | t :: _ => t
  | [] => Config.turn s.turnNo
/-- The act by which an engine's requests are known: both turns that read for a WAITGE are one. -/
def Act.known (x : Act) : Act := match x with | .event (.waitgeRepoll a b) => .event (.waitgeSatisfied a b) | x => x
/-- The state at the beginning of a turn: its cycles have passed, and nothing is selected. -/
def State.begin (s : State) : State :=
  let t := s.countTokwait s.nextTurn.dt
  { t with sched := s.sched.drop 1, turnNo := s.turnNo + 1, clock := s.clock + s.nextTurn.dt, sel := none
           acting := some s.nextTurn.act.known, asks := [] }
/-- Events of the management logic, which keeps its power when the package removes it from all else (R485). -/
def Instr.mgmt (i : Instr) : Bool :=
  match i with
  | .ownerClaim _ => true
  | .ownerOffer _ _ => true
  | .ownerAccept _ => true
  | .ownerRelease _ => true
  | .ownerRenew _ => true
  | .leaseExpire => true
  | .registerWrite _ _ _ => true
  | .tcfgWrite _ _ _ => true
  | .partcfgWrite _ _ _ => true
  | .qcfgWrite _ _ _ => true
  | .iregionWrite _ _ _ => true
  | .layerActive _ _ _ => true
  | .layerRetention _ _ _ => true
  | .layerOff _ _ _ => true
  | .tlbinvAll _ => true
  | .tlbinvAsid _ _ => true
  | .tlbinvRange _ _ _ _ => true
  | .migcmd _ _ => true
  | .biasflipToHost _ _ => true
  | .biasflipToDevice _ _ => true
  | .linkTrain _ _ => true
  | .attreq _ _ => true
  | .attreqDone => true
  | .measext _ _ => true
  | .fwupdate _ _ => true
  | .bondrepair _ _ => true
  | .debugClaim _ _ => true
  | .debugRelease _ => true
  | .debugResume _ _ _ => true
  | .debugReleaseToHandler _ _ _ => true
  | .dbgrd _ _ => true
  | .powerFailure => true
  | _ => false

/-- May the turn act? Without power only a package reset does, or the management logic where that has power (R474,
R485). -/
def State.powered (s : State) : Bool :=
  s.power || s.nextTurn.act == .event .packageReset
  || (s.plat.mgmtOn && (match s.nextTurn.act with | .event i => Instr.mgmt i | .issue _ => false))

/-- What holds at once after every turn: groups whose flags have fallen arrive at their REGROUP (R104), groups that all wait
begin to drain for their swap-out, and swapped groups whose wake event has come are due (R108). -/
def State.settle (s : State) : State :=
  let s := s.requests
  ({ s with groups := s.groups.map fun (x : Nat × Group) => (x.1, s.noteDrain x.1 (x.2.arriveAt s.clock)) }).markDue

/-! ## Placing a word (log 2) -/

/-- The header that stands before a placed word: one word, SETA f0, SETB f1. -/
def placeHeader : Header := { yld := false, seta := some 0, setb := some 1, waitmask := 0, len := 1 }
/-- The fragment that runs a placed word: all lanes, at word `k` of the clause at address 0. -/
def placeFrag (k : Nat) : Frag :=
  { id := 0, hdr := 0, word := k, hw := if k = 0 then none else some placeHeader, members := allLanes
    mask := allLanes, wait := .none, since := 0, age := 0, paused := false, heldTrap := false, heldUi := false }
/-- A state whose next step fetches and runs one word (log 2): a group in slot 0 of core 0, alone on that core, whose
fragment stands at the word; the word in memory, mapped executable; and core 0's issue cycle as the next turn. -/
def State.place (s : State) (nbits w : Nat) : State :=
  let isWord := match decodeWord (BitVec.ofNat 64 w) with | .ok _ => true | .error _ => false
  let k := if isWord then 1 else 0
  let bytes := leBytes 8 (w % 2 ^ nbits)
  let g := Group.launch 0 (.team 0) 2048 0 (placeFrag k) true
  let s : State := { s with
    sched := [{ dt := 0, act := .issue 0 }]
    power := true
    groups := Tab.put (s.groups.filter fun x => x.1 / 32 != 0) 0 g
    kills := s.kills.filter fun x => x.unit != .team 0
    captures := s.captures.filter fun x => x.unit != .team 0
    mem := Memory.writeN (if isWord then Memory.writeN s.mem 0 (leBytes 8 (encodeHeader placeHeader).toNat) else s.mem)
      (8 * k) bytes }
  s.updCore 0 fun c =>
    { c with tlb := { asid := 0, va := 0, pa := 0, size := 4096, perms := permR + permX, tier := 0 } :: c.tlb }

end Sys2Proof.Machine
end

