-- ==== Sys2Proof/Machine/Step.lean ====
section
/-! DEFINITION. One step of the machine: one turn (log 1). -/
namespace Sys2Proof.Machine

/-- One act: a core's issue cycle, or a step of an engine. -/
def runAct (a : Act) (s : State) : Host.Outcome State Fault Refusal :=
  match a with
  | .event i => exec i s
  | .issue core =>
    match s.issue core with
    | .act s i => exec i s
    | .done s => .next s

/-- What follows a turn. -/
def settleOut (o : Host.Outcome State Fault Refusal) : Host.Outcome State Fault Refusal :=
  match o with
  | .next s => .next s.settle
  | .fault r => .fault r
  | .refused r => .refused r

/-- One step: the next turn of the schedule is taken. -/
def step (s : State) : Host.Outcome State Fault Refusal :=
  if s.powered then settleOut (runAct s.nextTurn.act s.begin) else .fault .noPower

/-- The state with a word placed where the next step fetches it (log 2). -/
def State.withFetchWord (s : State) (nbits w : Nat) : State := s.place nbits w

end Sys2Proof.Machine
end

