-- ==== Sys2Proof/Safety.lean ====
section
/-! DEFINITION. What counts as a safe run, one that meets no fault and no refusal; and the invariant of the memories. -/
namespace Sys2Proof

/-- A step from this state answers a next state. -/
def Safe (s : Machine.State) : Prop := ∃ t, Machine.step s = .next t

/-- The memories are in their canonical form: home memory, the store and the scratchpads list rising addresses, and no byte
that equals what an unlisted address reads as. Equal memories are then equal data. -/
def Canonical (s : Machine.State) : Prop :=
  Machine.Memory.wf s.mem = true ∧ Machine.Memory.wf s.storeMem = true ∧ Machine.Memory.wf s.scratch = true

end Sys2Proof
end

