-- ==== Sys2Proof/Certificates/Slice0/Obligations.lean ====
section
/-! DEFINITION. The statements about the model, for the provers. The helpers stand in Sys2Proof.Claims. -/
namespace Sys2Proof.Claims
end Sys2Proof.Claims
open Sys2Proof Sys2Proof.Machine Sys2Proof.Claims

/-! ## What the statements share -/

/-- A word stands at issue for fragment `f` of the group `g` in slot `gk`, and passes the checks that every word shares
(R80): it is legal where it stands, its vector operands lie below the budget, and no register that it reads shows an
uncorrectable error. -/
structure Sys2Proof.Claims.AtIssue (i : Instr) (s : State) (gk : Nat) (g : Group) (f : Frag) : Prop where
  sel : selected s = some (gk, g, f)
  legal : illegalAtIssue i f = false
  range : regRange i g = []
  sound : readsBad i g f = false

/-- Every byte of memory, of the store and of the scratchpads reads in `t` as it does in `s`. -/
def Sys2Proof.Claims.SameBytes (s t : State) : Prop :=
  ∀ a, Memory.read t.mem a = Memory.read s.mem a ∧ Memory.read t.storeMem a = Memory.read s.storeMem a
    ∧ Memory.read t.scratch a = Memory.read s.scratch a

/-- No line of peer memory is in a store cache. -/
def Sys2Proof.Claims.NoPeerLines (s : State) : Prop := ∀ n, ∀ l ∈ (s.slice n).lines, tierOf (128 * l.line) ≠ 2
/-- No memory word shows an error, and the three memories are in their canonical form. -/
structure Sys2Proof.Claims.SoundMemory (s : State) : Prop where
  bad : s.plat.bad = []
  soft : s.plat.soft = []
  mem : Memory.wf s.mem = true
  storeMem : Memory.wf s.storeMem = true
  scratch : Memory.wf s.scratch = true

/-- No slalom grid has a spill ring, whose records a write would leave undefined (R412). -/
def Sys2Proof.Claims.NoSpill (s : State) : Prop := ∀ x ∈ s.grids, (x.2.slalom.bind fun y => y.spill) = none

/-- Every group but the one in slot `gk` is in `t` as it is in `s`. -/
def Sys2Proof.Claims.OtherGroups (s t : State) (gk : Nat) : Prop := ∀ k, k ≠ gk → t.group k = s.group k

/-- The trap, user-interrupt and control registers of a group are in `h` as they are in `g` (R111). -/
def Sys2Proof.Claims.SameControl (g h : Group) : Prop :=
  h.trap = g.trap ∧ h.fpmode = g.fpmode ∧ h.fpflags = g.fpflags ∧ h.swapt = g.swapt ∧ h.budget = g.budget

/-- The words that act at issue through one effect on the registers (R197-R200), each with the effect. -/
def Sys2Proof.Claims.aluEff (i : Instr) : Option (Group → Frag → Eff) :=
  match i with
  | .iadd o => some (effIadd o)
  | .isub o => some (effIsub o)
  | .iaddx o => some (effIaddx o)
  | .isubx o => some (effIsubx o)
  | .imul o => some (effImul o)
  | .imulh o => some (effImulh o)
  | .imulw o => some (effImulw o)
  | .imad o => some (effImad o)
  | .imadw o => some (effImadw o)
  | .imin o => some (effImin o)
  | .imax o => some (effImax o)
  | .iabs o => some (effIabs o)
  | .isad o => some (effIsad o)
  | .idot4 o => some (effIdot4 o)
  | .idot2 o => some (effIdot2 o)
  | .and o => some (effAnd o)
  | .or o => some (effOr o)
  | .xor o => some (effXor o)
  | .lut3 o => some (effLut3 o)
  | .shl o => some (effShl o)
  | .shr o => some (effShr o)
  | .sar o => some (effSar o)
  | .shf o => some (effShf o)
  | .bfe o => some (effBfe o)
  | .bfi o => some (effBfi o)
  | .popc o => some (effPopc o)
  | .clz o => some (effClz o)
  | .ctz o => some (effCtz o)
  | .brev o => some (effBrev o)
  | .bsel o => some (effBsel o)
  | .icmp o => some (effIcmp o)
  | .sel o => some (effSel o)
  | .mov o => some (effMov o)
  | .movi o => some (effMovi o)
  | .movhi o => some (effMovhi o)
  | .plop o => some (effPlop o)
  | .p2s o => some (effP2s o)
  | .s2p o => some (effS2p o)
  | .fadd o => some (effFadd o)
  | .fsub o => some (effFsub o)
  | .fmul o => some (effFmul o)
  | .ffma o => some (effFfma o)
  | .fmin o => some (effFmin o)
  | .fmax o => some (effFmax o)
  | .fcmp o => some (effFcmp o)
  | .frnd o => some (effFrnd o)
  | .fclass o => some (effFclass o)
  | .fcpys o => some (effFcpys o)
  | .fscale o => some (effFscale o)
  | .hadd2 o => some (effHadd2 o)
  | .hsub2 o => some (effHsub2 o)
  | .hmul2 o => some (effHmul2 o)
  | .hfma2 o => some (effHfma2 o)
  | .hmin2 o => some (effHmin2 o)
  | .hmax2 o => some (effHmax2 o)
  | .hcmp2 o => some (effHcmp2 o)
  | .dadd o => some (effDadd o)
  | .dsub o => some (effDsub o)
  | .dmul o => some (effDmul o)
  | .dfma o => some (effDfma o)
  | .dmin o => some (effDmin o)
  | .dmax o => some (effDmax o)
  | .dcmp o => some (effDcmp o)
  | .lperm o => some (effLperm o)
  | .pqry o => some (effPqry o)
  | .peer o => some (effPeer o)
  | .fold o => some (effFold o)
  | .scan o => some (effScan o)
  | .compact o => some (effCompact o)
  | .bcast o => some (effBcast o)
  | .pairedWord s0 s1 => some (effPairedWord s0 s1)
  | _ => none

/-- The words of the function-and-conversion pipe (R240), each with its operands and its effect. -/
def Sys2Proof.Claims.fcEff (i : Instr) : Option (FOp × (Group → Frag → Eff)) :=
  match i with
  | .rcp o => some (o, effRcp o)
  | .rsq o => some (o, effRsq o)
  | .sqrt o => some (o, effSqrt o)
  | .exp2 o => some (o, effExp2 o)
  | .log2 o => some (o, effLog2 o)
  | .sin o => some (o, effSin o)
  | .cos o => some (o, effCos o)
  | .tanh o => some (o, effTanh o)
  | .erf o => some (o, effErf o)
  | .f2i o => some (o, effF2i o)
  | .i2f o => some (o, effI2f o)
  | .f2f o => some (o, effF2f o)
  | .cvpk2 o => some (o, effCvpk2 o)
  | .cvpk4 o => some (o, effCvpk4 o)
  | .unpk o => some (o, effUnpk o)
  | .bfpq o => some (o, effBfpq o)
  | .bfpx o => some (o, effBfpx o)
  | .e2mxd o => some (o, effE2mxd o)
  | _ => none

/-! ## Encoding (R51-R78) -/

/-- An unguarded format F word on vectors, with FN, X and FS zero. -/
def Sys2Proof.Claims.plainF (d : BitVec 11) (a : Src) (b : SrcB) : FOp :=
  { guard := .always, uni := false, fs := false, x := 0, d := d, a := a, b := b, c := 0 }

/-- Words written out from the encodings of R52, R61, R66 and R70 decode to what they stand for: the header of a clause of
one word with SETA f0; IADD v1, v2, v3; MOVI v4, 7; BRA -1; LDL.b32 v6, [v8]; FADD v1, v2, v3; RCP v2, v3 with FS; KVINS as
R339 writes it out; EXIT; and MMAH m0, v8, v16. -/
def Obligations.DecodedWords : Prop :=
  decodeHeader 0xC700000000100001 = .ok { yld := false, seta := some 0, setb := none, waitmask := 0, len := 1 }
  ∧ decodeWord 0x0000001802002E40 = .ok (.iadd (plainF 1 (.v 2) (.v 3)))
  ∧ decodeWord 0x0800003800008E82 = .ok (.movi (plainF 4 (.v 0) (.imm 7)))
  ∧ decodeWord 0x09FFFFF800000E02 = .ok (.bra (plainF 0 (.v 0) (.imm 0x3FFFFF)))
  ∧ decodeWord 0x000080000800CF60 = .ok (.ldl
      { guard := .always, uni := false, fs := false, x := 0, tag := 0, scope := .group, ord := .plain, size := .b4, c := 0,
        a := .v 8, d := 6 })
  ∧ decodeWord 0x0000001802002EA0 = .ok (.fadd (plainF 1 (.v 2) (.v 3)))
  ∧ decodeWord 0x1000000003004F00 = .ok (.rcp { plainF 2 (.v 3) (.v 0) with fs := true })
  ∧ decodeWord 0x550000B00C050FA4 = .ok (.kvins
      { guard := .always, uni := false, fs := true, x := 1, tag := 2, scope := .group, ord := .plain, size := .b1, c := 22,
        a := .s 12, d := 40 })
  ∧ decodeWord 0x0000000000000E0C = .ok (.exit (plainF 0 (.v 0) (.v 0)))
  ∧ decodeWord 0x0000008008000F40 = .ok (.mmah (plainF 0 (.v 8) (.v 16)))

/-- Decoding the word of a well-formed format F instruction gives it back, with every operand at every value that its
entry admits (R61-R65, R75, R76). -/
def Obligations.FormatFRoundTrip : Prop :=
  ∀ i f, i.fword = some f → i.wf = true → decodeWord (encodeF f.opc f.op) = .ok i

/-- Decoding the word of a well-formed format M instruction gives it back (R66-R69, R76). -/
def Sys2Proof.Claims.FormatMRoundTrip : Prop :=
  ∀ i m, i.mword = some m → i.wf = true → decodeWord (encodeM m.opc m.op) = .ok i

/-- Decoding the word of a legal pair of slots, and of a legal clause header, gives them back (R52, R53, R70-R73). -/
def Sys2Proof.Claims.PairAndHeaderRoundTrip : Prop :=
  (∀ s0 s1, pairOk s0 s1 = true → decodeWord (encodePair s0 s1) = .ok (.pairedWord s0 s1))
  ∧ ∀ h : Header, h.ok = true → decodeHeader (encodeHeader h) = .ok h

/-- Decoding gives back every well-formed format M word, every legal pair of slots and every legal header (R52, R53, R66-R73). -/
def Obligations.FormatMPairAndHeaderRoundTrip : Prop := FormatMRoundTrip ∧ PairAndHeaderRoundTrip


/-- What the decoder answers is well formed, and its word is the word that was read (R53, R60-R62, R66, R70, R78): no
illegal word or header comes through, no reserved or unused bit is ignored, and no two words stand for one instruction. -/
def Obligations.DecodedIsWellFormed : Prop :=
  (∀ w i, decodeWord w = .ok i → i.wf = true ∧ encode i = some w)
  ∧ ∀ w h, decodeHeader w = .ok h → h.ok = true ∧ encodeHeader h = w

/-! ## Words that act at issue through the vector pipes (06) -/

/-- Every integer, logic, move, predicate, floating and cross-lane word, and the paired word, completes (R197-R200): where
it passes the checks at issue, its effect is applied to its group, with the flags and causes it raises, the fragment
advances, and no other group changes. -/
def Obligations.AluWordsComplete : Prop :=
  ∀ i eff, aluEff i = some eff → ∀ s gk g f, AtIssue i s gk g f →
    ∃ t, exec i s = .next t
      ∧ t.group gk = some (applyEff s.clock (g.issuing f i) f (eff (g.issuing f i) f)) ∧ OtherGroups s t gk

/-- The frame of those words, whatever comes of them: no byte of memory, of the store or of a scratchpad changes, nor a
team, grid, tenant, trigger entry, task queue or any register outside the groups but accumulators (R197-R200). -/
def Sys2Proof.Claims.AluWordsFrameOutside : Prop :=
  ∀ i eff, aluEff i = some eff → ∀ s t, exec i s = .next t →
    SameBytes s t ∧ t.tags = s.tags ∧ t.teams = s.teams ∧ t.grids = s.grids ∧ t.tenants = s.tenants ∧ t.trigs = s.trigs
      ∧ t.taskqs = s.taskqs ∧ t.slices = s.slices ∧ t.dies = s.dies ∧ t.parts = s.parts ∧ t.hostqs = s.hostqs
      ∧ t.fe = s.fe ∧ t.plat = s.plat ∧ t.clock = s.clock

/-- What those words leave in their own group (R198, R199): every vector register of a lane, every scalar and every
predicate of a lane that the word's effect does not write, the completion flags, the control registers but SR.CAUSE and
its records, and the user-interrupt registers; SR.FPFLAGS only gains bits. -/
def Sys2Proof.Claims.AluWordsGroupFrame : Prop :=
  ∀ i eff, aluEff i = some eff → ∀ s gk g f, AtIssue i s gk g f →
    ∃ t h, exec i s = .next t ∧ t.group gk = some h ∧
      (∀ n l, (∀ w ∈ (eff (g.issuing f i) f).v, 96 * w.1 + w.2.1 ≠ 96 * n + l) → h.regs.readV n l = g.regs.readV n l)
      ∧ (∀ n, (∀ w ∈ (eff (g.issuing f i) f).s, w.1 ≠ n) → h.regs.readS n = g.regs.readS n)
      ∧ (∀ n l, l < 96 → (∀ w ∈ (eff (g.issuing f i) f).p, (w.1, w.2.1) ≠ (n, l)) →
          (h.regs.readP n).getLsbD l = (g.regs.readP n).getLsbD l)
      ∧ h.flags = g.flags ∧ h.budget = g.budget ∧ h.fpmode = g.fpmode ∧ h.swapt = g.swapt
      ∧ h.fpflags = g.fpflags ||| (eff (g.issuing f i) f).fl.setWidth 32
      ∧ h.trap.tmask = g.trap.tmask ∧ h.trap.plevel = g.trap.plevel ∧ h.trap.epc = g.trap.epc ∧ h.trap.hvec = g.trap.hvec
      ∧ h.trap.eaddr = g.trap.eaddr ∧ h.trap.einfo = g.trap.einfo ∧ h.trap.uivec = g.trap.uivec
      ∧ h.trap.uiepc = g.trap.uiepc ∧ h.trap.uisrc = g.trap.uisrc ∧ h.trap.uien = g.trap.uien

/-- Those words write vector registers of their destination only, in member lanes of their fragment (R63, R64, R198): the
registers that the D field of the entry names, or the D registers of the slots of a paired word. -/
def Sys2Proof.Claims.AluWordsDestination : Prop :=
  (∀ i eff w, aluEff i = some eff → i.fword = some w → i.wf = true → ∀ g f, ∀ x ∈ (eff g f).v,
    f.members.getLsbD x.2.1 = true ∧ ∃ k, (w.sh.d = .reg k ∨ w.sh.d = .vec k)
      ∧ w.op.d.toNat ≤ x.1 ∧ x.1 < w.op.d.toNat + k)
  ∧ ∀ s0 s1 g f, ∀ x ∈ (effPairedWord s0 s1 g f).v,
    (liveLanes f).getLsbD x.2.1 = true ∧ (x.1 = s0.d.toNat ∨ x.1 = s1.d.toNat)

/-- The frame of the words that act at issue: what lies outside their group, what lies in it, and where their vector writes
go (R63, R64, R197-R200). -/
def Obligations.AluWordsFrame : Prop := AluWordsFrameOutside ∧ AluWordsGroupFrame ∧ AluWordsDestination


/-- Two-source integer words with their result as R203 gives it, modulo 2^w; IADD and ISUB without SAT. -/
def Sys2Proof.Claims.intResult (i : Instr) : Option (FOp × Nat × (Nat → Nat → Nat)) :=
  match i with
  | .iadd o => if o.fn % 2 = 1 then none else some (o, o.w, fun a b => (a + b) % 2 ^ o.wbits)
  | .isub o => if o.fn % 2 = 1 then none else some (o, o.w, fun a b => (a + (2 ^ o.wbits - b)) % 2 ^ o.wbits)
  | .imul o => some (o, o.w, fun a b => a * b % 2 ^ o.wbits)
  | .and o => some (o, o.w, fun a b => a &&& b)
  | .or o => some (o, o.w, fun a b => a ||| b)
  | .xor o => some (o, o.w, fun a b => a ^^^ b)
  | .shl o => some (o, 1, fun a b => if o.wbits ≤ b then 0 else a * 2 ^ b % 2 ^ o.wbits)
  | .shr o => some (o, 1, fun a b => if o.wbits ≤ b then 0 else a / 2 ^ b)
  | .mov o => some (o, o.w, fun a _ => a)
  | _ => none

/-- The integer results of two sources (R203, R207): each lane that acts, or the scalar under U = 1, receives the result of
its operands as they were before the word (R198). D is not the activity mask, whose writes R200 gives. -/
def Sys2Proof.Claims.TwoSourceResults : Prop :=
  ∀ i o kb r, intResult i = some (o, kb, r) → i.wf = true → ∀ s gk g f, AtIssue i s gk g f →
    (o.uni = true → o.d.toNat + o.w ≤ 125) →
    ∃ t h, exec i s = .next t ∧ t.group gk = some h ∧ ∀ l ∈ actLanes g f o,
      opD h f o o.w l = r (opA g f o o.w l) (opB g f o (intImm o) kb l)

/-- An FP32 operand as FMIN and FMAX read it (R82, R209): a subnormal is a zero of its sign under FTZ, then the magnitude is
taken, then the sign is changed. -/
def Sys2Proof.Claims.fpOperand (ftz abs neg : Bool) (x : Nat) : Nat :=
  let x := if ftz = true ∧ x % 2 ^ 31 < 2 ^ 23 then x / 2 ^ 31 * 2 ^ 31 else x
  let x := if abs = true then x % 2 ^ 31 else x
  if neg = true then (x + 2 ^ 31) % 2 ^ 32 else x
/-- Is an FP32 code a NaN? -/
def Sys2Proof.Claims.fpNan (x : Nat) : Bool := decide (0x7F800000 < x % 2 ^ 31)
/-- The codes of FP32 numbers in the order of their values: `z` is 0 where -0 and +0 are equal, 1 where -0 is less. -/
def Sys2Proof.Claims.fpRank (z : Int) (x : Nat) : Int := if x < 2 ^ 31 then x else -((x % 2 ^ 31 : Nat) : Int) - z
/-- The result of FMIN, or of FMAX, on operands so read (R210, R212). -/
def Sys2Proof.Claims.fpPick (mx : Bool) (a b : Nat) : Nat :=
  if fpNan a = true then (if fpNan b = true then 0x7FC00000 else b)
  else if fpNan b = true then a
  else if (decide (fpRank 1 a ≤ fpRank 1 b) != mx) = true then a else b
/-- The condition of FCMP (R213). -/
def Sys2Proof.Claims.fpHolds (code a b : Nat) : Bool :=
  let un := fpNan a || fpNan b
  match code with
  | 0 => !un && fpRank 0 a == fpRank 0 b
  | 1 => un || fpRank 0 a != fpRank 0 b
  | 2 => !un && fpRank 0 a < fpRank 0 b
  | 3 => !un && fpRank 0 a ≤ fpRank 0 b
  | 4 => !un && fpRank 0 b < fpRank 0 a
  | 5 => !un && fpRank 0 b ≤ fpRank 0 a
  | 6 => !un
  | _ => un
/-- The mask of FCLASS (R214), of a code as stored. -/
def Sys2Proof.Claims.fpClassMask (x : Nat) : Nat :=
  let neg := decide (2 ^ 31 ≤ x)
  let e := x / 2 ^ 23 % 256
  let m := x % 2 ^ 23
  if e = 255 ∧ m = 0 then (if neg then 1 else 128)
  else if e = 255 then (if m < 2 ^ 22 then 256 else 512)
  else if e = 0 ∧ m = 0 then (if neg then 8 else 16)
  else if e = 0 then (if neg then 4 else 32)
  else (if neg then 2 else 64)
/-- The position and the length of BFE and BFI (R205). -/
def Sys2Proof.Claims.fieldPos (b : Nat) : Nat := b % 256
def Sys2Proof.Claims.fieldLen (o : FOp) (b : Nat) : Nat := min (b / 256 % 256) o.wbits

/-- The other words whose result R203, R205, R207, R212 and R214 give, each with the registers of its result and what R says
of the result in a lane: of the operands a, b, c and the destination d before the word. -/
def Sys2Proof.Claims.laneResult (i : Instr) : Option (FOp × Nat × (Group → Frag → Nat → Nat → Prop)) :=
  match i with
  | .imin o => some (o, o.w, fun g f l r =>
      let ty := typed o.signed o.wbits
      ty r = min (ty (opA g f o o.w l)) (ty (opB g f o (intImm o) o.w l)))
  | .imax o => some (o, o.w, fun g f l r =>
      let ty := typed o.signed o.wbits
      ty r = max (ty (opA g f o o.w l)) (ty (opB g f o (intImm o) o.w l)))
  | .imulh o => some (o, o.w, fun g f l r =>
      let ty := typed o.signed o.wbits
      ty r = ty (opA g f o o.w l) * ty (opB g f o (intImm o) o.w l) / 2 ^ o.wbits)
  | .imulw o => some (o, 2, fun g f l r =>
      typed o.signed 64 r = typed o.signed 32 (opA g f o 1 l) * typed o.signed 32 (opB g f o (intImm o) 1 l))
  | .imad o => some (o, o.w, fun g f l r =>
      r = (opA g f o o.w l * opB g f o (intImm o) o.w l + opC g f o o.w l) % 2 ^ o.wbits)
  | .imadw o => some (o, 2, fun g f l r =>
      (r : Int) = (typed o.signed 32 (opA g f o 1 l) * typed o.signed 32 (opB g f o (intImm o) 1 l) + opC g f o 2 l) % 2 ^ 64)
  | .iabs o => some (o, o.w, fun g f l r =>
      let a := opA g f o o.w l
      r = if a < 2 ^ (o.wbits - 1) then a else 2 ^ o.wbits - a)
  | .isad o => some (o, 1, fun g f l r =>
      let d := typed o.signed 32 (opA g f o 1 l) - typed o.signed 32 (opB g f o (intImm o) 1 l)
      r = (d.natAbs + opC g f o 1 l) % 2 ^ 32)
  | .sar o => some (o, o.w, fun g f l r =>
      opB g f o (intImm o) 1 l < 2 ^ 31 →
        sVal o.wbits r = sVal o.wbits (opA g f o o.w l) / 2 ^ min (opB g f o (intImm o) 1 l) o.wbits)
  | .shf o => some (o, 1, fun g f l r =>
      let q := opB g f o .zext 1 l * 2 ^ 32 + opA g f o 1 l
      let n := opC g f o 1 l % 64
      ∀ j < 32, r.testBit j = if o.x = 1 then decide (n ≤ j + 32) && q.testBit (j + 32 - n) else q.testBit (j + n))
  | .bfe o => some (o, o.w, fun g f l r =>
      let a := opA g f o o.w l
      let b := opB g f o (intImm o) 1 l
      let k (j : Nat) : Nat := fieldPos b + if o.signed = true then min j (fieldLen o b - 1) else j
      (fieldLen o b = 0 → r = 0)
      ∧ (fieldLen o b ≠ 0 → ∀ j < o.wbits, r.testBit j =
          if o.signed = false ∧ fieldLen o b ≤ j then false
          else if k j < o.wbits then a.testBit (k j) else o.signed && a.testBit (o.wbits - 1)))
  | .bfi o => some (o, o.w, fun g f l r =>
      let b := opB g f o .zext 1 l
      ∀ j < o.wbits, r.testBit j = if fieldPos b ≤ j ∧ j < fieldPos b + fieldLen o b
        then (opA g f o o.w l).testBit (j - fieldPos b) else (opC g f o o.w l).testBit j)
  | .popc o => some (o, 1, fun g f l r => r = ((List.range o.wbits).filter fun j => (opA g f o o.w l).testBit j).length)
  | .clz o => some (o, 1, fun g f l r =>
      let a := opA g f o o.w l
      if a = 0 then r = o.wbits else r < o.wbits ∧ 2 ^ (o.wbits - 1 - r) ≤ a ∧ a < 2 ^ (o.wbits - r))
  | .ctz o => some (o, 1, fun g f l r =>
      let a := opA g f o o.w l
      if a = 0 then r = o.wbits else a % 2 ^ r = 0 ∧ a.testBit r = true)
  | .brev o => some (o, o.w, fun g f l r => ∀ j < o.wbits, r.testBit j = (opA g f o o.w l).testBit (o.wbits - 1 - j))
  | .lut3 o => some (o, o.w, fun g f l r => ∀ j < o.wbits, r.testBit j = o.fn.testBit
      ((if (opD g f o o.w l).testBit j then 4 else 0) + (if (opA g f o o.w l).testBit j then 2 else 0)
        + if (opB g f o (intImm o) o.w l).testBit j then 1 else 0))
  | .bsel o => some (o, 1, fun g f l r =>
      let q := opD g f o 1 l * 2 ^ 32 + opA g f o 1 l
      ∀ k < 4, r / 256 ^ k % 256 =
        let n := opB g f o .zext 1 l / 16 ^ k % 16
        if 8 ≤ n then 0 else q / 256 ^ n % 256)
  | .movi o => some (o, 1, fun _ _ _ r => r = (o.b.immVal.signExtend 32).toNat)
  | .movhi o => some (o, 1, fun g f l r => r = o.b.immVal.toNat * 2 ^ 10 + opD g f o 1 l % 2 ^ 10)
  | .fmin o => some (o, 1, fun g f l r =>
      r = fpPick false (fpOperand g.ftz (o.fn.testBit 1) (o.fn.testBit 0) (opA g f o 1 l))
        (fpOperand g.ftz (o.fn.testBit 3) (o.fn.testBit 2) (opB g f o .fp32 1 l)))
  | .fmax o => some (o, 1, fun g f l r =>
      r = fpPick true (fpOperand g.ftz (o.fn.testBit 1) (o.fn.testBit 0) (opA g f o 1 l))
        (fpOperand g.ftz (o.fn.testBit 3) (o.fn.testBit 2) (opB g f o .fp32 1 l)))
  | .fclass o => some (o, 1, fun g f l r => r = fpClassMask (opA g f o 1 l))
  | .fcpys o => some (o, 1, fun g f l r => r = opA g f o 1 l % 2 ^ 31 + opB g f o .fp32 1 l / 2 ^ 31 * 2 ^ 31)
  | _ => none

/-- Those results: each lane that acts, or the scalar under U = 1, receives the result of its operands as they were before
the word (R198). -/
def Sys2Proof.Claims.LaneResults : Prop :=
  ∀ i o kd r, laneResult i = some (o, kd, r) → i.wf = true → ∀ s gk g f, AtIssue i s gk g f →
    (o.uni = true → o.d.toNat + kd ≤ 125) →
    ∃ t h, exec i s = .next t ∧ t.group gk = some h ∧ ∀ l ∈ actLanes g f o, r g f l (opD h f o kd l)

/-- FCMP and PLOP (R206, R207, R213): predicate D of every Enabled lane receives the condition, combined as R206 gives, or
the entry of the table that the two predicates choose; a write to p7 is discarded. Under U = 1 FCMP writes 1 or 0 to a
scalar, and PLOP acts bit by bit on scalars. -/
def Sys2Proof.Claims.PredicateResults : Prop :=
  (∀ o s gk g f, (Instr.fcmp o).wf = true → AtIssue (.fcmp o) s gk g f →
    let holds (l : Nat) : Bool := withCombine g o l (fpHolds (o.fn % 16) (fpOperand g.ftz false false (opA g f o 1 l))
      (fpOperand g.ftz false false (opB g f o .fp32 1 l)))
    ∃ t h, exec (.fcmp o) s = .next t ∧ t.group gk = some h
      ∧ (o.uni = false → h.regs.readP 7 = allLanes ∧ (o.d.toNat ≠ 7 → ∀ l ∈ laneList (enabled g f o.guard),
          (h.regs.readP o.d.toNat).getLsbD l = holds l))
      ∧ (o.uni = true → o.d.toNat < 125 → h.regs.readS o.d.toNat = if holds 0 = true then 1 else 0))
  ∧ (∀ o s gk g f, (Instr.plop o).wf = true → AtIssue (.plop o) s gk g f →
    ∃ t h, exec (.plop o) s = .next t ∧ t.group gk = some h
      ∧ (o.uni = false → h.regs.readP 7 = allLanes ∧ (o.d.toNat ≠ 7 → ∀ l ∈ laneList (enabled g f o.guard),
          (h.regs.readP o.d.toNat).getLsbD l = o.fn.testBit ((if (g.regs.readP (o.a.idx.toNat % 8)).getLsbD l = true then 2 else 0)
            + if (g.regs.readP (o.cv % 8)).getLsbD l = true then 1 else 0)))
      ∧ (o.uni = true → o.d.toNat < 125 → ∀ j < 32, (h.regs.readS o.d.toNat).getLsbD j
          = o.fn.testBit ((if (opA g f o 1 0).testBit j = true then 2 else 0) + if (opB g f o .zext 1 0).testBit j = true then 1 else 0)))

/-- The results of the integer, logic, move and predicate words, and of the exact floating-point words FMIN, FMAX, FCMP,
FCLASS and FCPYS (R203, R205-R207, R212-R214). That FCPYS flushes no operand under FTZ is the model's reading (log 32), and
SAR is stated for the amounts that R203 gives a result (log 42). -/
def Obligations.IntegerResults : Prop := TwoSourceResults ∧ LaneResults ∧ PredicateResults

/-- IADD with SAT clamps the exact sum to the range of the type (R203), in 32 and 64 bits, in every lane that acts, or on
scalars under U = 1. -/
def Sys2Proof.Claims.SaturatingAdd : Prop :=
  ∀ o s gk g f, o.fn % 2 = 1 → (Instr.iadd o).wf = true → AtIssue (.iadd o) s gk g f →
    (o.uni = true → o.d.toNat + o.w ≤ 125) →
    ∃ t h, exec (.iadd o) s = .next t ∧ t.group gk = some h ∧ ∀ l ∈ actLanes g f o,
      let a := opA g f o o.w l
      let b := opB g f o (intImm o) o.w l
      let r := opD h f o o.w l
      if o.signed then
        sVal o.wbits r = max (-(2 ^ (o.wbits - 1))) (min (sVal o.wbits a + sVal o.wbits b) (2 ^ (o.wbits - 1) - 1))
      else r = min (a + b) (2 ^ o.wbits - 1)

/-- IADDX adds with the carry-in predicate and writes the carry out (R203): result and carry together are the exact sum.
The predicates are those of the lane, or of the lowest member lane under U = 1; a carry out to p7 is discarded. With X = 00
the operands' bits are taken as unsigned for the carry by the model's choice (log 42). -/
def Sys2Proof.Claims.CarryChain : Prop :=
  ∀ o s gk g f, (Instr.iaddx o).wf = true → AtIssue (.iaddx o) s gk g f → (o.uni = true → o.d.toNat < 125) →
    ∃ t h, exec (.iaddx o) s = .next t ∧ t.group gk = some h ∧ ∀ l ∈ actLanes g f o,
      let p := if o.uni = true then lowestMember f else l
      let sum := opA g f o 1 l + opB g f o (intImm o) 1 l
        + (if (g.regs.readP (o.fn % 8)).getLsbD p = true then 1 else 0)
      opD h f o 1 l = sum % 2 ^ 32
      ∧ (o.fn / 8 % 8 ≠ 7 → (h.regs.readP (o.fn / 8 % 8)).getLsbD p = decide (2 ^ 32 ≤ sum))

/-- IADD with SAT, and IADDX with its carries (R203). -/
def Obligations.SaturationAndCarry : Prop := SaturatingAdd ∧ CarryChain


/-- A scalar write to s125, s126 or s127 sets the fragment's activity mask, ANDed with its membership, once all of the
word's writes are made (R200); a fragment left with a lane goes on, and one left with none retires at once (R94). -/
def Obligations.ActivityMaskWrites : Prop :=
  ∀ i eff, aluEff i = some eff → ∀ s gk g f, AtIssue i s gk g f →
    let m := writeMask f.mask f.members (eff (g.issuing f i) f).s
    (∀ k v, k < 3 → (eff (g.issuing f i) f).s = [(125 + k, v)] → ∀ l < 96, m.getLsbD l
      = (f.members.getLsbD l && if l / 32 = k then v.getLsbD (l % 32) else f.mask.getLsbD l))
    ∧ ∃ t h, exec i s = .next t ∧ t.group gk = some h
      ∧ (m &&& f.members ≠ 0 → h.frag f.id = some { f.advance with mask := m })
      ∧ (m &&& f.members = 0 → h.exited = g.exited ||| f.members ∧ (∀ x ∈ g.frags, x.id ≠ f.id → x ∈ h.frags)
          ∧ ((∀ x ∈ g.frags, x.id < g.nextFrag) → h.frag f.id = none))

/-- ICMP and SEL (R206). ICMP: the condition, combined, in predicate D of every Enabled lane; scalar D receives 1 or 0
under U = 1; a write to p7 is discarded; an immediate form compares for equality only. SEL: a where the predicate that FN
names, or its negation, is true in the lane, and b otherwise; under U = 1 the predicate is that of the lowest member lane. -/
def Obligations.CompareSetsPredicate : Prop :=
  (∀ o s gk g f, (Instr.icmp o).wf = true → AtIssue (.icmp o) s gk g f →
    ∃ t h, exec (.icmp o) s = .next t ∧ t.group gk = some h ∧
      let holds (l : Nat) : Bool := withCombine g o l (intCond (o.fn % 16) (typed o.signed o.wbits (opA g f o o.w l))
        (typed o.signed o.wbits (opB g f o (intImm o) o.w l)))
      (o.b.isImm = true → o.fn = 0)
      ∧ (o.uni = false → h.regs.readP 7 = allLanes ∧ (o.d.toNat ≠ 7 → ∀ l ∈ laneList (enabled g f o.guard),
        (h.regs.readP o.d.toNat).getLsbD l = holds l))
      ∧ (o.uni = true → o.d.toNat < 125 → h.regs.readS o.d.toNat = if holds 0 = true then 1 else 0))
  ∧ (∀ o s gk g f, (Instr.sel o).wf = true → AtIssue (.sel o) s gk g f → (o.uni = true → o.d.toNat + o.w ≤ 125) →
    ∃ t h, exec (.sel o) s = .next t ∧ t.group gk = some h ∧ ∀ l ∈ actLanes g f o,
      let lane := if o.uni = true then lowestMember f else l
      opD h f o o.w l = if ((g.regs.readP (o.fn % 8)).getLsbD lane != (o.fn / 8 % 2 == 1)) = true then opA g f o o.w l
        else opB g f o (intImm o) o.w l)

/-- PEER (R220): every Enabled lane receives the lowest Enabled lane whose A equals its own bit for bit, and the number of
such lanes. -/
def Sys2Proof.Claims.PeerLeadersAndCounts : Prop :=
  ∀ o s gk g f, (Instr.peer o).wf = true → AtIssue (.peer o) s gk g f →
    ∃ t h, exec (.peer o) s = .next t ∧ t.group gk = some h ∧ ∀ l ∈ laneList (enabled g f o.guard),
      let same := (laneList (enabled g f o.guard)).filter fun j => opA g f o o.wx j == opA g f o o.wx l
      same.head? = some (h.regs.readV o.d.toNat l).toNat ∧ (∀ j ∈ same, (h.regs.readV o.d.toNat l).toNat ≤ j)
      ∧ (h.regs.readV (o.d.toNat + 1) l).toNat = same.length

/-- BCAST (R223): every Enabled lane receives the value of the source lane, or 0 where that is past lane 95 or not live;
with no Enabled lane nothing is written. -/
def Sys2Proof.Claims.BroadcastFromOneLane : Prop :=
  ∀ o s gk g f, (Instr.bcast o).wf = true → AtIssue (.bcast o) s gk g f →
    ∃ t h, exec (.bcast o) s = .next t ∧ t.group gk = some h
      ∧ (enabled g f o.guard = 0 → h.regs = g.regs)
      ∧ ∀ l ∈ laneList (enabled g f o.guard),
        let src := if o.fn = 1 then (laneList (enabled g f o.guard)).headD 0 else opB g f o .zext 1 0
        opD h f o o.wx l = if src < 96 ∧ (liveLanes f).getLsbD src = true then opA g f o o.wx src else 0

/-- PEER and BCAST (R220, R223). -/
def Obligations.PeerAndBroadcast : Prop := PeerLeadersAndCounts ∧ BroadcastFromOneLane


/-! ## The function-and-conversion pipe (07) -/

/-- A word of the pipe issues (R240-R242): where its flag is below 63 it becomes outstanding with what it will write, its
flag gains 1 and the fragment advances; with no Enabled lane it still makes its flag pending. No register changes yet. -/
def Sys2Proof.Claims.FcWordsIssue : Prop :=
  ∀ i o eff, fcEff i = some (o, eff) → ∀ s gk g f n, AtIssue i s gk g f → selFlag f o.fs = some n → g.flag n < 63 →
    ∃ t, exec i s = .next t
      ∧ t.group gk = some (((g.issuing f i).startOp s.nextUid n f.id
          (.fc (fcWrites (eff (g.issuing f i) f)) (eff (g.issuing f i) f).fl g.fpmode)).setFrag f.advance)
      ∧ OtherGroups s t gk ∧ SameBytes s t

/-- FC_WORD_COMPLETE with every lane (R241): the word's destinations take its values, every other register of a lane keeps
its own, the flag loses 1, the operation is gone, and SR.FPFLAGS gains the word's flags. -/
def Sys2Proof.Claims.FcWordCompletes : Prop :=
  ∀ s gk op g x writes fl mode, s.group gk = some g → g.op op = some x → x.kind = .fc writes fl mode →
    Tab.wf writes = true → Tab.wf g.flags = true →
    ∃ t h, exec (.fcWordComplete gk op allLanes) s = .next t ∧ t.group gk = some h
      ∧ (∀ w ∈ writes, h.regs.readV (w.1 / 96) (w.1 % 96) = w.2)
      ∧ (∀ n l, Tab.find writes (96 * n + l) = none → h.regs.readV n l = g.regs.readV n l)
      ∧ h.flag x.flag = g.flag x.flag - 1 ∧ (∀ y ∈ h.ops, y.id ≠ x.id)
      ∧ h.fpflags = g.fpflags ||| fl.setWidth 32 ∧ OtherGroups s t gk ∧ SameBytes s t

/-- The function-and-conversion pipe: issue of every word of it, and completion (R240-R242). -/
def Obligations.FcWordsRun : Prop := FcWordsIssue ∧ FcWordCompletes


/-- The conversions never read SR.FPMODE.FTZ (R239): on groups that differ in SR.FPMODE alone their effects are equal. -/
def Obligations.ConversionsIgnoreFtz : Prop :=
  ∀ i o eff, fcEff i = some (o, eff) →
    (match i with
     | .f2i _ | .i2f _ | .f2f _ | .cvpk2 _ | .cvpk4 _ | .unpk _ | .bfpq _ | .bfpx _ | .e2mxd _ => True
     | _ => False) →
    ∀ g f (m : W32), (∀ k, k ≠ 2 → m.getLsbD k = g.fpmode.getLsbD k) → eff { g with fpmode := m } f = eff g f

/-! ## The sequencer (03) -/

/-- CLAUSE_HEADER (R53, R54): a fragment at a legal header goes to the clause's first word once every flag that WAITMASK
names is zero, and waits on the header otherwise; an illegal header raises ILLEGAL. No other group changes. -/
def Obligations.HeaderBeginsClause : Prop :=
  ∀ s h gk g f, selected s = some (gk, g, f) → f.word = 0 →
    ∃ t g', exec (.clauseHeader h) s = .next t ∧ OtherGroups s t gk ∧
      (h.ok = true → t.group gk = some g' ∧ ∃ f', g'.frag f.id = some f' ∧ f'.hdr = f.hdr ∧ f'.hw = some h
        ∧ f'.members = f.members ∧ f'.mask = f.mask ∧ g'.regs = g.regs ∧ g'.flags = g.flags
        ∧ ((∀ n < 12, h.waitmask.getLsbD n = true → g.flag n = 0) → f'.word = 1 ∧ f'.wait = .none)
        ∧ (¬ (∀ n < 12, h.waitmask.getLsbD n = true → g.flag n = 0) → f'.word = 0 ∧ f'.wait = .header))
      ∧ (h.ok = false → t = takeTrap s gk g f [plainCause 0])

/-- The words that act once for their fragment (R127). -/
def Sys2Proof.Claims.onceOp (i : Instr) : Option FOp :=
  match i with
  | .nop o => some o
  | .claim o => some o
  | .giveback o => some o
  | .bararv o => some o
  | .barwt o => some o
  | .barsyn o => some o
  | .yield o => some o
  | .sleep o => some o
  | .rdsr o => some o
  | .wrsr o => some o
  | .trap o => some o
  | .causeclr o => some o
  | .tmask o => some o
  | .uimask o => some o
  | .bkpt o => some o
  | _ => none

/-- A sequencer word with no Enabled lane does nothing but let its fragment go on (R127), once its issue checks, which do
not depend on the lanes, are passed: a team's group for the barrier words, level 1 for CAUSECLR, and a writable
register for WRSR. -/
def Obligations.NoLaneNoEffect : Prop :=
  ∀ i o, onceOp i = some o → ∀ s gk g f, AtIssue i s gk g f → enabled g f o.guard = 0 →
    (match i with
     | .bararv _ | .barwt _ | .barsyn _ => ∃ tk, g.unit = .team tk
     | .causeclr _ => g.trap.plevel = 1
     | .wrsr o => o.d ≠ 20 ∧ (o.d = 19 → g.trap.plevel = 1)
     | _ => True) →
    exec i s = .next (s.setGroup gk ((g.issuing f i).setFrag f.advance))

/-- Sequencer words that change their own fragment alone (R126, R130, R133): NOP goes on; ELECT writes true to pD in the
lowest Enabled lane and false in every other member lane (a write to p7 is discarded, R63); YIELD goes on and pauses; SLEEP waits for its count of cycles,
and SLEEP 0 acts as YIELD; WAITF goes on where every named flag is zero, and waits otherwise. -/
def Obligations.WaitingWords : Prop :=
  (∀ o s gk g f, AtIssue (.nop o) s gk g f →
    exec (.nop o) s = .next (s.setGroup gk (g.setFrag f.advance)))
  ∧ (∀ o s gk g f, AtIssue (.elect o) s gk g f → f.mask &&& f.members ≠ 0 →
    ∃ t h, exec (.elect o) s = .next t ∧ t.group gk = some h ∧ h.frag f.id = some f.advance
      ∧ (o.d.toNat < 7 → ∀ l ∈ laneList f.members, (h.regs.readP o.d.toNat).getLsbD l
          = decide ((laneList (enabled g f o.guard)).head? = some l))
      ∧ (∀ n, n ≠ o.d.toNat → h.regs.readP n = g.regs.readP n) ∧ h.regs.v = g.regs.v ∧ h.regs.s = g.regs.s
      ∧ OtherGroups s t gk ∧ SameBytes s t)
  ∧ (∀ o s gk g f, AtIssue (.yield o) s gk g f → enabled g f o.guard ≠ 0 →
    exec (.yield o) s = .next (s.setGroup gk (g.setFrag { f.advance with paused := true })))
  ∧ (∀ o s gk g f, AtIssue (.sleep o) s gk g f → enabled g f o.guard ≠ 0 →
    exec (.sleep o) s = .next (s.setGroup gk (g.setFrag (if seqB g f o = 0 then { f.advance with paused := true }
      else { f with wait := .sleep (s.clock + seqB g f o), since := s.clock }))))
  ∧ (∀ o s gk g f, AtIssue (.waitf o) s gk g f →
    ((∀ n < 12, (o.b.immVal.toNat).testBit n = true → g.flag n = 0) → g.flagErr = [] →
      exec (.waitf o) s = .next (s.setGroup gk (g.setFrag f.advance)))
    ∧ (∀ n < 12, (o.b.immVal.toNat).testBit n = true → g.flag n ≠ 0 →
      ∃ t h f', exec (.waitf o) s = .next t ∧ t.group gk = some h ∧ h.frag f.id = some f'
        ∧ f' = { f with wait := .flags (o.b.immVal.toNat % 2 ^ 12), since := s.clock }))

/-- The control transfers divide their fragment as Transfer of R96 says, with the targets of R128: BRA and CALL by a signed
word offset from the next header, BRX, CALLX and RET to a pair of each lane or of scalars. CALL and CALLX write the link, the
address of the next header, to a pair of each Enabled lane, or of scalars where a lane is Enabled. Targets are aligned
where lanes take them; a scalar link does not name the activity mask. -/
def Sys2Proof.Claims.ControlTransfers : Prop :=
  (∀ o s gk g f, AtIssue (.bra o) s gk g f → liveLanes f ≠ 0 → f.nextHdr % 8 = 0 → f.nextHdr < 2 ^ 64 →
    exec (.bra o) s = .next (s.setGroup gk (transfer s.clock g f (guardLanes g o.guard) fun _ =>
      (BitVec.ofNat 64 f.nextHdr + o.b.immVal.signExtend 64 * 8).toNat)))
  ∧ (∀ i o, (i = .brx o ∨ i = .ret o) → ∀ s gk g f, AtIssue i s gk g f → liveLanes f ≠ 0 →
    (∀ l ∈ laneList (enabled g f o.guard), opA g f o 2 l % 8 = 0) →
    exec i s = .next (s.setGroup gk (transfer s.clock g f (guardLanes g o.guard) fun l => opA g f o 2 l)))
  ∧ (∀ i o tgt, (i = .call o ∧ tgt = offTarget o ∨ i = .callx o ∧ tgt = regTarget o) → i.wf = true →
    ∀ s gk g f, AtIssue i s gk g f → liveLanes f ≠ 0 →
    (∀ l ∈ laneList (enabled g f o.guard), tgt g f l % 8 = 0) → f.nextHdr < 2 ^ 64 → (o.x = 1 → o.d.toNat < 124) →
    ∃ t h regs, exec i s = .next t ∧ t.group gk = some h ∧ h.regs = regs
      ∧ h.frags = (transfer s.clock { g.issuing f i with regs := regs } f (guardLanes g o.guard) (tgt g f)).frags
      ∧ (o.x = 0 → ∀ l ∈ laneList (enabled g f o.guard), readVk h o.d.toNat l 2 = f.nextHdr)
      ∧ (o.x = 1 → enabled g f o.guard ≠ 0 →
          (h.regs.readS o.d.toNat).toNat + 2 ^ 32 * (h.regs.readS (o.d.toNat + 1)).toNat = f.nextHdr))

/-- Transfer where every live lane takes one target (R96): one fragment with all the lanes goes to the target's header,
keeps the mask and the ageing counter, and nothing is deferred. -/
def Sys2Proof.Claims.UniformTransfer : Prop :=
  ∀ now g f taken a, f.members ≠ 0 → (∀ l, (liveLanes f).getLsbD l = true → taken.getLsbD l = true) →
    (∀ k < 24, f.members &&& sliceLanes k ≠ 0 → liveLanes f &&& sliceLanes k ≠ 0) →
    (transfer now g f taken fun _ => a).deferred = g.deferred
    ∧ ∃ f', (transfer now g f taken fun _ => a).frags = (g.frags.filter fun x => x.id != f.id) ++ [f']
      ∧ f'.hdr = a ∧ f'.word = 0 ∧ f'.members = f.members ∧ f'.mask = f.mask &&& f.members ∧ f'.age = f.age

/-- Transfer where the live lanes of a fragment of one slice go two ways (R96): the lowest live lane whose guard is true
gives the lead PC; the lanes that go elsewhere leave as one deferred entry of the slice, the youngest; the others and the
slice's idle lanes go on at the lead PC. -/
def Sys2Proof.Claims.DividedTransfer : Prop :=
  ∀ now g f taken tgt k i b, k < 24 → (∀ l, f.members.getLsbD l = true → l / 4 = k) →
    (laneList (liveLanes f &&& taken)).head? = some i →
    let nxt (l : Nat) : Nat := if taken.getLsbD l = true then tgt l else f.nextHdr
    b ≠ tgt i → (∀ l ∈ laneList (liveLanes f), nxt l = tgt i ∨ nxt l = b) → (∃ l ∈ laneList (liveLanes f), nxt l = b) →
    ∃ d f', (transfer now g f taken tgt).deferred = g.deferred ++ [d] ∧ d.slice = k ∧ d.hdr = b ∧ d.order = g.nextOrder
      ∧ (∀ l, d.lanes.getLsbD l = true ↔ (liveLanes f).getLsbD l = true ∧ nxt l = b)
      ∧ (transfer now g f taken tgt).frags = (g.frags.filter fun x => x.id != f.id) ++ [f']
      ∧ f'.hdr = tgt i ∧ f'.word = 0 ∧ f'.age = f.age ∧ f'.mask = f.mask &&& f'.members
      ∧ ∀ l, f'.members.getLsbD l = true ↔ f.members.getLsbD l = true ∧ d.lanes.getLsbD l = false

/-- The control transfers, the transfer of a fragment whose lanes all go one way, and that of a slice whose lanes go two ways
(R96, R128). -/
def Obligations.ControlTransfersDivide : Prop := ControlTransfers ∧ UniformTransfer ∧ DividedTransfer


/-- EXIT (R128, R94): the Enabled lanes exit; where a live lane is left, the fragment goes on at the next header without
them; where none is left, the fragment retires with its idle lanes. -/
def Obligations.ExitLeavesLanes : Prop :=
  ∀ o s gk g f, AtIssue (.exit o) s gk g f →
    ∃ t h, exec (.exit o) s = .next t ∧ t.group gk = some h ∧ h.regs = g.regs ∧ h.flags = g.flags
      ∧ (f.mask &&& (f.members &&& ~~~ enabled g f o.guard) ≠ 0 →
          h.exited = g.exited ||| (f.members &&& enabled g f o.guard)
          ∧ ∃ f', h.frag f.id = some f' ∧ f'.members = f.members &&& ~~~ (f.members &&& enabled g f o.guard)
            ∧ f'.mask = f.mask &&& ~~~ (f.members &&& enabled g f o.guard) ∧ f'.hdr = f.advance.hdr)
      ∧ (f.mask &&& (f.members &&& ~~~ enabled g f o.guard) = 0 → h.exited = g.exited ||| f.members
          ∧ ((∀ x ∈ g.frags, x.id < g.nextFrag) → h.frag f.id = none))

/-- REGANG (R97, R98): the fragment waits, and the youngest deferred entry of each of its slices leaves the list and
becomes a fragment with its lanes at its own PC; every other entry and fragment stays. REGANG_RESOLVE: once every live
fragment waits at a REGANG, those at one word fuse into one with the lanes of all of them, and all go on at the header after
their clause; of two at one word, one is left, with the greater ageing counter. -/
def Obligations.RegangReleasesAndFuses : Prop :=
  (∀ o s gk g f, AtIssue (.regang o) s gk g f → (g.deferred.map fun d => d.order).Nodup →
    ∃ t h, exec (.regang o) s = .next t ∧ t.group gk = some h
      ∧ h.frag f.id = some { f with wait := .regang, since := s.clock } ∧ (∀ x ∈ g.frags, x.id ≠ f.id → x ∈ h.frags)
      ∧ h.frags.length = g.frags.length + ((slicesOf f.members).filter fun k => (youngest g.deferred k).isSome).length
      ∧ (∀ k ∈ slicesOf f.members, ∀ d, youngest g.deferred k = some d → ∃ x ∈ h.frags, x.members = d.lanes
          ∧ x.mask = d.lanes ∧ x.hdr = d.hdr ∧ x.word = 0 ∧ x.wait = .none ∧ x.heldTrap = d.heldTrap ∧ x.heldUi = d.heldUi)
      ∧ (∀ e, e ∈ h.deferred ↔ e ∈ g.deferred ∧ ∀ k ∈ slicesOf f.members, youngest g.deferred k ≠ some e)
      ∧ h.regs = g.regs ∧ h.flags = g.flags ∧ OtherGroups s t gk ∧ SameBytes s t)
  ∧ (∀ s gk g, s.group gk = some g → s.stopped g = false → g.frags ≠ [] →
    (∀ f ∈ g.frags, f.wait = .regang ∧ f.hw.isSome = true) →
    ∃ t h, exec (.regangResolve gk) s = .next t ∧ t.group gk = some h ∧ h.deferred = g.deferred ∧ h.regs = g.regs
      ∧ h.flags = g.flags ∧ OtherGroups s t gk ∧ SameBytes s t
      ∧ ∀ f ∈ g.frags, ∃ x ∈ h.frags, x.hdr = f.nextHdr ∧ x.word = 0 ∧ x.wait = .none
        ∧ ∀ l, (x.members.getLsbD l = true ↔ ∃ y ∈ g.frags, y.addr = f.addr ∧ y.nextHdr = f.nextHdr ∧ y.members.getLsbD l = true)
          ∧ (x.mask.getLsbD l = true ↔ ∃ y ∈ g.frags, y.addr = f.addr ∧ y.nextHdr = f.nextHdr ∧ y.mask.getLsbD l = true))
  ∧ (∀ s gk g f f', s.group gk = some g → s.stopped g = false → g.frags = [f, f'] → f.wait = .regang → f'.wait = .regang →
    f.hw.isSome = true → f'.hw.isSome = true → f.addr = f'.addr → f.nextHdr = f'.nextHdr →
    ∃ t h x, exec (.regangResolve gk) s = .next t ∧ t.group gk = some h ∧ h.frags = [x]
      ∧ x.members = f'.members ||| f.members ∧ x.mask = f'.mask ||| f.mask ∧ x.hdr = f.nextHdr ∧ x.word = 0 ∧ x.wait = .none
      ∧ x.age = max f'.age f.age)

/-- CLAIM (R131): where n lies in 1 to 256, the budget stays within 2048 and the reserve and the core's free pool cover it,
the budget grows by 8n and pD is true in every member lane; the units come from the team's reserve first, and what it lacks
from the core's free pool (R102); a CLAIM that fails changes nothing but pD. A write to p7 is discarded (R63). -/
def Sys2Proof.Claims.ClaimGrowsBudget : Prop :=
  ∀ o s gk g f, AtIssue (.claim o) s gk g f → enabled g f o.guard ≠ 0 →
    ∃ t h, exec (.claim o) s = .next t ∧ t.group gk = some h ∧ (o.d.toNat = 7 → h.regs.p = g.regs.p)
      ∧ (o.d.toNat < 7 → ∀ l ∈ laneList f.members, (h.regs.readP o.d.toNat).getLsbD l = claimOk s gk g (seqB g f o))
      ∧ (claimOk s gk g (seqB g f o) = true ↔ 1 ≤ seqB g f o ∧ seqB g f o ≤ 256 ∧ g.budget + 8 * seqB g f o ≤ 2048
          ∧ 8 * seqB g f o ≤ (match g.unit with | .team tk => ((s.team tk).map fun x => 8 * x.reserve).getD 0 | _ => 0)
            + s.claimable (coreOf gk))
      ∧ (claimOk s gk g (seqB g f o) = true → h.budget = g.budget + 8 * seqB g f o ∧ h.budget ≤ 2048
          ∧ (∀ tk x, g.unit = .team tk → s.team tk = some x →
              t.team tk = some { x with reserve := x.reserve - seqB g f o }
              ∧ (Tab.wf s.groups = true → Tab.wf s.teams = true → tk / 8 = coreOf gk →
                  t.freeRegs (coreOf gk) = s.freeRegs (coreOf gk) - 8 * (seqB g f o - x.reserve)))
          ∧ ((∀ tk, g.unit ≠ .team tk) → t.teams = s.teams
              ∧ (Tab.wf s.groups = true → t.freeRegs (coreOf gk) = s.freeRegs (coreOf gk) - 8 * seqB g f o))
          ∧ ∀ n l, n < g.budget → l < 96 → h.regs.readV n l = g.regs.readV n l)
      ∧ (claimOk s gk g (seqB g f o) = false → h.budget = g.budget ∧ t.teams = s.teams ∧ h.regs.v = g.regs.v
          ∧ h.regs.s = g.regs.s ∧ h.regs.uSeed = g.regs.uSeed)
      ∧ OtherGroups s t gk ∧ SameBytes s t

/-- GIVEBACK (R131, R103): it waits until every flag of the group is zero; then, where 8n is below the budget, the budget
shrinks by 8n and a team's reserve gains n units; registers below the new budget keep their values. A write to p7 is
discarded (R63). -/
def Sys2Proof.Claims.GivebackShrinksBudget : Prop :=
  ∀ o s gk g f, AtIssue (.giveback o) s gk g f → enabled g f o.guard ≠ 0 →
    ∃ t h, exec (.giveback o) s = .next t ∧ t.group gk = some h ∧ (o.d.toNat = 7 → h.regs.p = g.regs.p)
      ∧ (∀ n < 12, g.flag n ≠ 0 → h = g.setFrag { f with wait := .allFlags, since := s.clock })
      ∧ ((∀ n < 12, g.flag n = 0) → 1 ≤ seqB g f o → seqB g f o ≤ 256 → 8 * seqB g f o < g.budget →
          h.budget = g.budget - 8 * seqB g f o
          ∧ (o.d.toNat < 7 → ∀ l ∈ laneList f.members, (h.regs.readP o.d.toNat).getLsbD l = true)
          ∧ (∀ tk x, g.unit = .team tk → s.team tk = some x →
              (t.team tk).map (fun y => y.reserve) = some (x.reserve + seqB g f o)))
      ∧ (∀ n l, n < h.budget → l < 96 → h.regs.readV n l = g.regs.readV n l) ∧ OtherGroups s t gk ∧ SameBytes s t
      ∧ ((∀ n < 12, g.flag n = 0) → (seqB g f o = 0 ∨ 256 < seqB g f o ∨ g.budget ≤ 8 * seqB g f o) →
          h.budget = g.budget ∧ (o.d.toNat < 7 → ∀ l ∈ laneList f.members, (h.regs.readP o.d.toNat).getLsbD l = false))

/-- CLAIM and GIVEBACK (R103, R131). -/
def Obligations.BudgetWords : Prop := ClaimGrowsBudget ∧ GivebackShrinksBudget


/-- The barrier words of a team's group (R106, R107, R132), whose earlier accesses are performed: BARARV arrives, with a
count above 16 taken as 16, and goes on; BARWT goes on where the barrier has passed, and waits otherwise; BARSYN does both in
turn. Only the issuing fragment waits. In a task or slalom group all three raise ILLEGAL. -/
def Sys2Proof.Claims.BarrierWords : Prop :=
  (∀ o s gk g f tk x, AtIssue (.bararv o) s gk g f → enabled g f o.guard ≠ 0 → g.unit = .team tk → s.team tk = some x →
    g.allPerformed = true →
    ∃ t h, exec (.bararv o) s = .next t ∧ t.group gk = some h ∧ h.frags = (g.setFrag f.advance).frags
      ∧ t.team tk = some (x.arrive o.d.toNat g.gnum (min (seqB g f o) 16)).1
      ∧ h.arrgen = (match (x.arrive o.d.toNat g.gnum (min (seqB g f o) 16)).2 with
        | none => g.arrgen | some n => Tab.put g.arrgen o.d.toNat n)
      ∧ h.regs = g.regs ∧ OtherGroups s t gk ∧ SameBytes s t)
  ∧ (∀ o s gk g f tk x, AtIssue (.barwt o) s gk g f → enabled g f o.guard ≠ 0 → g.unit = .team tk → s.team tk = some x →
    ∃ t h, exec (.barwt o) s = .next t ∧ t.group gk = some h ∧ t.teams = s.teams
      ∧ h.frags = (g.setFrag (if g.passed x o.d.toNat = true then f.advance
          else { f with wait := .barrier o.d.toNat, since := s.clock })).frags
      ∧ h.regs = g.regs ∧ OtherGroups s t gk ∧ SameBytes s t)
  ∧ (∀ o s gk g f tk x, AtIssue (.barsyn o) s gk g f → enabled g f o.guard ≠ 0 → g.unit = .team tk → s.team tk = some x →
    g.allPerformed = true →
    let y := (x.arrive o.d.toNat g.gnum (min (seqB g f o) 16)).1
    ∃ t h, exec (.barsyn o) s = .next t ∧ t.group gk = some h ∧ t.team tk = some y
      ∧ h.frags = (g.setFrag (if h.passed y o.d.toNat = true then f.advance
          else { f with wait := .barrier o.d.toNat, since := s.clock })).frags
      ∧ h.regs = g.regs ∧ OtherGroups s t gk ∧ SameBytes s t)
  ∧ (∀ i o, (i = .bararv o ∨ i = .barwt o ∨ i = .barsyn o) → ∀ s gk g f, selected s = some (gk, g, f) →
    (∀ tk, g.unit ≠ .team tk) → exec i s = .next (takeTrap s gk g f [plainCause 0]))

/-- What Arrive and Check of R106 do to a barrier: the first arrival fixes the expected count; an arrival of a group whose
bit is set changes nothing; the arrival that makes the count clears the bits and raises the generation by 1, and any other
sets its bit. -/
def Sys2Proof.Claims.BarrierArrival : Prop :=
  ∀ (x : Team) b n cnt, n < 16 →
    let old := x.barrier b
    let new := (x.arrive b n cnt).1.barrier b
    (old.arrived.getLsbD n = true → x.arrive b n cnt = (x, none))
    ∧ (old.arrived.getLsbD n = false →
        (x.arrive b n cnt).2 = some old.gen.toNat
        ∧ let e := if old.arrived = 0 then cnt else old.expect
          (new.expect = e)
          ∧ ((if e = 0 then x.live else e) ≤ old.count + 1 → new.arrived = 0 ∧ new.gen = old.gen + 1)
          ∧ (old.count + 1 < (if e = 0 then x.live else e) →
              new.arrived = old.arrived ||| BitVec.ofNat 16 (2 ^ n) ∧ new.gen = old.gen))

/-- The barrier words, and what an arrival does to a barrier (R106, R107, R132). -/
def Obligations.TeamBarriers : Prop := BarrierWords ∧ BarrierArrival


/-- RDSR and WRSR (R111, R134): RDSR writes the register's value to every Enabled lane, or once to scalars with X = 01; WRSR
writes SR.SWAPT, SR.FPMODE, SR.FPFLAGS, SR.TMASK, SR.EPC, SR.UIVEC, SR.UIEPC and SR.UIEN under their field rules, and
nothing else. A register of 64 bits takes a pair. -/
def Sys2Proof.Claims.SpecialRegisterWords : Prop :=
  (∀ o s gk g f, (Instr.rdsr o).wf = true → AtIssue (.rdsr o) s gk g f → enabled g f o.guard ≠ 0 →
    let k := if sr64 o.a.idx.toNat then 2 else 1
    ∃ t h, exec (.rdsr o) s = .next t ∧ t.group gk = some h
      ∧ (o.x = 0 → ∀ l ∈ laneList (enabled g f o.guard),
          readVk h o.d.toNat l k = srValue s gk g o.a.idx.toNat l % 2 ^ (32 * k))
      ∧ (o.x = 1 → o.d.toNat + k ≤ 125 → ∀ j < k,
          (h.regs.readS (o.d.toNat + j)).toNat = srValue s gk g o.a.idx.toNat 0 / 2 ^ (32 * j) % 2 ^ 32)
      ∧ h.trap = g.trap ∧ h.fpmode = g.fpmode ∧ h.fpflags = g.fpflags ∧ h.swapt = g.swapt
      ∧ OtherGroups s t gk ∧ SameBytes s t)
  ∧ (∀ o s gk g f, (Instr.wrsr o).wf = true → AtIssue (.wrsr o) s gk g f → enabled g f o.guard ≠ 0 →
    o.d ≠ 20 → (o.d = 19 → g.trap.plevel ≠ 0) →
    let x := if o.b.isImm then o.b.immVal.toNat else opA g f o (if sr64 o.d.toNat then 2 else 1) 0
    ∃ t h, exec (.wrsr o) s = .next t ∧ t.group gk = some h ∧ h.frag f.id = some f.advance ∧ h.regs = g.regs
      ∧ h.swapt = (if o.d = 13 then x % 2 ^ 32 else g.swapt)
      ∧ h.fpmode = (if o.d = 14 then BitVec.ofNat 32 x &&& 0x3F else g.fpmode)
      ∧ h.fpflags = (if o.d = 15 then BitVec.ofNat 32 x &&& 0x1F else g.fpflags)
      ∧ h.trap.tmask = (if o.d = 17 then BitVec.ofNat 32 x &&& 0x000B0FC0 else g.trap.tmask)
      ∧ h.trap.epc = (if o.d = 19 then BitVec.ofNat 64 x else g.trap.epc)
      ∧ h.trap.uivec = (if o.d = 23 then BitVec.ofNat 64 x else g.trap.uivec)
      ∧ h.trap.uiepc = (if o.d = 24 then BitVec.ofNat 64 x else g.trap.uiepc)
      ∧ h.trap.uien = (if o.d = 26 then x % 2 == 1 else g.trap.uien)
      ∧ h.trap.hvec = g.trap.hvec ∧ h.trap.cause = g.trap.cause ∧ h.trap.plevel = g.trap.plevel
      ∧ OtherGroups s t gk ∧ SameBytes s t)

/-- The values that RDSR gives (R111), by register number: SR.LANE and SR.SLICE of the lane, the group's place in its team and
on the package, SR.CLOCK, SR.BUDGET, SR.SWAPT, the floating-point and trap registers. -/
def Sys2Proof.Claims.SpecialRegisterValues : Prop :=
  ∀ o s gk g f, (Instr.rdsr o).wf = true → AtIssue (.rdsr o) s gk g f → o.x = 0 →
    ∃ t h, exec (.rdsr o) s = .next t ∧ t.group gk = some h ∧ ∀ l ∈ laneList (enabled g f o.guard),
      let v := (h.regs.readV o.d.toNat l).toNat
      let w := readVk h o.d.toNat l 2
      match o.a.idx.toNat with
      | 0 => v = l
      | 1 => v = l / 4
      | 2 => v = g.gnum % 2 ^ 32
      | 3 => v = g.role % 2 ^ 32
      | 4 => v = g.tx % 2 ^ 32
      | 5 => v = g.ty % 2 ^ 32
      | 6 => v = g.tz % 2 ^ 32
      | 7 => v = gk / 32 % 4
      | 8 => v = gk / 32 / 4 % 12
      | 9 => v = gk / 32 / 48 % 2 ^ 32
      | 10 => w = s.clock % 2 ^ 64
      | 11 => v = g.budget % 2 ^ 32
      | 12 => (∀ n, g.unit ≠ .slalom n) → v = 0xFFFFFFFF
      | 13 => v = g.swapt % 2 ^ 32
      | 14 => v = g.fpmode.toNat
      | 15 => v = g.fpflags.toNat
      | 16 => v = g.trap.cause.toNat
      | 17 => v = g.trap.tmask.toNat
      | 18 => v = g.trap.plevel % 2 ^ 32
      | 19 => w = g.trap.epc.toNat
      | 20 => w = g.trap.hvec.toNat
      | 21 => w = g.trap.eaddr.toNat
      | 22 => v = g.trap.einfo.toNat
      | 23 => w = g.trap.uivec.toNat
      | 24 => w = g.trap.uiepc.toNat
      | 25 => v = g.trap.uisrc.toNat
      | 26 => v = if g.trap.uien = true then 1 else 0
      | _ => True

/-- RDSR and WRSR, and the values that RDSR gives (R111, R134). -/
def Obligations.SpecialRegisters : Prop := SpecialRegisterWords ∧ SpecialRegisterValues

/-- The trap-control words (R135): CAUSECLR at level 1 clears the named bits of SR.CAUSE with their records; TMASK writes the
old SR.TMASK to sD and sets, ORs or clears, keeping the writable bits; UIMASK 1 clears SR.UIEN and UIMASK 0 sets it. -/
def Obligations.TrapControlWords : Prop :=
  (∀ o s gk g f, AtIssue (.causeclr o) s gk g f → enabled g f o.guard ≠ 0 → g.trap.plevel ≠ 0 →
    ∃ t h, exec (.causeclr o) s = .next t ∧ t.group gk = some h ∧ h.frag f.id = some f.advance
      ∧ h.trap.cause = g.trap.cause &&& ~~~ BitVec.ofNat 32 (seqB g f o)
      ∧ (∀ e ∈ h.trap.info, e ∈ g.trap.info ∧ (BitVec.ofNat 32 (seqB g f o)).getLsbD e.1 = false)
      ∧ h.trap.tmask = g.trap.tmask ∧ h.trap.plevel = g.trap.plevel ∧ h.trap.epc = g.trap.epc ∧ h.regs = g.regs
      ∧ OtherGroups s t gk ∧ SameBytes s t)
  ∧ (∀ o s gk g f, (Instr.tmask o).wf = true → AtIssue (.tmask o) s gk g f → enabled g f o.guard ≠ 0 → o.d.toNat < 125 →
    let b := BitVec.ofNat 32 (seqB g f o)
    ∃ t h, exec (.tmask o) s = .next t ∧ t.group gk = some h ∧ h.regs.readS o.d.toNat = g.trap.tmask
      ∧ h.trap.tmask = 0x000B0FC0 &&& (if o.x = 0 then b else if o.x = 1 then g.trap.tmask ||| b
          else g.trap.tmask &&& ~~~ b)
      ∧ h.trap.cause = g.trap.cause ∧ h.trap.plevel = g.trap.plevel ∧ OtherGroups s t gk ∧ SameBytes s t)
  ∧ (∀ o s gk g f, (Instr.uimask o).wf = true → AtIssue (.uimask o) s gk g f → enabled g f o.guard ≠ 0 →
    ∃ t h, exec (.uimask o) s = .next t ∧ t.group gk = some h ∧ h.frag f.id = some f.advance
      ∧ (o.b.immVal = 1 → h.trap.uien = false) ∧ (o.b.immVal = 0 → h.trap.uien = true)
      ∧ h.trap.cause = g.trap.cause ∧ h.trap.tmask = g.trap.tmask ∧ h.regs = g.regs
      ∧ OtherGroups s t gk ∧ SameBytes s t)

/-- A vector that the group may be sent to: in a slalom group, one inside the segment that its core serves (R399). -/
def Sys2Proof.Claims.MayEnter (s : State) (gk : Nat) (g : Group) (vec : W64) : Prop :=
  ∀ n, g.unit = .slalom n → ∃ gr x, s.pinned (coreOf gk) = some (gr, x) ∧ gr.code.toNat + x.off ≤ vec.toNat
    ∧ vec.toNat < gr.code.toNat + x.off + x.len

/-- Taking an exception (R115-R117): in a group at level 0 with a handler that it may be sent to, every cause that the word
raises is recorded in SR.CAUSE; SR.EPC takes the address of the word, SR.EADDR and SR.EINFO the values of the lowest cause; the
mask and the level are saved; SR.PLEVEL becomes 1; the fragment goes to SR.HVEC; the group's other fragments are held; no
register of the group changes. -/
def Sys2Proof.Claims.TrapEntry : Prop :=
  ∀ s gk g f cs c r, g.frag f.id = some f → g.trap.plevel = 0 → g.trap.hvec ≠ 0 → MayEnter s gk g g.trap.hvec →
    (cs.map Prod.fst).Nodup → (∀ x ∈ cs, x.1 < 20) → (c, r) ∈ cs → (∀ x ∈ cs, c ≤ x.1) →
    ∃ h f', (takeTrap s gk g f cs).group gk = some h
      ∧ (∀ n, h.trap.cause.getLsbD n = (g.trap.cause.getLsbD n || cs.any fun x => x.1 == n))
      ∧ h.trap.epc = BitVec.ofNat 64 f.addr
      ∧ h.trap.eaddr = r.eaddr ∧ h.trap.einfo = BitVec.ofNat 32 (2 ^ 24 * c + r.detail % 2 ^ 24)
      ∧ h.trap.savedMask = f.mask ∧ h.trap.savedLevel = 0 ∧ h.trap.plevel = 1
      ∧ h.frag f.id = some f' ∧ f'.hdr = g.trap.hvec.toNat ∧ f'.word = 0 ∧ f'.wait = .none ∧ f'.mask = f.mask
      ∧ (∀ x ∈ g.frags, x.id ≠ f.id → { x with heldTrap := true } ∈ h.frags)
      ∧ h.regs = g.regs ∧ h.flags = g.flags ∧ h.trap.hvec = g.trap.hvec ∧ h.trap.tmask = g.trap.tmask
      ∧ (takeTrap s gk g f cs).kills = s.kills ∧ OtherGroups s (takeTrap s gk g f cs) gk
      ∧ SameBytes s (takeTrap s gk g f cs)

/-- Synchronous causes at level 1, or in a group with no handler, end the unit with KillUnit (R116, R118): the unit is
marked, with the lowest cause and its values, SR.EPC at the word and the unit's identity for its error record. So does a
handler outside a slalom group's segment, with SEGEXIT, code 5, and the vector (R400, R403). -/
def Sys2Proof.Claims.NestedFaultKillsUnit : Prop :=
  ∀ s gk g f cs c r, (cs.map Prod.fst).Nodup → (∀ x ∈ cs, x.1 < 20) → (c, r) ∈ cs → (∀ x ∈ cs, c ≤ x.1) →
    (∀ k ∈ s.kills, k.unit ≠ g.unit) →
    ((g.trap.plevel ≠ 0 ∨ g.trap.hvec = 0) →
      ∃ k, (takeTrap s gk g f cs).kills = s.kills ++ [k] ∧ k.unit = g.unit ∧ k.cause = c ∧ k.epc = BitVec.ofNat 64 f.addr
        ∧ k.eaddr = r.eaddr ∧ k.einfo = BitVec.ofNat 32 (2 ^ 24 * c + r.detail % 2 ^ 24)
        ∧ k.tenant = g.tenant ∧ k.part = g.part ∧ k.lin = g.lin)
    ∧ (g.trap.plevel = 0 → g.trap.hvec ≠ 0 → ¬ MayEnter s gk g g.trap.hvec →
      ∃ k, (takeTrap s gk g f cs).kills = s.kills ++ [k] ∧ k.unit = g.unit ∧ k.cause = 15 ∧ k.epc = BitVec.ofNat 64 f.addr
        ∧ k.eaddr = g.trap.hvec ∧ k.einfo = BitVec.ofNat 32 (2 ^ 24 * 15 + 5))

/-- Taking an exception: entry to the handler at level 0, and the end of the unit where there is none or at level 1 (R115-R118). -/
def Obligations.ExceptionEntry : Prop := TrapEntry ∧ NestedFaultKillsUnit


/-- TRAP and BKPT raise SWTRAP and BKPT with their IMM22 (R135, R117); in a partition that a debugger has claimed, BKPT halts
the unit: every group of it is halted, and the fragment stays at the word (R482). -/
def Obligations.TrapAndBreakpoint : Prop :=
  (∀ o s gk g f, AtIssue (.trap o) s gk g f → enabled g f o.guard ≠ 0 →
    exec (.trap o) s = .next (takeTrap s gk g f [(13, { eaddr := 0, detail := o.b.immVal.toNat })]))
  ∧ (∀ o s gk g f, AtIssue (.bkpt o) s gk g f → enabled g f o.guard ≠ 0 → s.fe.claim ≠ some g.part →
    exec (.bkpt o) s = .next (takeTrap s gk g f [(14, { eaddr := 0, detail := o.b.immVal.toNat })]))
  ∧ (∀ o s gk g f, AtIssue (.bkpt o) s gk g f → enabled g f o.guard ≠ 0 → s.fe.claim = some g.part →
    ∃ t h f', exec (.bkpt o) s = .next t ∧ t.group gk = some h ∧ h.halted = true ∧ h.frag f.id = some f' ∧ f'.addr = f.addr
      ∧ h.trap = g.trap ∧ ∀ k x, s.group k = some x → x.unit = g.unit → ∃ y, t.group k = some y ∧ y.halted = true)

/-- A return point as the registers hold it: a word of a clause, where hardware saved it, or a header, where software wrote
it (R58). -/
def Sys2Proof.Claims.ReturnPoint (pc : W64) (hdr : Nat) (hw : Bool) : Prop :=
  (hw = true → hdr ≤ pc.toNat ∧ (pc.toNat - hdr) % 8 = 0) ∧ (hw = false → pc.toNat % 8 = 0)

/-- TRET.resume at level 1 (R119, R58): the saved level and mask come back, the fragments that the handler held are
released, and the fragment goes back to the word at SR.EPC, in the clause that it was taken from, whose header is read again;
where software wrote SR.EPC, it is a header, and ILLEGAL is raised where that is no multiple of 8. No unmasked cause is left set. Where no lane of the saved mask is left in the fragment, it retires instead (R79, R94). -/
def Sys2Proof.Claims.TretResumes : Prop :=
  (∀ o s gk g f, AtIssue (.tretResume o) s gk g f → g.trap.plevel ≠ 0 → ReturnPoint g.trap.epc g.trap.epcHdr g.trap.epcHw →
    (∀ c < 20, g.trap.cause.getLsbD c = true → g.trap.tmask.getLsbD c = true) →
    ∃ t h, exec (.tretResume o) s = .next t ∧ t.group gk = some h ∧ h.trap.plevel = g.trap.savedLevel
      ∧ (g.trap.savedMask &&& f.members ≠ 0 → ∃ f', h.frag f.id = some f' ∧ f'.addr = g.trap.epc.toNat
          ∧ f'.hdr = (if g.trap.epcHw = true then g.trap.epcHdr else g.trap.epc.toNat) ∧ f'.hw = none ∧ f'.wait = .none
          ∧ f'.mask = g.trap.savedMask &&& f.members)
      ∧ (g.trap.savedMask &&& f.members = 0 → h.exited = g.exited ||| f.members
          ∧ ((∀ x ∈ g.frags, x.id < g.nextFrag) → h.frag f.id = none))
      ∧ (∀ x ∈ h.frags, x.heldTrap = false) ∧ (∀ d ∈ h.deferred, d.heldTrap = false)
      ∧ h.regs = g.regs ∧ h.flags = g.flags ∧ h.trap.cause = g.trap.cause ∧ OtherGroups s t gk ∧ SameBytes s t)
  ∧ ∀ o s gk g f, selected s = some (gk, g, f) → g.trap.plevel ≠ 0 → g.trap.epcHw = false → g.trap.epc.toNat % 8 ≠ 0 →
    exec (.tretResume o) s = .next (takeTrap s gk g f [plainCause 0])

/-- TRET.resume with an unmasked cause left set (R119): the handler, at level 0 before the trap, is entered again at once, with
SR.EPC at the resume point. The cause that it is entered for is the lowest deferrable one, or, with none of those, the lowest,
by the model's choice (log 36). -/
def Sys2Proof.Claims.TretEntersAgain : Prop :=
  ∀ o s gk g f c, AtIssue (.tretResume o) s gk g f → g.trap.plevel ≠ 0 → ReturnPoint g.trap.epc g.trap.epcHdr g.trap.epcHw →
    g.trap.savedMask &&& f.members ≠ 0 → g.trap.savedLevel = 0 → g.trap.hvec ≠ 0 → MayEnter s gk g g.trap.hvec →
    ((dueCauses g.trap).head? = some c ∨ dueCauses g.trap = [] ∧ c < 20 ∧ g.trap.cause.getLsbD c = true
      ∧ g.trap.tmask.getLsbD c = false ∧ ∀ d < c, g.trap.cause.getLsbD d = true → g.trap.tmask.getLsbD d = true) →
    ∃ t h f', exec (.tretResume o) s = .next t ∧ t.group gk = some h ∧ h.trap.plevel = 1 ∧ h.trap.savedLevel = 0
      ∧ h.trap.epc = g.trap.epc ∧ h.trap.einfo.toNat / 2 ^ 24 = c ∧ h.trap.savedMask = g.trap.savedMask &&& f.members
      ∧ h.trap.cause = g.trap.cause ∧ h.frag f.id = some f' ∧ f'.addr = g.trap.hvec.toNat ∧ f'.wait = .none
      ∧ h.regs = g.regs ∧ h.flags = g.flags ∧ OtherGroups s t gk ∧ SameBytes s t

/-- TRET.skip and TRET.kill at level 1 (R119): skip ends a task group as skipped, with no fragment left; in another group
whose header can be fetched it goes on at the word after SR.EPC, and where SR.EPC is a header it acts as kill; kill marks the
unit for KillUnit. -/
def Sys2Proof.Claims.TretSkipsAndKills : Prop :=
  (∀ o s gk g f n, AtIssue (.tretSkip o) s gk g f → g.trap.plevel ≠ 0 → g.unit = .task n →
    ∃ t h, exec (.tretSkip o) s = .next t ∧ t.group gk = some h ∧ h.frags = [] ∧ h.deferred = [] ∧ h.ending = .skipped
      ∧ h.exited = allLanes ∧ h.regs = g.regs)
  ∧ (∀ o s gk g f hd, AtIssue (.tretSkip o) s gk g f → g.trap.plevel ≠ 0 → (∀ n, g.unit ≠ .task n) → g.trap.epcHw = true →
    g.trap.epcHdr < g.trap.epc.toNat → (g.trap.epc.toNat - g.trap.epcHdr) % 8 = 0 →
    (s.fetchHeader gk (g.issuing f (.tretSkip o)) f g.trap.epcHdr).2 = .ok hd →
    (s.fetchHeader gk (g.issuing f (.tretSkip o)) f g.trap.epcHdr).1.stall = s.stall → g.trap.savedMask &&& f.members ≠ 0 →
    (∀ c < 20, g.trap.cause.getLsbD c = true → g.trap.tmask.getLsbD c = true) →
    ∃ t h f', exec (.tretSkip o) s = .next t ∧ t.group gk = some h ∧ h.trap.plevel = g.trap.savedLevel
      ∧ h.frag f.id = some f'
      ∧ f'.addr = (if (g.trap.epc.toNat - g.trap.epcHdr) / 8 < hd.len.toNat then g.trap.epc.toNat + 8
          else g.trap.epcHdr + 8 * (hd.len.toNat + 1)) ∧ h.regs = g.regs)
  ∧ (∀ o s gk g f, AtIssue (.tretSkip o) s gk g f → g.trap.plevel ≠ 0 → (∀ n, g.unit ≠ .task n) →
    (g.trap.epcHw = false ∨ g.trap.epc.toNat = g.trap.epcHdr) → (∀ k ∈ s.kills, k.unit ≠ g.unit) →
    ∃ t k, exec (.tretSkip o) s = .next t ∧ t.kills = s.kills ++ [k] ∧ k.unit = g.unit)
  ∧ (∀ o s gk g f, AtIssue (.tretKill o) s gk g f → g.trap.plevel ≠ 0 → (∀ k ∈ s.kills, k.unit ≠ g.unit) →
    ∃ t k, exec (.tretKill o) s = .next t ∧ t.kills = s.kills ++ [k] ∧ k.unit = g.unit ∧ k.epc = g.trap.epc)

/-- The three forms of TRET (R119). -/
def Obligations.ReturnFromException : Prop := TretResumes ∧ TretEntersAgain ∧ TretSkipsAndKills


/-- What the level of R112 forbids (R127, R134, R135): at level 0, CAUSECLR and the three TRET raise PRIV whatever lanes are
Enabled; a WRSR to SR.HVEC raises PRIV at every level, and one to SR.EPC at level 0. -/
def Obligations.PrivilegedWordsTrap : Prop :=
  (∀ i o, (i = .causeclr o ∨ i = .tretResume o ∨ i = .tretSkip o ∨ i = .tretKill o) →
    ∀ s gk g f, AtIssue i s gk g f → g.trap.plevel = 0 → exec i s = .next (takeTrap s gk g f [plainCause 1]))
  ∧ ∀ o s gk g f, AtIssue (.wrsr o) s gk g f → (o.d = 20 ∨ o.d = 19 ∧ g.trap.plevel = 0) →
    exec (.wrsr o) s = .next (takeTrap s gk g f [plainCause 1])

/-- The order of the checks at issue (R80): where ILLEGAL applies it alone is taken; otherwise every operand past the budget
raises REGRANGE with its index, and the word has no other effect. Stated of every fixed-latency and every tracked word of
the pipes. -/
def Obligations.IssueChecksInOrder : Prop :=
  ∀ i, ((aluEff i).isSome = true ∨ (fcEff i).isSome = true) → ∀ s gk g f, selected s = some (gk, g, f) →
    (illegalAtIssue i f = true → exec i s = .next (takeTrap s gk g f [plainCause 0]))
    ∧ (illegalAtIssue i f = false → ∀ n k, (Instr.refs i).find? (fun r => g.budget < r.1 + r.2) = some (n, k) →
        exec i s = .next (takeTrap s gk g f [(5, { eaddr := 0, detail := n })]))

/-- URET (R113, R58): with a user interrupt active, the fragment continues at SR.UIEPC, in the clause that the interrupt took
it from, or, where software wrote SR.UIEPC, at a header there; the interrupt is no longer active, SR.UIEN is 1, and the held
fragments may issue again. With none active, or with a header there that is no multiple of 8, it raises ILLEGAL (R58, R135). -/
def Obligations.UretEndsInterrupt : Prop :=
  (∀ o s gk g f, AtIssue (.uret o) s gk g f → g.trap.uiact = true → ReturnPoint g.trap.uiepc g.trap.uiepcHdr g.trap.uiepcHw →
    ∃ t h f', exec (.uret o) s = .next t ∧ t.group gk = some h ∧ h.trap.uiact = false ∧ h.trap.uien = true
      ∧ h.frag f.id = some f' ∧ f'.addr = g.trap.uiepc.toNat
      ∧ f'.hdr = (if g.trap.uiepcHw = true then g.trap.uiepcHdr else g.trap.uiepc.toNat) ∧ f'.wait = .none
      ∧ (∀ x ∈ h.frags, x.id ≠ f.id → x.heldUi = false) ∧ (∀ d ∈ h.deferred, d.heldUi = false)
      ∧ h.regs = g.regs ∧ h.flags = g.flags ∧ h.trap.cause = g.trap.cause ∧ h.trap.uipend = g.trap.uipend
      ∧ OtherGroups s t gk ∧ SameBytes s t)
  ∧ ∀ o s gk g f, selected s = some (gk, g, f) →
    (g.trap.uiact = false ∨ g.trap.uiepcHw = false ∧ g.trap.uiepc.toNat % 8 ≠ 0) →
    exec (.uret o) s = .next (takeTrap s gk g f [plainCause 0])

/-- A waiting fragment of a unit that is not stopped, and that nothing holds, whose clause header is in force. -/
structure Sys2Proof.Claims.Waiting (s : State) (gk : Nat) (g : Group) (f : Frag) : Prop where
  group : s.group gk = some g
  frag : g.frag f.id = some f
  runs : s.stopped g = false
  free : f.free = true
  header : f.hw.isSome = true

/-- Waits that end (R107, R133): a fragment at a barrier that has passed returns and goes on; a SLEEP whose cycles have run
out goes on, and one whose cycles have not goes on waiting. -/
def Sys2Proof.Claims.WaitsEnd : Prop :=
  (∀ s gk g f b tk x, Waiting s gk g f → f.wait = .barrier b → g.unit = .team tk → s.team tk = some x →
    g.passed x b = true →
    ∃ t h, exec (.barrierWaitReturn gk f.id) s = .next t ∧ t.group gk = some h ∧ h.frag f.id = some f.advance
      ∧ h.regs = g.regs ∧ OtherGroups s t gk ∧ SameBytes s t)
  ∧ (∀ s gk g f till, Waiting s gk g f → f.wait = .sleep till →
    (till ≤ s.clock → exec (.sleepExpire gk f.id) s = .next (s.setGroup gk (g.setFrag f.advance)))
    ∧ (s.clock < till → exec (.sleepExpire gk f.id) s = .next s))

/-- Deliveries at a word (R110, R115-R117): a recorded, unmasked cause, the lowest deferrable one, enters the handler with
SR.EPC at the word, at the fragment that takes it: the one that its core selects (R99), or, while TIMEOUT is due, the one
whose wait timed out; and a pending user interrupt, with no such cause, goes to SR.UIVEC
with SR.UIEPC at the word, SR.UIEN and the pending bit cleared; it also reaches a fragment that still waits at a header or
in WAITF, SLEEP, WAITA or WAITGE, which abandons its wait. The group has a handler that it may be sent to. -/
def Sys2Proof.Claims.Deliveries : Prop :=
  (∀ s gk g f c cs, Waiting s gk g f → s.takesDue gk g f = true → dueCauses g.trap = c :: cs →
    g.trap.plevel = 0 → g.trap.hvec ≠ 0 → MayEnter s gk g g.trap.hvec →
    ∃ t h f', exec (.deferredTrapDeliver gk f.id) s = .next t ∧ t.group gk = some h
      ∧ h.trap.epc = BitVec.ofNat 64 f.addr ∧ h.trap.plevel = 1 ∧ h.trap.cause = g.trap.cause
      ∧ h.trap.einfo.toNat / 2 ^ 24 = c ∧ h.frag f.id = some f' ∧ f'.addr = g.trap.hvec.toNat
      ∧ (∀ d ∈ cs, c < d) ∧ h.regs = g.regs ∧ OtherGroups s t gk ∧ SameBytes s t)
  ∧ (∀ s gk g f, Waiting s gk g f → (s.mayIssue gk g f = true ∧ f.word ≠ 0 ∨ s.mayIssue gk g f = false
      ∧ (f.wait = .header ∨ (∃ m, f.wait = .flags m) ∨ (∃ n, f.wait = .sleep n) ∨ (∃ m, f.wait = .waita m) ∨ ∃ m, f.wait = .waitge m)) →
    dueCauses g.trap = [] → g.trap.uipend = true → g.trap.uien = true → g.trap.uivec ≠ 0 → g.trap.plevel = 0 →
    g.trap.uiact = false → MayEnter s gk g g.trap.uivec →
    ∃ t h f', exec (.userInterruptDeliver gk f.id) s = .next t ∧ t.group gk = some h
      ∧ h.trap.uiepc = BitVec.ofNat 64 f.addr ∧ h.trap.uiact = true ∧ h.trap.uien = false ∧ h.trap.uipend = false
      ∧ h.trap.uisrc = g.trap.uisrc ∧ h.frag f.id = some f' ∧ f'.addr = g.trap.uivec.toNat
      ∧ (∀ x ∈ g.frags, x.id ≠ f.id → { x with heldUi := true } ∈ h.frags)
      ∧ h.regs = g.regs ∧ OtherGroups s t gk ∧ SameBytes s t)

/-- A pending interrupt is not delivered while SR.UIVEC is 0, SR.UIEN is 0, the level is 1 or one is active (R110). -/
def Sys2Proof.Claims.UserInterruptHeld : Prop :=
  ∀ s gk g f, Waiting s gk g f → (g.trap.uivec = 0 ∨ g.trap.uien = false ∨ g.trap.plevel ≠ 0 ∨ g.trap.uiact = true) →
    exec (.userInterruptDeliver gk f.id) s = .next s

/-- Delivery of a recorded cause and of a user interrupt, and what holds the interrupt back (R110, R115-R117). -/
def Obligations.DeliveriesAtWords : Prop := Deliveries ∧ UserInterruptHeld


/-- WAIT_TIMEOUT (R451, R115): a wait that has lasted beyond its partition's limit records TIMEOUT, at a barrier with DETAIL 3
and address 0, in WAITA with 1 and in WAITGE with 2 and the address that the first lane still waiting watches; where it is
masked, the fragment goes on waiting; where it can be delivered, the handler is entered at once with SR.EPC at the waiting
word. -/
def Sys2Proof.Claims.WaitTimeouts : Prop :=
  ∀ s gk g f a k, Waiting s gk g f → (a = 0 ∧ k = 3 ∧ (∃ b, f.wait = .barrier b)
      ∨ ∃ m pre p post, (f.wait = .waita m ∧ k = 1 ∨ f.wait = .waitge m ∧ k = 2) ∧ m.parts = pre ++ p :: post
          ∧ (∀ q ∈ pre, q.done = true) ∧ p.done = false ∧ a = p.va) → 0 < bits (s.partn g.part).cfg 127 96 →
    f.since + 1024 * bits (s.partn g.part).cfg 127 96 < s.clock →
    ∃ t h, exec (.waitTimeout gk f.id) s = .next t ∧ t.group gk = some h ∧ h.trap.cause.getLsbD 19 = true
      ∧ Tab.find h.trap.info 19 = some { eaddr := a, detail := k }
      ∧ (g.trap.tmask.getLsbD 19 = true → h.frags = g.frags ∧ h.trap.plevel = g.trap.plevel)
      ∧ (dueCauses g.trap = [] → g.trap.tmask.getLsbD 19 = false → g.trap.plevel = 0 → g.trap.hvec ≠ 0 →
          MayEnter s gk g g.trap.hvec →
          h.trap.epc = BitVec.ofNat 64 f.addr ∧ h.trap.plevel = 1 ∧ ∃ f', h.frag f.id = some f' ∧ f'.addr = g.trap.hvec.toNat)
      ∧ h.regs = g.regs ∧ OtherGroups s t gk ∧ SameBytes s t

/-- The ends of waits at barriers and sleeps, and the limit on waits (R107, R133, R451). -/
def Obligations.WaitsEndOrTimeOut : Prop := WaitsEnd ∧ WaitTimeouts


/-- REGROUP (R104, R105): a group outside a team, or with more than one fragment or a deferred entry, gets pD false at once
and goes on; any other waits. A group that has arrived alone, with no other group in its team, is released with pD false. -/
def Sys2Proof.Claims.RegroupOutcomes : Prop :=
  (∀ o s gk g f, (Instr.regroup o).wf = true → AtIssue (.regroup o) s gk g f → f.mask &&& f.members ≠ 0 →
    ((∀ tk, g.unit ≠ .team tk) ∨ g.frags.length ≠ 1 ∨ g.deferred ≠ []) →
    ∃ t h, exec (.regroup o) s = .next t ∧ t.group gk = some h ∧ h.frag f.id = some f.advance
      ∧ (o.d.toNat = 7 → h.regs.p = g.regs.p) ∧ (o.d.toNat < 7 → ∀ l ∈ laneList f.members, (h.regs.readP o.d.toNat).getLsbD l = false) ∧ h.regs.v = g.regs.v
      ∧ OtherGroups s t gk ∧ SameBytes s t)
  ∧ (∀ o s gk g f tk, AtIssue (.regroup o) s gk g f → g.unit = .team tk → g.frags = [f] → g.deferred = [] →
    ∃ t h, exec (.regroup o) s = .next t ∧ t.group gk = some h
      ∧ h.frags = [{ f with wait := .regroup o.d.toNat o.a.idx.toNat o.cv, since := s.clock }]
      ∧ h.regs = g.regs ∧ OtherGroups s t gk ∧ SameBytes s t)
  ∧ (∀ s gk g f tk d a b n, Waiting s gk g f → g.unit = .team tk → g.frags = [f] → g.arrivedAt = some n →
    f.wait = .regroup d a b → d ≤ 7 → f.mask &&& f.members ≠ 0 → (∀ x ∈ s.groups, x.2.unit = .team tk → x.1 = gk) →
    (∀ x ∈ s.swapped, x.group.unit ≠ .team tk) →
    ∃ t h, exec (.regroupLoneRelease gk) s = .next t ∧ t.group gk = some h ∧ h.frag f.id = some f.advance
      ∧ (d = 7 → h.regs.p = g.regs.p) ∧ (d < 7 → ∀ l ∈ laneList f.members, (h.regs.readP d).getLsbD l = false)
      ∧ h.arrivedAt = none ∧ SameBytes s t)

/-- REGROUP_FUSE (R104): of two groups that wait at one REGROUP and are all of their team, the earlier receives the live
lanes of the later, in order, in its lowest lanes outside its mask: vA to vB and p0 to p6 of each arrive there, pD is true in
every member lane, and its own lanes keep their registers; the later retires, and its units go to the reserve. With more than
96 live lanes in all nothing moves, and both go on with pD false. Of two that arrive in one cycle the lower SR.GROUP is the
earlier. What the later group has outstanding is finished, and the cycle of its arrival is over. A moved register with an
uncorrectable error records DATAERR (R479). -/
def Sys2Proof.Claims.RegroupFuses : Prop :=
  ∀ s gk gk' g g' f f' tk d a b d' a' b' n n' x, gk ≠ gk' → Tab.wf s.groups = true → s.group gk = some g →
    s.group gk' = some g' → (∀ y ∈ s.groups, y.2.unit = .team tk → y.1 = gk ∨ y.1 = gk') →
    (∀ y ∈ s.swapped, y.group.unit ≠ .team tk) → f.hw.isSome = true → f'.hw.isSome = true →
    s.stopped g = false → s.stopped g' = false → g.unit = .team tk → g'.unit = .team tk → g.frags = [f] → g'.frags = [f'] →
    f.wait = .regroup d a b → f'.wait = .regroup d' a' b' → f.addr = f'.addr → g.arrivedAt = some n → g'.arrivedAt = some n' →
    (n < n' ∨ n = n' ∧ g.gnum < g'.gnum) → n' < s.clock → g'.ops = [] → s.groupMxDone g'.uid = true → g'.guardRep = none →
    d ≤ 7 → f.mask ≠ 0 → f.mask &&& f.members = f.mask → s.team tk = some x →
    let src := laneList f'.mask
    let dst := (laneList (~~~ f.mask)).take src.length
    (96 < laneCount f.mask + laneCount f'.mask → f'.mask &&& f'.members ≠ 0 → d' ≤ 7 →
      ∃ t h h', exec (.regroupFuse tk) s = .next t ∧ t.group gk = some h ∧ t.group gk' = some h' ∧ t.teams = s.teams
        ∧ h.frag f.id = some f.advance ∧ h'.frag f'.id = some f'.advance ∧ h.regs.v = g.regs.v ∧ h'.regs.v = g'.regs.v
        ∧ h.arrivedAt = none ∧ h'.arrivedAt = none ∧ (d < 7 → ∀ l ∈ laneList f.members, (h.regs.readP d).getLsbD l = false)
        ∧ (d' < 7 → ∀ l ∈ laneList f'.members, (h'.regs.readP d').getLsbD l = false) ∧ SameBytes s t)
    ∧ (laneCount f.mask + laneCount f'.mask ≤ 96 → regroupBad g'.regs a b src = true →
      ∃ t h, exec (.regroupFuse tk) s = .next t ∧ t.group gk = some h ∧ t.group gk' = none ∧ h.trap.cause.getLsbD 11 = true
        ∧ ∀ r l, f.mask.getLsbD l = true → h.regs.readV r l = g.regs.readV r l)
    ∧ (laneCount f.mask + laneCount f'.mask ≤ 96 → regroupBad g'.regs a b src = false →
      ∃ t h f'', exec (.regroupFuse tk) s = .next t ∧ t.group gk = some h ∧ t.group gk' = none ∧ h.frag f.id = some f''
      ∧ (∀ k, k ≠ gk → k ≠ gk' → t.group k = s.group k)
      ∧ (∀ l, f''.mask.getLsbD l = true ↔ f.mask.getLsbD l = true ∨ l ∈ dst)
      ∧ (∀ (k l l' : Nat), src[k]? = some l → dst[k]? = some l' →
          (∀ r, a ≤ r → r ≤ b → h.regs.readV r l' = g'.regs.readV r l)
          ∧ ∀ p < 7, p ≠ d → (h.regs.readP p).getLsbD l' = (g'.regs.readP p).getLsbD l)
      ∧ (∀ r l, f.mask.getLsbD l = true → h.regs.readV r l = g.regs.readV r l)
      ∧ laneCount f''.mask = laneCount f.mask + laneCount f'.mask ∧ f.mask &&& f''.mask = f.mask
      ∧ (∀ l ∈ laneList f''.members, (h.regs.readP d).getLsbD l = true)
      ∧ (t.team tk).map (fun y => (y.live, y.reserve)) = some (x.live - 1, x.reserve + g'.budget / 8))

/-- REGROUP: its refusal, its wait, the release of a lone group, and the fusion of two (R104, R105). -/
def Obligations.RegroupReleasesOrFuses : Prop := RegroupOutcomes ∧ RegroupFuses


/-! ## Memory words (04, 05) -/

/-- A memory word that makes one access in each of its lanes (R151-R153, R175-R178): its fields, its offset field, the
check of a lane's pointer, and the access that its lanes' addresses give. -/
def Sys2Proof.Claims.memEff (i : Instr) : Option (MOp × BitVec 11 × (Nat → Group → State → W64 → State × Except AccFault Nat)
    × (Group → Frag → List (Nat × W64 × Nat) → MemOp)) :=
  match i with
  | .ldl o => some (o, o.c, locChk o coreTags, fun _ _ l => mkOp o true .load (loadParts o l))
  | .ldc o => some (o, o.c, locChk o clusterTags, fun _ _ l => mkOp o true .load (loadParts o l))
  | .stl o => some (o, o.d, locChk o coreTags, fun g f l =>
      { mkOp o true .store (storeParts g f o l) with tag := o.tag.toNat })
  | .stc o => some (o, o.d, locChk o clusterTags, fun g f l => mkOp o true .store (storeParts g f o l))
  | .atoml o => some (o, 0, locChk o coreTags, fun g f l => mkOp o true (atomKind o) (atomParts g f o l))
  | .atomc o => some (o, 0, locChk o clusterTags, fun g f l => mkOp o true (atomKind o) (atomParts g f o l))
  | .casl o => some (o, 0, locChk o bothTags, fun g f l => mkOp o true .cas (casParts g f o l))
  | .ldg o => some (o, o.c, gloChk o globTags permR, fun _ _ l => globOp o .load (loadParts o l))
  | .lds o => some (o, o.c, gloChk o storeTags permR, fun _ _ l => globOp o .load (loadParts o l))
  | .stg o => some (o, o.d, gloChk o globTags permW, fun g f l => globOp o .store (storeParts g f o l))
  | .sts o => some (o, o.d, gloChk o storeTags permW, fun g f l => globOp o .store (storeParts g f o l))
  | .atomg o => some (o, 0, gloChk o homeTags (permR + permW), fun g f l =>
      { mkOp o false (atomKind o) (atomParts g f o l) with homeServed := true, hint := 0 })
  | .redg o => some (o, 0, gloChk o homeTags (permR + permW), fun g f l =>
      { mkOp o false (.red o.tag.toNat (o.x.getLsbD 0) (o.x.getLsbD 1)) (atomParts g f o l) with
        homeServed := true, hint := 0 })
  | .casg o => some (o, 0, gloChk o homeTags (permR + permW), fun g f l =>
      { mkOp o false .cas (casParts g f o l) with homeServed := true })
  | _ => none

/-- The checks of the lanes of a memory word, at the addresses that its operands give (R101, R151, R174). -/
def Sys2Proof.Claims.laneChecks (s : State) (gk : Nat) (g : Group) (f : Frag) (o : MOp) (off : BitVec 11)
    (chk : Nat → Group → State → W64 → State × Except AccFault Nat) : Checked :=
  checkLanes s ((memLanes g f o).map fun l => (l, effAddr g f o off l)) o.size.bytes (chk (coreOf gk) g)

/-- A load, store, atomic, reduction or compare and swap (R151-R153, R174-R178): with no FENCE of the group in progress
and its flag below 63, every lane's check comes before any effect; where none faults, the access becomes outstanding on
its flag and the fragment advances; where one does, the causes are taken and nothing is outstanding. A local word's checks
change nothing; where a check must wait for a walk's read, the word does nothing yet but ask for it (log 40). -/
def Sys2Proof.Claims.MemoryWordsIssue : Prop :=
  ∀ i o off chk mk, memEff i = some (o, off, chk, mk) → ∀ s gk g f n, AtIssue i s gk g f → g.fencing = false →
    selFlag f o.fs = some n → g.flag n < 63 →
    let h := g.issuing f i
    let c := laneChecks s gk h f o off chk
    (c.s.stall = s.stall → c.faults = [] → exec i s = .next { c.s.setGroup gk ((h.startOp c.s.nextUid n f.id (.mem (mk h f c.lanes))).setFrag f.advance) with
      nextUid := c.s.nextUid + 1 })
    ∧ (c.s.stall = s.stall → c.faults ≠ [] → exec i s = .next (takeTrap c.s gk g f (laneCauses c.faults)))
    ∧ ((mk h f []).isLocal = true → c.s = s) ∧ (c.s.stall = true → s.stall = false → exec i s = .next (s.again c.s))

/-- Which lanes of a word fault, and where (R117, R151, R174): a lane's pointer that is not a multiple of the access size
raises ALIGN, and one that its own check refuses raises that check's cause, so that both may be set; SR.EADDR, of every cause,
is by the model's choice the address of the first lane in order that raised one (log 33). -/
def Sys2Proof.Claims.LaneFaults : Prop :=
  ∀ (s : State) (lanes : List (Nat × W64)) n (chk : State → W64 → State × Except AccFault Nat), (∀ p, (chk s p).1 = s) →
    let c := checkLanes s lanes n chk
    (c.faults = [] ↔ ∀ l ∈ lanes, l.2.toNat % n = 0 ∧ ∃ a, (chk s l.2).2 = .ok a)
    ∧ (∀ l ∈ lanes, l.2.toNat % n ≠ 0 → ∃ r, (3, r) ∈ laneCauses c.faults)
    ∧ (∀ l ∈ lanes, ∀ e, (chk s l.2).2 = .error e → ∃ r, (e.cause, r) ∈ laneCauses c.faults)
    ∧ (∀ pre l0 post, lanes = pre ++ l0 :: post → (∀ l ∈ pre, l.2.toNat % n = 0 ∧ ∃ a, (chk s l.2).2 = .ok a) →
        (l0.2.toNat % n ≠ 0 ∨ ∃ e, (chk s l0.2).2 = .error e) → ∀ x ∈ laneCauses c.faults, x.2.eaddr = l0.2)

/-- The issue of the memory words, and which of their lanes fault (R117, R151-R153, R174-R178). -/
def Obligations.MemoryWordsStart : Prop := MemoryWordsIssue ∧ LaneFaults


/-- The parts of a word, none of them written back nor in error: where the word returns values, each lane of the fragment, or the
one scalar (lane 96), has destinations of its own. -/
structure Sys2Proof.Claims.WholeParts (m : MemOp) : Prop where
  fresh : ∀ p ∈ m.parts, p.written = false ∧ p.err = false ∧ (p.lane < 96 ∨ p.lane = 96 ∧ p.reg + 2 ≤ 125)
  apart : m.returns = true → m.parts.Pairwise fun p q => p.lane ≠ q.lane ∨ p.reg + 2 ≤ q.reg ∨ q.reg + 2 ≤ p.reg
  sound : m.spoil = false

/-- Every destination of the parts of a word holds its value, and the word has left its group with its count. -/
def Sys2Proof.Claims.WordDone (g h : Group) (o : Op) (m : MemOp) (value : Part → Nat) : Prop :=
  (∀ y ∈ h.ops, y.id ≠ o.id) ∧ h.flag o.flag = g.flag o.flag - 1
  ∧ (m.returns = true → ∀ p ∈ m.parts, ∀ w ∈ wordsOf p.reg (extendTo p.n m.signExt (value p)) (if p.n = 8 then 2 else 1),
      if p.lane = 96 then h.regs.readS w.1 = w.2 else h.regs.readV w.1 p.lane = w.2)
  ∧ (m.returns = false → h.regs = g.regs)

/-- LOCAL_ACCESS_COMPLETE (R145, R151-R153) on a load or a store of any lanes, the group's oldest, with nothing to release, off
guard granules: a load writes every lane's word to its destinations, and a store, whose lanes write apart, every lane's bytes
and no others. -/
def Sys2Proof.Claims.LocalWordsComplete : Prop :=
  ∀ s gk id g o m, s.group gk = some g → g.op id = some o → o.kind = .mem m → m.isLocal = true → WholeParts m →
    g.opsBefore id = [] → (ordRel m.ord && scopeWide m.scope) = false → o.flag < 12 → Tab.wf g.flags = true → s.plat.bad = [] →
    s.sendRings = [] → Memory.wf s.scratch = true →
    (∀ p ∈ m.parts, p.done = false ∧ 0 < p.n ∧ p.n ≤ 8 ∧ ∀ k < p.n, s.guarded (p.addr + k) = false ∧ s.ringWord (p.addr + k) = false) →
    (m.kind = .load →
      ∃ t h, exec (.localAccessComplete gk id (List.range m.parts.length) allLanes) s = .next t ∧ t.group gk = some h
        ∧ WordDone g h o m (fun p => leNat (s.bankRead p.addr p.n)) ∧ OtherGroups s t gk ∧ SameBytes s t)
    ∧ (m.kind = .store → m.returns = false → (m.parts.Pairwise fun p q => p.addr + p.n ≤ q.addr ∨ q.addr + q.n ≤ p.addr) →
      ∃ t h, exec (.localAccessComplete gk id (List.range m.parts.length) allLanes) s = .next t ∧ t.group gk = some h
        ∧ WordDone g h o m (fun _ => 0) ∧ OtherGroups s t gk
        ∧ ∀ a, Memory.read t.mem a = Memory.read s.mem a ∧ Memory.read t.storeMem a = Memory.read s.storeMem a
          ∧ (∀ p ∈ m.parts, p.addr ≤ a → a < p.addr + p.n →
              Memory.read t.scratch a = BitVec.ofNat 8 (p.data.toNat / 256 ^ (a - p.addr)))
          ∧ ((∀ p ∈ m.parts, ¬ (p.addr ≤ a ∧ a < p.addr + p.n)) → Memory.read t.scratch a = Memory.read s.scratch a))

/-- LOCAL_ACCESS_COMPLETE on an access of one lane's word, the group's oldest, with nothing to release (R145, R151-R153):
the destination takes the old value, the bytes take the new one, the operation completes, and every other byte keeps its
value. In a guard granule the read is 0, nothing is written, and a guard report stands (R144). Whatever the access, only
bytes of the parts named are written, but for a SEND ring's TAIL that one of them overlaps (log 45). -/
def Sys2Proof.Claims.LocalWordPerforms : Prop :=
  (∀ s gk id g o m p, s.group gk = some g → g.op id = some o → o.kind = .mem m → m.isLocal = true → m.parts = [p] →
    p.done = false → p.written = false → p.err = false → p.lane < 96 → g.opsBefore id = [] → ordRel m.ord = false →
    o.flag < 12 → Tab.wf g.flags = true → s.plat.bad = [] → s.sendRings = [] → m.spoil = false → Memory.wf s.scratch = true →
    let old := leNat (s.bankRead p.addr p.n)
    ((∀ k < p.n, s.guarded (p.addr + k) = false ∧ s.ringWord (p.addr + k) = false) → 0 < p.n →
      ∃ t h, exec (.localAccessComplete gk id [0] allLanes) s = .next t ∧ t.group gk = some h
        ∧ (∀ y ∈ h.ops, y.id ≠ id) ∧ h.flag o.flag = g.flag o.flag - 1
        ∧ (m.returns = true → ∀ w ∈ wordsOf p.reg (extendTo p.n m.signExt (BitVec.ofNat 64 old).toNat) (if p.n = 8 then 2 else 1),
            h.regs.readV w.1 p.lane = w.2)
        ∧ (m.returns = false → h.regs = g.regs) ∧ OtherGroups s t gk
        ∧ ∀ a, Memory.read t.mem a = Memory.read s.mem a ∧ Memory.read t.storeMem a = Memory.read s.storeMem a
          ∧ Memory.read t.scratch a = (match m.kind.apply p.n old p.data.toNat p.swap.toNat with
              | some x => if p.addr ≤ a ∧ a < p.addr + p.n then BitVec.ofNat 8 (x / 256 ^ (a - p.addr)) else Memory.read s.scratch a
              | none => Memory.read s.scratch a))
    ∧ (s.guarded p.addr = true →
      ∃ t h, exec (.localAccessComplete gk id [0] allLanes) s = .next t ∧ t.group gk = some h ∧ SameBytes s t
        ∧ (∀ y ∈ h.ops, y.id ≠ id) ∧ h.guardRep.isSome = true ∧ (g.guardRep.isSome = true → h.guardRep = g.guardRep)
        ∧ (m.returns = true → h.regs.readV p.reg p.lane = 0)))
  ∧ (∀ s t gk id parts lanes, exec (.localAccessComplete gk id parts lanes) s = .next t →
    (∀ g o m, s.memOp gk id = some (g, o, m) → (ordRel m.ord && scopeWide m.scope) = false) →
    ∀ a, (∀ r ∈ s.sendRings, ¬ (r.1 ≤ a ∧ a < r.1 + 4)) → Memory.read t.mem a = Memory.read s.mem a ∧ Memory.read t.storeMem a = Memory.read s.storeMem a
      ∧ ((∀ g o m j p, s.memOp gk id = some (g, o, m) → j ∈ parts → m.parts[j]? = some p → ¬ (p.addr ≤ a ∧ a < p.addr + p.n)) →
          Memory.read t.scratch a = Memory.read s.scratch a))

/-- Scratchpad accesses: words of any lanes that load or store, and one lane's word of every kind (R144, R145, R151-R153). -/
def Obligations.LocalAccessPerforms : Prop := LocalWordsComplete ∧ LocalWordPerforms

/-- WAITA (R154, R155): issued with nothing outstanding in its group, it reads each lane's word; where every lane's
condition holds it writes D and goes on; otherwise the fragment waits, and no register changes. A waiting lane whose page no
longer permits the access, or did not as it changed owner while the fragment was held, ends the wait with SPACE; a later look
at which every lane's condition holds ends it. -/
def Sys2Proof.Claims.WaitOnScratchpad : Prop :=
  (∀ o s gk g f, (Instr.waita o).wf = true → AtIssue (.waita o) s gk g f → g.fencing = false → g.ops = [] → s.plat.bad = [] →
    (o.uni = true → o.d.toNat + o.size.regs ≤ 125) →
    let h0 := g.issuing f (.waita o)
    let c := laneChecks s gk h0 f o 0 (locChk o bothTags)
    c.faults = [] → (∀ x ∈ c.lanes, s.guarded x.2.2 = false) →
    let val (a : Nat) : Nat := leNat (s.bankRead a o.size.bytes)
    let holds (x : Nat × W64 × Nat) : Bool := waitCond o.tag.toNat (8 * o.size.bytes) (val x.2.2)
      (opData h0 f o o.size.regs (x.1 % 96) % 2 ^ (8 * o.size.bytes))
    ∃ t h, exec (.waita o) s = .next t ∧ t.group gk = some h ∧ OtherGroups s t gk ∧ SameBytes s t
      ∧ ((∀ x ∈ c.lanes, holds x = true) → h.frag f.id = some { f with since := s.clock }.advance
          ∧ (o.uni = false → ∀ x ∈ c.lanes, ∀ w ∈ wordsOf o.d.toNat (val x.2.2) o.size.regs, h.regs.readV w.1 x.1 = w.2))
      ∧ (¬ (∀ x ∈ c.lanes, holds x = true) → h.regs = g.regs
          ∧ ∃ m, h.frag f.id = some { f with wait := .waita m, since := s.clock }))
  ∧ (∀ i s gk g f m, (i = .waitaSatisfied gk f.id ∨ i = .waitaRepoll gk f.id) → Waiting s gk g f → f.wait = .waita m →
    g.ops = [] → s.plat.bad = [] → (∀ p ∈ m.parts, p.lane ≠ 96 ∨ p.reg + 2 ≤ 125) →
    (∀ x, m.denied = some x → exec i s = .next (takeTrap s gk g f [(4, { eaddr := x.1, detail := x.2 })]))
    ∧ (∀ p, m.denied = none → (m.parts.find? fun p => !p.done && !s.mayReach g.tenant g.unit p.addr) = some p →
      exec i s = .next (takeTrap s gk g f [(4, { eaddr := p.va, detail := laneNo p.lane })]))
    ∧ (m.denied = none → (∀ p ∈ m.parts, s.mayReach g.tenant g.unit p.addr = true ∧ s.guarded p.addr = false) →
      ∃ t h, exec i s = .next t ∧ t.group gk = some h ∧ SameBytes s t ∧ OtherGroups s t gk
        ∧ ((∀ p ∈ m.parts, p.done = true ∨ waitCond m.cond (8 * p.n) (leNat (s.bankRead p.addr p.n))
              (p.data.toNat % 2 ^ (8 * p.n)) = true) → h.frag f.id = some f.advance)
        ∧ (¬ (∀ p ∈ m.parts, p.done = true ∨ waitCond m.cond (8 * p.n) (leNat (s.bankRead p.addr p.n))
              (p.data.toNat % 2 ^ (8 * p.n)) = true) →
            h.regs = g.regs ∧ ∃ m', h.frag f.id = some { f with wait := .waita m' })))

/-- Part `j` of a global or store-space word stands ready to be performed: the group's earlier accesses allow it, no
release action and no bias change holds it, and no layer that it needs sleeps (R169, R186, R337, R467). -/
structure Sys2Proof.Claims.ReadyPart (s : State) (gk id j : Nat) (g : Group) (o : Op) (m : MemOp) (p : Part) : Prop where
  group : s.group gk = some g
  op : g.op id = some o
  kind : o.kind = .mem m
  part : m.parts[j]? = some p
  isGlobal : m.isLocal = false
  may : g.mayPerform id m j = true
  plainRel : (ordRel m.ord && scopeWide m.scope) = false
  noFlip : s.flipping p.addr = false
  awake : s.wakeFor g.tenant p.addr = none
  flag : o.flag < 12

/-- HOME_ACCESS (R163, R164, R177, R178, R326): a store-space part acts on its bytes at their home at once: what was there
goes to the word, the new value is written, and every other byte of the store keeps its value. An L1-served part that hits
reads the L1, and one that stores marks its bytes VALID and DIRTY there and leaves the home unchanged. A part whose line is
not in its slice's store cache takes an entry of the slice's miss table, and is not performed yet (R329). -/
def Obligations.HomeAccessPerforms : Prop :=
  (∀ s gk id j g o m p, ReadyPart s gk id j g o m p → isStore p.addr = true → s.plat.bad = [] →
    s.plat.soft = [] → (∀ line, s.l1Line (coreOf gk) g.asid line = none) → (∀ iv, m.kind ≠ .wb iv) →
    (∀ x ∈ s.grids, (x.2.slalom.bind fun y => y.spill) = none) → Memory.wf s.storeMem = true →
    let old := s.readHomeNat p.addr p.n
    ∃ t h m' p', exec (.homeAccess gk id j) s = .next t ∧ t.group gk = some h ∧ t.memOp gk id = some (h, { o with kind := .mem m' }, m')
      ∧ m'.parts[j]? = some p' ∧ p'.done = true ∧ (m.kind.reads = true → p'.got = BitVec.ofNat 64 old) ∧ h.regs = g.regs
      ∧ h.flags = g.flags ∧ OtherGroups s t gk
      ∧ ∀ a, Memory.read t.mem a = Memory.read s.mem a ∧ Memory.read t.scratch a = Memory.read s.scratch a
        ∧ Memory.read t.storeMem a = (match m.kind.apply p.n old p.data.toNat p.swap.toNat with
            | some x => if p.addr ≤ storeBase + a ∧ storeBase + a < p.addr + p.n then BitVec.ofNat 8 (x / 256 ^ (storeBase + a - p.addr))
                else Memory.read s.storeMem a
            | none => Memory.read s.storeMem a))
  ∧ (∀ s gk id j g o m p l, ReadyPart s gk id j g o m p → m.l1Served p = true → s.plat.bad = [] → s.plat.soft = [] →
    s.l1Line (coreOf gk) g.asid (p.addr / 128) = some l → p.addr % 128 + p.n ≤ 128 → l.err = 0 →
    (m.kind = .load → l.has (p.addr % 128) p.n = true →
      ∃ t h m' p', exec (.homeAccess gk id j) s = .next t ∧ t.group gk = some h ∧ t.memOp gk id = some (h, { o with kind := .mem m' }, m')
        ∧ m'.parts[j]? = some p' ∧ p'.done = true ∧ p'.got = BitVec.ofNat 64 (leNat (Memory.readN l.data (p.addr % 128) p.n))
        ∧ h.regs = g.regs ∧ OtherGroups s t gk ∧ SameBytes s t)
    ∧ (m.kind = .store → Tab.wf l.data = true →
      ∃ t h l', exec (.homeAccess gk id j) s = .next t ∧ t.group gk = some h ∧ t.l1Line (coreOf gk) g.asid (p.addr / 128) = some l'
        ∧ (∀ k < p.n, Memory.read l'.data (p.addr % 128 + k) = BitVec.ofNat 8 (p.data.toNat / 256 ^ k)
            ∧ l'.dirty.getLsbD (p.addr % 128 + k) = true ∧ l'.valid.getLsbD (p.addr % 128 + k) = true)
        ∧ (∀ k, ¬ (p.addr % 128 ≤ k ∧ k < p.addr % 128 + p.n) →
            Memory.read l'.data k = Memory.read l.data k ∧ l'.dirty.getLsbD k = l.dirty.getLsbD k)
        ∧ h.regs = g.regs ∧ OtherGroups s t gk ∧ SameBytes s t))
  ∧ (∀ s gk id j g o m p n, ReadyPart s gk id j g o m p → m.kind = .load → isStore p.addr = false → tierOf p.addr ≠ 2 →
    s.homeSlice p.addr = some n → s.storeLine n (p.addr / 128) = none → (s.slice n).misses = [] →
    s.l1Line (coreOf gk) g.asid (p.addr / 128) = none →
    ∃ t x, exec (.homeAccess gk id j) s = .next t ∧ (t.slice n).misses = [x] ∧ x.line = p.addr / 128
      ∧ x.waiters = [{ gk := gk, op := id, part := j }] ∧ (t.memOp gk id).map (fun y => y.2.2.parts) = some m.parts
      ∧ SameBytes s t)

/-- A request that waits for a line: part `w.part` of a load, not performed yet, that no line of the group's L1 holds. -/
structure Sys2Proof.Claims.WaitingLoad (s : State) (line : Nat) (w : Waiter) (g : Group) (o : Op) (m : MemOp) (p : Part) :
    Prop where
  group : s.group w.gk = some g
  op : g.op w.op = some o
  kind : o.kind = .mem m
  load : m.kind = .load
  home : m.homeServed = true
  part : m.parts[w.part]? = some p
  waits : p.done = false
  at_ : p.addr / 128 = line
  flag : o.flag < 12
  noL1 : s.l1Line (coreOf w.gk) g.asid line = none

/-- MISS_FILL (R329): with an entry for a line of HBM or of host memory that holds no error, the line becomes valid in the
store cache where the tenant holds units there and a line of it, the entry is gone, and every request that waited for the
line is served: each load is performed with its home value, and the line is given to each engine (log 40). Bytes of memory
keep their values. -/
def Sys2Proof.Claims.MissFillServesWaiters : Prop :=
  ∀ s n line x l, (s.slice n).misses = [x] → x.line = line → x.waiters.Nodup →
    s.fillAllowed n line true = true → s.storeLine n line = some l → tierOf (128 * line) ≠ 2 → s.plat.bad = [] → s.plat.soft = [] →
    (∀ w ∈ x.waiters, w.eng = none → ∃ g o m p, WaitingLoad s line w g o m p) →
    ∃ t, exec (.missFill n line) s = .next t ∧ (t.slice n).misses = [] ∧ t.resident n line = true ∧ SameBytes s t
      ∧ (∀ w ∈ x.waiters, w.eng ≠ none → (w, line) ∈ t.granted)
      ∧ (∀ w ∈ x.waiters, w.eng = none → ∀ g o m p, WaitingLoad s line w g o m p →
          ∃ h m' p', t.group w.gk = some h ∧ t.memOp w.gk w.op = some (h, { o with kind := .mem m' }, m')
            ∧ m'.parts[w.part]? = some p' ∧ p'.done = true ∧ p'.got = BitVec.ofNat 64 (s.readHomeNat p.addr p.n))
      ∧ ∀ k, (∀ w ∈ x.waiters, w.eng = none → w.gk ≠ k) → t.group k = s.group k

/-- GLOBAL_ACCESS_COMPLETE (R175-R178, R182): a word of any lanes whose every part is performed without an error writes its
destinations, and its operation and its count on its flag are gone; one that returns nothing writes no register; a REDG whose
reductions are accepted and not all applied gives up its count and, by the model's choice, stays outstanding (log 33); a WBL1 or INVL1 completes once its
write-backs are applied. -/
def Obligations.GlobalAccessCompletes : Prop :=
  (∀ s gk id g o m, s.group gk = some g → g.op id = some o → o.kind = .mem m → m.isLocal = false → WholeParts m →
    (∀ p ∈ m.parts, p.done = true) → o.flag < 12 → Tab.wf g.flags = true →
    (m.kind = .load ∨ m.kind = .cas ∨ m.kind = .store ∨ ∃ a sg r, m.kind = .atom a sg r) →
    ∃ t h, exec (.globalAccessComplete gk id allLanes) s = .next t ∧ t.group gk = some h
      ∧ WordDone g h o m (fun p => p.got.toNat) ∧ OtherGroups s t gk ∧ SameBytes s t)
  ∧ (∀ s gk id g o m a sg fl, s.group gk = some g → g.op id = some o → o.kind = .mem m → m.isLocal = false →
    m.kind = .red a sg fl → m.performed = false → o.flag < 12 → Tab.wf g.flags = true →
    ∃ t h, exec (.globalAccessComplete gk id allLanes) s = .next t ∧ t.group gk = some h ∧ h.flag o.flag = g.flag o.flag - 1
      ∧ h.op id = some { o with flag := 12 } ∧ h.regs = g.regs ∧ OtherGroups s t gk ∧ SameBytes s t)
  ∧ (∀ s gk id g o m iv, s.group gk = some g → g.op id = some o → o.kind = .mem m → m.isLocal = false → m.kind = .wb iv →
    m.parts = [] → o.flag < 12 → Tab.wf g.flags = true →
    (s.wbDone (coreOf gk) (m.release.getD []) = true →
      ∃ t h, exec (.globalAccessComplete gk id allLanes) s = .next t ∧ t.group gk = some h ∧ (∀ y ∈ h.ops, y.id ≠ id)
        ∧ h.flag o.flag = g.flag o.flag - 1 ∧ h.regs = g.regs ∧ SameBytes s t)
    ∧ (s.wbDone (coreOf gk) (m.release.getD []) = false → exec (.globalAccessComplete gk id allLanes) s = .next s))

/-- WRITE_BACK_ARRIVE (R166, R330): the DIRTY bytes of the line reach its home as one application, and are no longer DIRTY;
they stay VALID, or the line goes, as the write-back says. The line is of HBM or host memory, without errors, its slice's
store cache holds it, no layer that the write needs sleeps, and no bias change holds its page. -/
def Sys2Proof.Claims.WriteBackArrives : Prop :=
  ∀ s core k w l n t0, (s.core core).wbq[k]? = some w → s.l1Line core w.asid w.line = some l → l.err = 0 → s.plat.bad = [] →
    tierOf (128 * w.line) ≠ 2 → s.homeSlice (128 * w.line) = some n → (s.storeLine n w.line).isSome = true →
    s.tenantOfAsid w.asid = some t0 → s.wakeFor t0 (128 * w.line) = none → s.flipping (128 * w.line) = false → isStore (128 * w.line + 127) = false →
    Memory.wf s.mem = true →
    ∃ t, exec (.writeBackArrive core k) s = .next t ∧ (t.core core).wbq = (s.core core).wbq.eraseIdx k
      ∧ (∀ a, Memory.read t.mem a = if a / 128 = w.line ∧ l.dirty.getLsbD (a % 128) = true then Memory.read l.data (a % 128)
          else Memory.read s.mem a)
      ∧ (w.inval = true → t.l1Line core w.asid w.line = none)
      ∧ (w.inval = false → (t.l1Line core w.asid w.line).map (fun x => (x.dirty, x.valid, x.data)) = some (0, l.valid, l.data))
      ∧ t.groups = s.groups

/-- MISS_FILL and WRITE_BACK_ARRIVE (R329, R330). -/
def Obligations.FillsAndWriteBacksArrive : Prop := MissFillServesWaiters ∧ WriteBackArrives


/-- FENCE (R179) holds its fragment while an earlier access that its order waits for is outstanding; with nothing
outstanding and no DIRTY line, in a store cache either at SYSTEM scope, it goes on at once, and with acquire order at a wide scope leaves no VALID byte in the group's L1
lines that is not DIRTY (R165); with no lane Enabled it does nothing. WBL1.all and INVL1.all send a write-back for every
line of the group's ASID, and name none where no lane is Enabled (R182). -/
def Obligations.FenceAndLineWords : Prop :=
  (∀ o s gk g f, AtIssue (.fence o) s gk g f → g.fencing = false →
    (enabled g f o.guard = 0 → exec (.fence o) s = .next (s.setGroup gk (g.setFrag f.advance)))
    ∧ (enabled g f o.guard ≠ 0 → g.ops = [] → f.wait = .none → s.dirtyLines (coreOf gk) g.asid = [] →
        (o.scope = .system → ∀ x ∈ s.slices, ∀ l ∈ x.2.lines, l.dirty = 0) →
        ∃ t, exec (.fence o) s = .next t ∧ t.group gk = some (g.setFrag f.advance) ∧ OtherGroups s t gk ∧ SameBytes s t
          ∧ (ordAcq o.ord = true → scopeWide o.scope = true →
              ∀ l ∈ (t.core (coreOf gk)).l1, l.asid = g.asid → l.valid = l.dirty))
    ∧ (enabled g f o.guard ≠ 0 → f.wait = .none →
        (ordAcq o.ord = true ∧ g.allReturned = false ∨ ordRel o.ord = true ∧ (g.ops.all fun x => x.kind.performed) = false) →
        exec (.fence o) s = .next (s.setGroup gk (g.setFrag { f with wait := .fence none, since := s.clock }))))
  ∧ (∀ i o iv, (i = .wbl1All o ∧ iv = false ∨ i = .invl1All o ∧ iv = true) → ∀ s gk g f n, AtIssue i s gk g f →
    g.fencing = false → selFlag f o.fs = some n → g.flag n < 63 →
    ∃ t h m, exec i s = .next t ∧ t.group gk = some h ∧ h.frag f.id = some f.advance
      ∧ h.ops.map (fun y => y.kind) = g.ops.map (fun y => y.kind) ++ [.mem m]
      ∧ m.kind = .wb iv ∧ m.parts = [] ∧ SameBytes s t ∧ OtherGroups s t gk
      ∧ (t.core (coreOf gk)).wbq.map (fun w => (w.line, w.asid, w.inval)) = (s.core (coreOf gk)).wbq.map (fun w => (w.line, w.asid, w.inval))
          ++ (if enabled g f o.guard = 0 then [] else
              ((s.core (coreOf gk)).l1.filter fun l => l.asid == g.asid).map fun l => (l.line, l.asid, iv)))
  ∧ (∀ i o iv, (i = .wbl1 o ∧ iv = false ∨ i = .invl1 o ∧ iv = true) → ∀ s gk g f n, AtIssue i s gk g f →
    g.fencing = false → selFlag f o.fs = some n → g.flag n < 63 →
    let c := laneChecks s gk (g.issuing f i) f o o.c (gloChk o globTags permR)
    c.faults = [] → c.s.stall = s.stall →
    ∃ t h m, exec i s = .next t ∧ t.group gk = some h ∧ h.frag f.id = some f.advance
      ∧ h.ops.map (fun y => y.kind) = g.ops.map (fun y => y.kind) ++ [.mem m] ∧ m.kind = .wb iv ∧ m.parts = []
      ∧ (t.core (coreOf gk)).wbq.map (fun w => (w.line, w.asid, w.inval))
        = (c.s.core (coreOf gk)).wbq.map (fun w => (w.line, w.asid, w.inval))
          ++ (((c.lanes.map fun x => x.2.2 / 128).eraseDups).filter fun l => (c.s.l1Line (coreOf gk) g.asid l).isSome).map
            fun l => (l, g.asid, iv))

/-- PREF and WAITGE (R180, R181): a PREF goes on at once, whatever its lanes' pointers, and writes no register; a WAITGE
whose lanes' pointers are good either has every lane's value at least C and goes on, or waits, and a later look at it does the
same; on store-space words, where nothing is outstanding, it goes on exactly where every word's value is at least C. -/
def Sys2Proof.Claims.PrefetchAndWaitge : Prop :=
  (∀ o s gk g f, AtIssue (.pref o) s gk g f → g.fencing = false →
    ∃ t h, exec (.pref o) s = .next t ∧ t.group gk = some h ∧ h.frag f.id = some f.advance ∧ h.regs = g.regs ∧ h.ops = g.ops
      ∧ h.flags = g.flags ∧ h.trap.cause = g.trap.cause ∧ OtherGroups s t gk)
  ∧ (∀ o s gk g f, AtIssue (.waitge o) s gk g f → g.fencing = false → (o.uni = true → o.d.toNat + o.size.regs ≤ 125) →
    (s.fe.flip = none ∨ s.plat.bad = [] ∧ ∀ l ∈ (s.core (coreOf gk)).l1, l.err = 0) →
    let h0 := g.issuing f (.waitge o)
    let c := laneChecks s gk h0 f o 0 (gloChk o homeTags permR)
    c.faults = [] → c.s.stall = s.stall →
    ∃ t h, exec (.waitge o) s = .next t ∧ t.group gk = some h ∧ OtherGroups s t gk
      ∧ (h.frag f.id = some { f with since := s.clock }.advance
          ∨ ∃ m, h.frag f.id = some { f with wait := .waitge m, since := s.clock } ∧ h.regs = g.regs)
      ∧ ((Instr.waitge o).wf = true → g.ops = [] → s.plat.bad = [] → s.plat.soft = [] → (s.core (coreOf gk)).l1 = [] →
          (∀ x ∈ c.lanes, isStore x.2.2 = true ∧ s.wakeFor g.tenant x.2.2 = none) → c.s = s →
          ((∀ x ∈ c.lanes, opData h0 f o o.size.regs (x.1 % 96) ≤ s.readHomeNat x.2.2 o.size.bytes) →
            h.frag f.id = some { f with since := s.clock }.advance)
          ∧ (¬ (∀ x ∈ c.lanes, opData h0 f o o.size.regs (x.1 % 96) ≤ s.readHomeNat x.2.2 o.size.bytes) →
            ∃ m, h.frag f.id = some { f with wait := .waitge m, since := s.clock })))
  ∧ (∀ i s gk g f m, (i = .waitgeSatisfied gk f.id ∨ i = .waitgeRepoll gk f.id) → Waiting s gk g f → f.wait = .waitge m →
    (∀ p ∈ m.parts, p.lane ≠ 96 ∨ p.reg + 2 ≤ 125) → (s.fe.flip = none ∨ s.plat.bad = [] ∧ ∀ l ∈ (s.core (coreOf gk)).l1, l.err = 0) →
    ∃ t h, exec i s = .next t ∧ t.group gk = some h ∧ OtherGroups s t gk
      ∧ (h.frag f.id = some f.advance ∨ ∃ m', h.frag f.id = some { f with wait := .waitge m' } ∧ h.regs = g.regs)
      ∧ (m.performed = true → h.frag f.id = some f.advance))

/-- PREF and the memory waits WAITA and WAITGE (R154, R155, R180, R181). -/
def Obligations.PrefetchAndMemoryWaits : Prop := PrefetchAndWaitge ∧ WaitOnScratchpad

/-! ## The matrix engine (08) -/

/-- A matrix request word (R278-R280): its fields, whether it takes an operand in vector registers that FENCED protects, the
descriptors that it checks, and the request that it sends from a core. -/
def Sys2Proof.Claims.mxEff (i : Instr) : Option (FOp × Bool × List DescUse × (Nat → Group → Frag → MxSpec)) :=
  let mma (opc : Nat) (o : FOp) : Option (FOp × Bool × List DescUse × (Nat → Group → Frag → MxSpec)) :=
    some (o, !o.a.isS || !o.b.isS,
      (if o.a.isS then [({ n := o.a.idx.toNat, bytes := 32, second := false, strict := false } : DescUse)] else [])
        ++ (if o.b.isS then [({ n := bIdx o, bytes := 32, second := o.c.toNat.testBit 3, strict := false } : DescUse)] else []),
      fun _ g f => { kind := .mma opc o.c.toNat, idx := o.d.toNat % 16, wide := o.c.toNat.testBit 3
                     a := mxArg g f o.a.isS o.a.idx.toNat, b := mxArg g f o.b.isS (bIdx o) })
  match i with
  | .mmah o => mma 0xA0 o
  | .mmaq8 o => mma 0xA1 o
  | .mmaq6 o => mma 0xA2 o
  | .mmaq4 o => mma 0xA3 o
  | .mmai8 o => mma 0xA4 o
  | .mmabfp o => mma 0xA5 o
  | .msca o => some (o, true, [], fun _ _ _ =>
      { kind := .msca o.c.toNat (o.x.getLsbD 0) (bIdx o % 16), idx := o.d.toNat % 16, wide := o.c.toNat.testBit 3
        a := .regs o.a.idx.toNat, b := .none })
  | .maccld o => some (o, true, [], fun _ _ _ =>
      { kind := .maccld (o.c.toNat % 8) (o.c.toNat.testBit 3), idx := o.d.toNat % 16, wide := o.c.toNat.testBit 3
        a := .regs o.a.idx.toNat, b := .none })
  | .maccldScratch o => some (o, false, [{ n := o.a.idx.toNat, bytes := 256, second := false, strict := true }], fun _ g f =>
      { kind := .maccld 0 (o.c.toNat.testBit 3), idx := o.d.toNat % 16, wide := o.c.toNat.testBit 3
        a := (descOf g f o.a.idx.toNat).src, b := .none })
  | .maccst o => some (o, false, [], fun _ _ _ =>
      { kind := .maccst (o.c.toNat % 8) (o.c.toNat.testBit 3) (.regs o.d.toNat), idx := o.a.idx.toNat % 16
        wide := o.c.toNat.testBit 3, a := .none, b := .none })
  | .maccstScratch o => some (o, false, [{ n := o.d.toNat, bytes := 256, second := false, strict := true }], fun _ g f =>
      { kind := .maccst 0 (o.c.toNat.testBit 3) (descOf g f o.d.toNat).src, idx := o.a.idx.toNat % 16
        wide := o.c.toNat.testBit 3, a := .none, b := .none })
  | .maccz o => some (o, false, [], fun core g f =>
      { kind := .maccz (mxMask o g f % 2 ^ 16) ((mxMask o g f).testBit 16), idx := 0
        wide := (mxMask o g f).testBit 16 && core % 2 == 0, a := .none, b := .none })
  | _ => none

/-- A matrix request word (R262, R268, R269, R276): with a lane Enabled, FENCED set where an operand is in registers, sound
descriptors, FN[3] on a lead core only, and its flag below 63, it sends its request, makes its flag pending, and its
fragment waits for acceptance; with no lane Enabled it goes on and sends nothing; a register operand while FENCED is 0, or a
descriptor with a bad ROT or reserved bits, raises ILLEGAL whether or not a lane is Enabled. -/
def Obligations.MatrixWordsIssue : Prop :=
  ∀ i o regOp us spec, mxEff i = some (o, regOp, us, spec) → ∀ s gk g f n, AtIssue i s gk g f → selFlag f o.fs = some n →
    g.flag n < 63 →
    let wideCore : Prop := (∃ o', i = .maccz o') ∨ o.c.toNat.testBit 3 = false ∨ coreOf gk % 2 = 0
    let cl := clusterOf (coreOf gk)
    let h0 := g.issuing f i
    ((regOp = true → g.fenced = true) → (∀ u ∈ us, u.bad h0 f = false) → wideCore →
      (enabled g f o.guard = 0 → exec i s = .next (s.setGroup gk (h0.setFrag f.advance)))
      ∧ (enabled g f o.guard ≠ 0 → (∀ u ∈ us, u.align h0 f = none) → spaceOf us h0 f = none →
        ∃ t x, exec i s = .next t
          ∧ t.group gk = some ((h0.startOp s.nextUid n f.id (.request s.nextUid)).setFrag
              { f with wait := .accept s.nextUid, since := s.clock })
          ∧ Tab.find (t.cluster cl).mx s.nextUid = some x ∧ (∀ k, k ≠ s.nextUid → Tab.find (t.cluster cl).mx k = Tab.find (s.cluster cl).mx k)
          ∧ x.kind = (spec (coreOf gk) h0 f).kind ∧ x.idx = (spec (coreOf gk) h0 f).idx ∧ x.wide = (spec (coreOf gk) h0 f).wide
          ∧ x.a = (spec (coreOf gk) h0 f).a ∧ x.b = (spec (coreOf gk) h0 f).b ∧ x.uid = g.uid ∧ x.core = coreOf gk
          ∧ x.stage = .sent ∧ x.issued = s.clock ∧ OtherGroups s t gk ∧ SameBytes s t))
    ∧ ((regOp = true ∧ g.fenced = false ∨ ∃ u ∈ us, u.bad g f = true) → exec i s = .next (takeTrap s gk g f [plainCause 0]))

/-- MATRIX_REQUEST_ACCEPT (R260, R262, R265): four cycles after issue, with an entry and the arrays free for the unit, the
request is accepted, the unit owns the arrays, the fragment goes on, and the word's flag falls but for MACCST. -/
def Sys2Proof.Claims.RequestAccepted : Prop :=
  ∀ s cl rq r gk g f o, Tab.find (s.cluster cl).mx rq = some r → r.stage = .sent → r.issued + 4 ≤ s.clock →
    (s.cluster cl).hasEntry cl r.core = true → (s.core r.core).array.admits r.unit = true →
    (r.wide = true → (s.core (r.core + 1)).array.admitsWide r.unit = true) → s.group gk = some g → g.uid = r.uid →
    g.frag f.id = some f → f.wait = .accept rq → (g.ops.find? fun x => x.kind == .request rq) = some o → Tab.wf g.flags = true →
    ∃ t h r', exec (.matrixRequestAccept cl rq) s = .next t ∧ Tab.find (t.cluster cl).mx rq = some r' ∧ (∃ k, r'.stage = .accepted k)
      ∧ r'.kind = r.kind ∧ r'.a = r.a ∧ r'.b = r.b
      ∧ (∀ c ∈ r.arrays, ((t.core c).array.owner.map fun w => w.unit) = some r.unit)
      ∧ t.group gk = some h ∧ h.frag f.id = some f.advance ∧ h.regs = g.regs
      ∧ (r.kind.isStore = false → h.flag o.flag = g.flag o.flag - 1 ∧ ∀ y ∈ h.ops, y.id ≠ o.id)
      ∧ (r.kind.isStore = true → h.flags = g.flags ∧ h.ops = g.ops) ∧ SameBytes s t

/-- Byte `j` of row `k` of a scratchpad operand (R266, R269): where Phys places it, and 0 in a guard granule (R144). -/
def Sys2Proof.Claims.tileByte (s : State) (cl base pitch rot k j : Nat) : Byte :=
  if s.guarded (scratchKey cl (mxPhys base pitch rot k j)) = true then 0
  else Memory.read s.scratch (scratchKey cl (mxPhys base pitch rot k j))

/-- MATRIX_REQUEST_START (R264-R266, R269, R271): a request that is the one ready request of each of its arrays starts: it
occupies them for the cycles of its kind, and its operands A and B are read now: a register operand's lanes 0 to 63, a tile's bytes where Phys
places them, and, in a wide pass, the second tile of B, TILE granules further. -/
def Sys2Proof.Claims.RequestStarted : Prop :=
  ∀ s core rq r, core ∈ r.arrays → (∀ a ∈ r.arrays, s.mxReady a = [(rq, r)]) →
    ∃ t r', exec (.matrixRequestStart core) s = .next t ∧ Tab.find (t.cluster (clusterOf core)).mx rq = some r'
      ∧ r'.stage = .running (s.clock + r.occupancy) ∧ r'.kind = r.kind
      ∧ (∀ v g, r.a = .regs v → s.byUid r.uid = some g →
          ∀ k < 64, r'.rowsA[k]? = some (leBytes (4 * r.kind.regs) (readVk g v k r.kind.regs)))
      ∧ (∀ base pitch rot tp, r.a = .tile base pitch rot tp → ∀ k < 64, ∀ j < r.kind.rowBytes, ∃ row, r'.rowsA[k]? = some row
          ∧ row[j]? = some (tileByte s (clusterOf core) base pitch rot k j))
      ∧ (∀ v g, r.b = .regs v → s.byUid r.uid = some g →
          ∀ k < 64, r'.rowsB[k]? = some (leBytes (4 * r.kind.regs) (readVk g v k r.kind.regs)))
      ∧ (∀ base pitch rot tp, r.b = .tile base pitch rot tp → ∀ k < 64, ∀ j < 32,
          (∃ row, r'.rowsB[k]? = some row ∧ row[j]? = some (tileByte s (clusterOf core) base pitch rot k j))
          ∧ (∀ opc fn, r.kind = .mma opc fn → r.wide = true → ∃ row, r'.rowsB[64 + k]? = some row
              ∧ row[j]? = some (tileByte s (clusterOf core) (base + 128 * tp) pitch rot k j)))
      ∧ (∀ gk, (t.group gk).map (fun x => (x.regs, x.frags)) = (s.group gk).map fun x => (x.regs, x.frags)) ∧ SameBytes s t

/-- An element of an integer pass from its byte (R266, R273, R278): S8 and N8 of MMAI8, the low bits of MMABFP as two's
complement; negated where the word says. -/
def Sys2Proof.Claims.intElem (opc fmt : Nat) (neg : Bool) (b : Byte) : Int :=
  let w := fmt % 8 + 2
  let v : Int := if opc = 0xA4 then (if fmt = 0 then b.toInt else b.toNat)
    else if b.toNat % 2 ^ w < 2 ^ (w - 1) then (b.toNat % 2 ^ w : Nat) else (b.toNat % 2 ^ w : Nat) - 2 ^ w
  if neg then -v else v

/-- What a request that retires writes to element (i, c) of a destination (R273, R278-R280): an integer pass its exact sum
of products with C, modulo 2^32; MSCA a NaN where a scale is FFH, and the partial itself where the scales cancel and ZC
drops the target; MACCLD the words of lane i's registers in its slab, or of row i of its tile. `ra` is row i of A, `old` that
of the accumulator, `half` 1 on the follower's array. -/
def Sys2Proof.Claims.NewElement (s : State) (r : MxReq) (core half i c : Nat) (ra : List Byte) (old : List W32)
    (new : Option W32) : Prop :=
  (∀ opc fn rb x, r.kind = .mma opc fn → (opc = 0xA4 ∧ fn / 16 % 16 < 2 ∧ fn / 256 % 8 < 2 ∨ opc = 0xA5) →
    r.rowsB[64 * half + c]? = some rb → old[c]? = some x →
    new = some (BitVec.ofInt 32 ((if fn.testBit 2 = true then 0 else x.toInt) + ((List.range 32).map fun k =>
      intElem opc (fn / 16 % 16) (fn.testBit 0) (ra[k]?.getD 0)
        * intElem opc (if opc = 0xA4 then fn / 256 % 8 else fn / 128 % 8) (fn.testBit 1) (rb[k]?.getD 0)).sum)))
  ∧ (∀ fn int p rc prow x y, r.kind = .msca fn int p → r.rowsA[c]? = some rc →
    ((s.core core).array.rows p)[i]? = some prow → prow[c]? = some x → old[c]? = some y →
    let sa := (ra[0]?.getD 0).toNat
    let sb := (rc[1 + half]?.getD 0).toNat
    ((sa = 255 ∨ sb = 255) → new = some 0x7FC00000)
    ∧ (int = false → fn.testBit 2 = true → sa + sb = 254 → x.extractLsb' 23 8 ≠ 255 → x.extractLsb' 0 31 ≠ 0 →
        new = some (if fn.testBit 0 = true then x ^^^ 0x80000000 else x)))
  ∧ (∀ j w v, r.kind = .maccld j w → r.a = .regs v → j < 8 → old.length = 64 →
    new = if c / 8 = j then some (BitVec.ofNat 32 (leNat ((ra.drop (4 * (c % 8))).take 4))) else old[c]?)
  ∧ (∀ j w base pitch rot tp, r.kind = .maccld j w → r.a = .tile base pitch rot tp →
    new = some (BitVec.ofNat 32 (leNat ((ra.drop (4 * c)).take 4))))

/-- MATRIX_REQUEST_RETIRE (R265, R273, R278-R280): 20 cycles after its occupancy ends, a request with no mark writes its
accumulators, element by element as `NewElement` says, a MACCZ zeros, and no other accumulator changes; MACCST writes its slab to registers or its tile to
scratchpad, and its flag falls then. Before that time nothing happens. -/
def Sys2Proof.Claims.RequestRetired : Prop :=
  ∀ s cl rq r ends, Tab.find (s.cluster cl).mx rq = some r → r.stage = .running ends → (∀ c, Tab.wf (s.core c).array.acc = true) →
    (s.clock < ends + 20 → exec (.matrixRequestRetire cl rq) s = .next s)
    ∧ (ends + 20 ≤ s.clock → ∃ t r', exec (.matrixRequestRetire cl rq) s = .next t
        ∧ Tab.find (t.cluster cl).mx rq = some r' ∧ r'.stage = .retired s.clock
        ∧ (r.kind.isStore = false → r.taint = false → r.layout = none → r.mxfault = none → r.dataerr = none →
            (∀ d ∈ r.dests, (t.core d.1).array.rows d.2 = s.mxResult r d.1 (d.1 - r.core))
            ∧ (∀ d ∈ r.dests, ∀ i < 64, ∀ c < 64, ∀ ra old, r.rowsA[i]? = some ra →
                ((s.core d.1).array.rows r.idx)[i]? = some old →
                NewElement s r d.1 (d.1 - r.core) i c ra old ((((t.core d.1).array.rows d.2)[i]?).bind fun row => row[c]?))
            ∧ (∀ c m, (c, m) ∉ r.dests → (t.core c).array.rows m = (s.core c).array.rows m)
            ∧ (∀ m w, r.kind = .maccz m w → ∀ d ∈ r.dests, (t.core d.1).array.rows d.2 = zeroRows)
            ∧ t.groups = s.groups ∧ SameBytes s t)
        ∧ (∀ j follower n gk g o, r.kind = .maccst j follower (.regs n) → s.group gk = some g → g.uid = r.uid →
            (g.ops.find? fun x => x.kind == .request rq) = some o → Tab.wf g.flags = true →
            (s.core (r.core + (if follower then 1 else 0))).array.bad = [] →
            ∃ h, t.group gk = some h ∧ h.flag o.flag = g.flag o.flag - 1 ∧ h.regs.s = g.regs.s ∧ h.regs.p = g.regs.p
              ∧ (∀ l row x k, ((s.core (r.core + (if follower then 1 else 0))).array.rows r.idx)[l]? = some row → l < 64 →
                  row[8 * j + k]? = some x → k < 8 → h.regs.readV (n + k) l = x)
              ∧ (∀ v l, ¬ (n ≤ v ∧ v < n + 8 ∧ l < 64) → l < 96 → h.regs.readV v l = g.regs.readV v l)
              ∧ SameBytes s t)
        ∧ (∀ j follower base pitch rot tp, r.kind = .maccst j follower (.tile base pitch rot tp) → 16 ≤ pitch →
            base + 63 * pitch * 16 + 256 ≤ 2 ^ 20 →
            (∀ k, base ≤ k → k < base + 63 * pitch * 16 + 256 → s.mayReach r.tenant r.unit (scratchKey cl k) = true
              ∧ s.guarded (scratchKey cl k) = false ∧ s.ringWord (scratchKey cl k) = false) →
            (s.core (r.core + (if follower then 1 else 0))).array.bad = [] → s.sendRings = [] → Memory.wf s.scratch = true →
            ∀ l row x k, ((s.core (r.core + (if follower then 1 else 0))).array.rows r.idx)[l]? = some row → l < 64 →
              ∀ c < 64, row[c]? = some x → k < 4 →
                Memory.read t.scratch (scratchKey cl (base + l * pitch * 16 + 4 * c + k)) = BitVec.ofNat 8 (x.toNat / 256 ^ k)))

/-- The life of a matrix request: acceptance, start and retirement (R260-R266, R278-R280). -/
def Obligations.MatrixRequestsRun : Prop := RequestAccepted ∧ RequestStarted ∧ RequestRetired

/-- The word of MXSTAT with selector 0 (R283): OWNED, TOKEN, WIDE, LENT, and the table entries in use and of the
group. LENT counts a claim of the core's own grid too, by the model's choice (log 49). -/
def Sys2Proof.Claims.mxstatFlags (s : State) (gk : Nat) (g : Group) : W32 :=
  let a := (s.core (coreOf gk)).array
  let entries := (s.cluster (clusterOf (coreOf gk))).mx.filter fun y => y.2.stage.inTable
  let wide := s.cores.any fun c => c.2.array.owner.any fun w => w.unit == g.unit && w.follower
  BitVec.ofNat 32 ((a.owner.any fun w => w.unit == g.unit).toNat + 2 * a.token.isSome.toNat + 4 * wide.toNat
    + 8 * (a.owner.any fun w => w.follower).toNat + 16 * entries.length
    + 1024 * (entries.filter fun y => y.2.uid == g.uid).length)

/-- MFENCE, MWAIT and MXSTAT (R268, R281-R283): MFENCE with the named flags at zero sets FENCED, and waits otherwise; MWAIT
covers its group's requests whose index is in the mask, and completes 4 cycles after the last has retired, with a report
of the marked accumulators and the causes that the marks record; MXSTAT samples its value 4 cycles after issue, every field of
the four selectors of R283. Before those cycles neither completes. -/
def Sys2Proof.Claims.MatrixWaits : Prop :=
  (∀ o s gk g f, AtIssue (.mfence o) s gk g f → enabled g f o.guard ≠ 0 →
    ∃ t h, exec (.mfence o) s = .next t ∧ t.group gk = some h ∧ h.regs = g.regs ∧ OtherGroups s t gk ∧ SameBytes s t
      ∧ ((∀ n < 12, o.b.immVal.toNat.testBit n = true → g.flag n = 0) → h.fenced = true ∧ h.frag f.id = some f.advance)
      ∧ (∀ n < 12, o.b.immVal.toNat.testBit n = true → g.flag n ≠ 0 → h.fenced = g.fenced
          ∧ h.frag f.id = some { f with wait := .mfence (o.b.immVal.toNat % 2 ^ 12), since := s.clock }))
  ∧ (∀ o s gk g f n, AtIssue (.mwait o) s gk g f → enabled g f o.guard ≠ 0 → selFlag f o.fs = some n → g.flag n < 63 →
    ∃ t h covers, exec (.mwait o) s = .next t
      ∧ t.group gk = some h ∧ h = ((g.issuing f (.mwait o)).startOp s.nextUid n f.id
          (.mwait o.d.toNat (mxMask o (g.issuing f (.mwait o)) f % 2 ^ 16) covers)).setFrag f.advance
      ∧ (∀ rq, rq ∈ covers ↔ ∃ x, (rq, x) ∈ s.allReqs ∧ x.uid = g.uid
          ∧ x.inMask (mxMask o (g.issuing f (.mwait o)) f % 2 ^ 16) = true) ∧ OtherGroups s t gk ∧ SameBytes s t)
  ∧ (∀ s gk op g x d mask covers, s.group gk = some g → g.op op = some x → x.kind = .mwait d mask covers →
    g.opsBefore op = [] → Tab.wf g.flags = true → x.spoil = false → d < 125 →
    let rs := (s.allReqs.filter fun y => covers.contains y.1).map fun y => y.2
    (∀ r ∈ rs, ∃ n, r.stage = .retired n ∧ n + 4 ≤ s.clock) →
    ∃ t h, exec (.mwaitComplete gk op) s = .next t ∧ t.group gk = some h ∧ h.flag x.flag = g.flag x.flag - 1
      ∧ (∀ y ∈ h.ops, y.id ≠ op)
      ∧ (∀ m < 16, (h.regs.readS d).getLsbD m = rs.any fun r => r.layout.isSome && r.idx == m)
      ∧ (∀ m < 16, (h.regs.readS d).getLsbD (16 + m) = rs.any fun r => (r.mxfault.isSome || r.dataerr.isSome) && r.idx == m)
      ∧ ((∃ r ∈ rs, r.layout.isSome = true) → h.trap.cause.getLsbD 7 = true)
      ∧ ((∃ r ∈ rs, r.mxfault.isSome = true) → h.trap.cause.getLsbD 16 = true)
      ∧ ((∃ r ∈ rs, r.dataerr.isSome = true) → h.trap.cause.getLsbD 11 = true)
      ∧ ((∀ r ∈ rs, r.layout = none ∧ r.mxfault = none ∧ r.dataerr = none) → h.trap = g.trap)
      ∧ h.regs.v = g.regs.v ∧ h.regs.p = g.regs.p ∧ OtherGroups s t gk ∧ SameBytes s t)
  ∧ (∀ s gk op g x d mask covers, s.group gk = some g → g.op op = some x → x.kind = .mwait d mask covers →
    (∃ y ∈ s.allReqs, y.1 ∈ covers ∧ ∀ n, y.2.stage = .retired n → s.clock < n + 4) →
    exec (.mwaitComplete gk op) s = .next s)
  ∧ (∀ o s gk g f n, AtIssue (.mxstat o) s gk g f → enabled g f o.guard ≠ 0 → selFlag f o.fs = some n → g.flag n < 63 →
    ∃ t, exec (.mxstat o) s = .next t ∧ t.group gk = some (((g.issuing f (.mxstat o)).startOp s.nextUid n f.id
        (.mxstat o.d.toNat (o.b.immVal.toNat % 4) s.clock)).setFrag f.advance) ∧ OtherGroups s t gk ∧ SameBytes s t)
  ∧ (∀ s gk op g x d sel issued, s.group gk = some g → g.op op = some x → x.kind = .mxstat d sel issued →
    issued + 4 ≤ s.clock → Tab.wf g.flags = true → x.spoil = false → d < 125 →
    ∃ t h, exec (.mxstatComplete gk op) s = .next t ∧ t.group gk = some h ∧ h.flag x.flag = g.flag x.flag - 1
      ∧ (sel = 1 → h.regs.readS d = (s.core (coreOf gk)).array.passes)
      ∧ (sel = 2 → h.regs.readS d = (s.core (coreOf gk)).array.tokwait)
      ∧ (sel = 0 → h.regs.readS d = mxstatFlags s gk g)
      ∧ (sel = 3 → h.regs.readS d = BitVec.ofNat 32
          (((List.range 4).filter fun k => (s.core (4 * clusterOf (coreOf gk) + k)).array.token.isSome).length
            + 256 * ((s.die (dieOf (coreOf gk))).tokens.filter fun y => y.2.part == some g.part).length))
      ∧ h.regs.v = g.regs.v ∧ OtherGroups s t gk ∧ SameBytes s t)
  ∧ (∀ s gk op g x d sel issued, s.group gk = some g → g.op op = some x → x.kind = .mxstat d sel issued →
    s.clock < issued + 4 → exec (.mxstatComplete gk op) s = .next s)

/-- The relay ring (R274, R275): a free token moves one position of twelve every 12 cycles; a live cluster there that holds its partition's
right to it, and whose array lacks only a token, captures it; a held token does not move. An array gives its token up after
1024 passes whose occupancy has ended, and after 64 idle cycles. -/
def Sys2Proof.Claims.RelayTokens : Prop :=
  (∀ s die tok x, Tab.find (s.die die).tokens tok = some x →
    (x.holder ≠ none → exec (.relayTokenMove die tok) s = .next s)
    ∧ (s.clock < x.since + 12 → exec (.relayTokenMove die tok) s = .next s)
    ∧ (x.holder = none → x.since + 12 ≤ s.clock → ∃ t y, exec (.relayTokenMove die tok) s = .next t ∧ Tab.find (t.die die).tokens tok = some y
        ∧ y.pos = (x.pos + 1) % 12 ∧ y.part = x.part ∧ y.since = x.since + 12
        ∧ (y.holder = if s.liveCl.contains (12 * die + (x.pos + 1) % 12) = true
              ∧ s.reservedOf (12 * die + (x.pos + 1) % 12) = x.part then s.capturer (12 * die + (x.pos + 1) % 12) else none)
        ∧ (∀ core, y.holder = some core → (t.core core).array.token = some tok ∧ (t.core core).array.passesHeld = 0)
        ∧ (y.holder = none → t.cores = s.cores) ∧ t.groups = s.groups ∧ SameBytes s t))
  ∧ (∀ i s core tok x, (i = .tokenReleasePasses core ∧ 1024 ≤ (s.core core).array.passesHeld
        ∧ (s.core core).array.idleSince ≤ s.clock
      ∨ i = .tokenReleaseIdle core ∧ (s.core core).array.idleSince + 64 ≤ s.clock
        ∧ ∀ y ∈ (s.cluster (clusterOf core)).mx, y.2.isPass = true → core ∈ y.2.arrays → ∀ n, y.2.stage ≠ .accepted n) →
    (s.core core).array.token = some tok → Tab.find (s.die (dieOf core)).tokens tok = some x →
    ∃ t y, exec i s = .next t ∧ (t.core core).array.token = none ∧ Tab.find (t.die (dieOf core)).tokens tok = some y
      ∧ y.holder = none ∧ y.pos = x.pos ∧ y.since = s.clock ∧ t.groups = s.groups ∧ SameBytes s t)

/-- The matrix words that wait or report, and the tokens of the relay ring (R268, R274, R275, R281-R283). -/
def Obligations.MatrixWaitsAndTokens : Prop := MatrixWaits ∧ RelayTokens

/-! ## The store engine (10) -/

/-- A word has begun in its group: it is outstanding as `k` on flag `n`, its fragment has gone on, and no register of the
group and no other group has changed. -/
def Sys2Proof.Claims.Begins (s t : State) (gk : Nat) (g : Group) (f : Frag) (n : Nat) (k : OpKind) : Prop :=
  ∃ h, t.group gk = some h ∧ h.frag f.id = some f.advance ∧ h.ops.map (fun o => o.kind) = g.ops.map (fun o => o.kind) ++ [k]
    ∧ h.flags = Tab.set 0 g.flags n (g.flag n + 1) ∧ h.regs = g.regs ∧ OtherGroups s t gk

/-- A store word acts: it stands at issue with a lane Enabled, no FENCE of its group is in progress, and the flag that it
selects is below 63 (R56, R179, R340). -/
structure Sys2Proof.Claims.Acts (i : Instr) (s : State) (gk : Nat) (g : Group) (f : Frag) (o : MOp) (n : Nat) : Prop where
  atIssue : AtIssue i s gk g f
  fence : g.fencing = false
  flag : selFlag f o.fs = some n
  room : g.flag n < 63
  lane : enabled g f o.guard ≠ 0

/-- PIN and UNPIN (R341-R346): PIN with a pointer of tag 0 answers its status and detail to a scalar; a range that is not
page-aligned answers 3 with detail 0, one of no pages or past the end of the space 3 with 1, and a reserved bit 3 with 2; without
an expiry record, a tenant that holds CQUOTA contracts of other bases is answered 4 with 0, a full table 4 with 1, and a
tenant without a cache partition 2 with 0; none of these changes a tenant. Then a page homed where the tenant has no cache units is
answered 2 with 1, an overlap with a contract of another base 2 with 2, a page that does not translate 2 with 3, and more than 75% of
the partition's pages, or of a slice's lines, 1 with 0 or 1, each with the contracts as they were; otherwise the answer is 0. A contract accepted without an expiry record is
active over the pages that it names, with its terms, and detail 1 says that it renews one. UNPIN ends the contract whose base is its pointer, or answers 5 where there is none. A PIN
is stated where none of its reads must wait at its slice (log 40). -/
def Sys2Proof.Claims.ContractWords : Prop :=
  (∀ o s gk g f n b, Acts (.pin o) s gk g f o n → globalBody (ptrA g f o) = some b →
    (s.pin (coreOf gk) (g.issuing f (.pin o)) (pinReq g f o)).1.stall = s.stall →
    ∃ t st dt, exec (.pin o) s = .next t
      ∧ Begins s t gk (g.issuing f (.pin o)) f n (.scalars (scalarsAt o.d.toNat [st + 256 * dt]) false)
      ∧ (b % 4096 ≠ 0 → st = 3 ∧ dt = 0 ∧ t.tenants = s.tenants)
      ∧ (b % 4096 = 0 → let q := pinReq g f o
        let mine := (s.tenant g.tenant).contracts
        let others := mine.filter fun c => c.base != b
        let held := (s.tenants.map fun x => x.2.contracts.length).sum - if others = mine then 0 else 1
        let formed : Prop := q.pages ≠ 0 ∧ b + 4096 * q.pages ≤ 2 ^ 57
        let quick : Prop := formed ∧ q.reserved = false ∧ q.terms.testBit 4 = false
        (¬ formed → st = 3 ∧ dt = 1 ∧ t.tenants = s.tenants) ∧ (formed → q.reserved = true → st = 3 ∧ dt = 2 ∧ t.tenants = s.tenants)
        ∧ (quick → (s.tenant g.tenant).cquota ≤ others.length → st = 4 ∧ dt = 0 ∧ t.tenants = s.tenants)
        ∧ (quick → others.length < (s.tenant g.tenant).cquota → 4096 ≤ held → st = 4 ∧ dt = 1 ∧ t.tenants = s.tenants)
        ∧ (quick → others.length < (s.tenant g.tenant).cquota → held < 4096 →
            (∀ x ∈ (s.tenant g.tenant).extents, x.kind ≠ 1) → st = 2 ∧ dt = 0 ∧ t.tenants = s.tenants)
        ∧ (quick → st = 0 → dt = if others = mine then 0 else 1)
        ∧ (quick → others.length < (s.tenant g.tenant).cquota → held < 4096 →
            (s.cacheUnits g.tenant ≠ 0 ∨ ∃ x ∈ (s.tenant g.tenant).extents, x.kind = 1) →
          let pg := s.pinPages (coreOf gk) (g.issuing f (.pin o)) b q.pages
          let active := (others.filter fun c => c.active).map fun c => c.pages
          let homes := ((pg.2.1 :: active).flatMap fun ps => ps.flatMap fun p => (List.range 32).map fun i => 32 * p + i).filterMap
            fun l => pg.1.homeSlice (128 * l)
          let cached : Prop := ∀ p ∈ pg.2.1, ∀ i < 32, ∃ m, pg.1.homeSlice (4096 * p + 128 * i) = some m ∧ pg.1.cacheExtents g.tenant m ≠ []
          let apart : Prop := ∀ c ∈ others, ¬ (c.base < b + 4096 * q.pages ∧ b < c.base + 4096 * c.pages.length)
          let fits : Prop := pg.2.1.length + (active.map fun ps => ps.length).sum ≤ pg.1.cacheUnits g.tenant * 3 / 4
          let level : Prop := ∀ m, homes.count m ≤ 32 * pg.1.cacheUnitsIn g.tenant m * 3 / 4
          let kept : Prop := (t.tenant g.tenant).contracts = mine
          (¬ cached → st = 2 ∧ dt = 1 ∧ kept) ∧ (cached → ¬ apart → st = 2 ∧ dt = 2 ∧ kept)
          ∧ (cached → apart → pg.2.2 = false → st = 2 ∧ dt = 3 ∧ kept)
          ∧ (cached → apart → pg.2.2 = true → (¬ fits → st = 1 ∧ dt = 0 ∧ kept) ∧ (fits → ¬ level → st = 1 ∧ dt = 1 ∧ kept)
            ∧ (fits → level → st = 0))))
      ∧ (st = 0 → (pinReq g f o).terms.testBit 4 = false → ∃ c ∈ (t.tenant g.tenant).contracts, c.base = b ∧ c.active = true
          ∧ c.pages.length = (pinReq g f o).pages ∧ c.prio = (pinReq g f o).terms % 4
          ∧ c.fill = (pinReq g f o).terms.testBit 2 ∧ c.late = (pinReq g f o).terms.testBit 3))
  ∧ (∀ o s gk g f n b, Acts (.unpin o) s gk g f o n → globalBody (ptrA g f o) = some b →
    ∃ t, exec (.unpin o) s = .next t
      ∧ Begins s t gk (g.issuing f (.unpin o)) f n (.scalars (scalarsAt o.d.toNat
          [if ((s.tenant g.tenant).contracts.any fun c => c.base == b) = true then 0 else 5]) false)
      ∧ (∀ c ∈ (t.tenant g.tenant).contracts, c.base ≠ b)
      ∧ ((s.tenant g.tenant).contracts.filter fun c => c.base != b).map (fun c => (c.base, c.pages))
          = (t.tenant g.tenant).contracts.map (fun c => (c.base, c.pages)) ∧ SameBytes s t)

/-- What the directory of a reserve answers to an insertion (R352, R353): the lowest free available block; with none of those
nothing, under NOEVICT or with every block unavailable; otherwise the victim that the policy names among the available blocks
that hold a key, ties going to the lower number; and where every one is filling, a wait. -/
def Sys2Proof.Claims.KvPick (s : State) (t k : Nat) (x : Extent) (l : List Nat) (a : KvAlloc) : Prop :=
  let blk (b : Nat) : Block := ((s.tenant t).reserve k).block b
  let avail (b : Nat) : Prop := b < kvBlocks x l ∧ s.kvAvail x l b = true
  let free (b : Nat) : Prop := avail b ∧ (blk b).key = none ∧ (blk b).busy = false
  let held (b : Nat) : Prop := avail b ∧ (blk b).key ≠ none ∧ (blk b).busy = false
  let older (v c : Nat) (m n : Nat) : Prop := m < n ∨ m = n ∧ v ≤ c
  match a with
  | .got b false => free b ∧ ∀ c < b, ¬ free c
  | .full => (∀ c, ¬ free c) ∧ (x.policy = 3 ∨ ∀ c, ¬ avail c)
  | .got v true => (∀ c, ¬ free c) ∧ x.policy < 3 ∧ held v ∧ ∀ c, held c →
      (x.policy = 0 → older v c (blk v).recent (blk c).recent)
      ∧ (x.policy = 1 → (blk v).prio < (blk c).prio ∨ (blk v).prio = (blk c).prio ∧ older v c (blk v).recent (blk c).recent)
      ∧ (x.policy = 2 → older v c (blk v).inserted (blk c).inserted)
  | .wait => (∀ c, ¬ free c) ∧ x.policy < 3 ∧ (∃ c, avail c) ∧ ∀ c, ¬ held c

/-- The key-value words (R350-R354): a reserve that the tenant lacks answers 4; KVLOOK answers a held key's block, generation
and 0, and acquires, and 1 for a key that is not held; KVDROP also takes the key out; KVINS marks the block that the directory
picks filling, with its key dropped, or answers 3 for a full reserve, or waits for a block; its switch gives the block its key,
with the generation one higher, frees the key's earlier block, and answers its scalars, 1 where there was an earlier block, 2
where another key was evicted; the block then holds the source bytes. -/
def Sys2Proof.Claims.KeyValueWords : Prop :=
  (∀ i o s gk g f n, (i = .kvlook o ∨ i = .kvdrop o) → Acts i s gk g f o n →
    ∃ t, exec i s = .next t ∧ SameBytes s t
      ∧ (s.kvExtent g.tenant o.x.toNat = none →
          Begins s t gk (g.issuing f i) f n (.scalars (scalarsAt o.d.toNat [0, 0, 0, 4]) false) ∧ t.tenants = s.tenants)
      ∧ (∀ x l, s.kvExtent g.tenant o.x.toNat = some (x, l) →
        (s.kvFind g.tenant o.x.toNat x l (readS64 g f o.c.toNat) = none →
          Begins s t gk (g.issuing f i) f n (.scalars (scalarsAt o.d.toNat [0, 0, 0, 1]) false) ∧ t.tenants = s.tenants)
        ∧ (∀ b y, s.kvFind g.tenant o.x.toNat x l (readS64 g f o.c.toNat) = some (b, y) →
          Begins s t gk (g.issuing f i) f n (.scalars (scalarsAt o.d.toNat
              [(2 ^ 60 + x.obase + 4096 * b) % 2 ^ 32, (2 ^ 60 + x.obase + 4096 * b) / 2 ^ 32, y.gen.toNat, 0])
            (match i with | .kvlook _ => true | _ => false))
          ∧ (i = .kvdrop o → (((t.tenant g.tenant).reserve o.x.toNat).block b).key = none)
          ∧ (i = .kvlook o → (((t.tenant g.tenant).reserve o.x.toNat).block b).key
              = (((s.tenant g.tenant).reserve o.x.toNat).block b).key))))
  ∧ (∀ o s gk g f n as s', Acts (.kvins o) s gk g f o n → (ptrA g f o).toNat % 128 = 0 →
    s.span (coreOf gk) (g.issuing f (.kvins o)) globTags permR (ptrA g f o) 4096 = (s', .ok as) →
    s'.stall = s.stall →
    ∃ t, exec (.kvins o) s = .next t
      ∧ (s'.kvExtent g.tenant o.x.toNat = none →
          Begins s t gk (g.issuing f (.kvins o)) f n (.scalars (scalarsAt o.d.toNat [0, 0, 0, 4]) false))
      ∧ (∀ x l a, s'.kvExtent g.tenant o.x.toNat = some (x, l) → KvPick s' g.tenant o.x.toNat x l a →
          (a = .full → Begins s t gk (g.issuing f (.kvins o)) f n (.scalars (scalarsAt o.d.toNat [0, 0, 0, 3]) false))
          ∧ (a = .wait → Begins s t gk (g.issuing f (.kvins o)) f n (.kvins o.d.toNat o.x.toNat none false (o.tag.toNat % 4)
              (readS64 g f o.c.toNat) (ptrA g f o) (runsOf as)))
          ∧ (∀ b ev, a = .got b ev → Begins s t gk (g.issuing f (.kvins o)) f n (.kvins o.d.toNat o.x.toNat (some b) ev
              (o.tag.toNat % 4) (readS64 g f o.c.toNat) (ptrA g f o) (runsOf as))
            ∧ (((t.tenant g.tenant).reserve o.x.toNat).block b).busy = true
            ∧ (((t.tenant g.tenant).reserve o.x.toNat).block b).key = none)))
  ∧ (∀ s gk op g w d k b ev prio key src runs x l, s.group gk = some g → g.op op = some w →
    w.kind = .kvins d k (some b) ev prio key src runs → s.kvExtent g.tenant k = some (x, l) →
    (((s.tenant g.tenant).reserve k).block b).busy = true → ((g.opsBefore op).all fun e => e.kind.performed) = true →
    s.plat.bad = [] → s.plat.soft = [] → s.wakeAny g.tenant (storeAddr (kvPlace x l b).1 (kvPlace x l b).2
      :: ((runAddrs runs).map fun a => a / 128 * 128).eraseDups) = none →
    d + 3 < 125 → Tab.wf g.flags = true →
    w.spoil = false → s.dirtyLines (coreOf gk) g.asid = [] → (s.engineReads g.tenant (runAddrs runs)).stall = s.stall →
    let gen := (((s.tenant g.tenant).reserve k).block b).gen + 1
    let old : Option (Nat × Block) := ((s.tenant g.tenant).reserve k).blocks.find? fun y => y.2.key == some key
    ∃ t h, exec (.kvinsSwitch gk op) s = .next t ∧ t.group gk = some h ∧ (∀ y ∈ h.ops, y.id ≠ op) ∧ h.flag w.flag = g.flag w.flag - 1
      ∧ (((t.tenant g.tenant).reserve k).block b).key = some key ∧ (((t.tenant g.tenant).reserve k).block b).busy = false
      ∧ (((t.tenant g.tenant).reserve k).block b).gen = gen
      ∧ h.regs.readS d = BitVec.ofNat 32 (2 ^ 60 + x.obase + 4096 * b)
      ∧ h.regs.readS (d + 1) = BitVec.ofNat 32 ((2 ^ 60 + x.obase + 4096 * b) / 2 ^ 32) ∧ h.regs.readS (d + 2) = gen
      ∧ h.regs.readS (d + 3) = (if old.isSome = true then 1 else if ev = true then 2 else 0)
      ∧ (∀ y, old = some y → y.1 ≠ b → (((t.tenant g.tenant).reserve k).block y.1).key = none)
      ∧ h.regs.v = g.regs.v ∧ OtherGroups s t gk
      ∧ (SoundMemory s → NoPeerLines s → NoSpill s → (∀ a ∈ runAddrs runs, isStore a = true ∨ tierOf a ≠ 2) →
          (runAddrs runs).length = 4096 →
          ∀ j a, (runAddrs runs)[j]? = some a →
            t.readHome (storeAddr (kvPlace x l b).1 (kvPlace x l b).2 + j) = s.readHome a))
  ∧ (∀ s gk op g w d k ev prio key src runs x l a, s.group gk = some g → g.op op = some w →
    w.kind = .kvins d k none ev prio key src runs → s.kvExtent g.tenant k = some (x, l) → KvPick s g.tenant k x l a →
    (a = .wait → exec (.kvinsSwitch gk op) s = .next s)
    ∧ (a = .full → w.spoil = false → d + 3 < 125 → ∃ t h, exec (.kvinsSwitch gk op) s = .next t ∧ t.group gk = some h
        ∧ (∀ y ∈ h.ops, y.id ≠ op) ∧ h.regs.readS (d + 3) = 3 ∧ h.regs.readS d = 0 ∧ SameBytes s t)
    ∧ (∀ b ev', a = .got b ev' → ∃ t h y, exec (.kvinsSwitch gk op) s = .next t ∧ t.group gk = some h ∧ h.op op = some y
        ∧ y.kind = .kvins d k (some b) ev' prio key src runs ∧ (((t.tenant g.tenant).reserve k).block b).busy = true
        ∧ (((t.tenant g.tenant).reserve k).block b).key = none ∧ h.regs = g.regs ∧ SameBytes s t))

/-- XPOSE, STQRY and the completion of store words (R340, R355-R358): a shape that breaks its table answers 1 with nothing moved;
a good one is outstanding until its elements are moved, each to the transposed place, where no destination byte is a source
byte; STQRY answers the four words of R358 for its selector, and FFFFFFFFH and zeros for any other; completion writes the scalars, and the flag falls. -/
def Sys2Proof.Claims.TransposeAndQuery : Prop :=
  (∀ o s gk g f n, Acts (.xpose o) s gk g f o n →
    ((xposeShape g f o).2 = false → ∃ t, exec (.xpose o) s = .next t ∧ SameBytes s t
      ∧ Begins s t gk (g.issuing f (.xpose o)) f n (.scalars (scalarsAt o.d.toNat [1]) false))
    ∧ ((xposeShape g f o).2 = true → (ptrA g f o).toNat % o.size.bytes = 0 → (readS64 g f o.c.toNat).toNat % o.size.bytes = 0 →
      (∀ e ∈ (xposeShape g f o).1.elems, ∀ p, (p = ((xposeShape g f o).1.elemPtrs (ptrA g f o) (readS64 g f o.c.toNat) e).1
          ∨ p = ((xposeShape g f o).1.elemPtrs (ptrA g f o) (readS64 g f o.c.toNat) e).2) → ∃ a, s.storeAt g.tenant p = .ok a) →
      ∃ t, exec (.xpose o) s = .next t ∧ SameBytes s t ∧ Begins s t gk (g.issuing f (.xpose o)) f n
        (.xpose o.d.toNat (ptrA g f o) (readS64 g f o.c.toNat) o.size.bytes (xposeShape g f o).1.rows (xposeShape g f o).1.cols
          (xposeShape g f o).1.spitch (xposeShape g f o).1.dpitch)))
  ∧ (∀ s gk op g w d src dst es rows cols sp dp, s.group gk = some g → g.op op = some w →
    w.kind = .xpose d src dst es rows cols sp dp → g.opsBefore op = [] → s.plat.bad = [] → s.plat.soft = [] → d < 125 →
    Tab.wf g.flags = true → Memory.wf s.mem = true → Memory.wf s.storeMem = true → w.spoil = false →
    (∀ x ∈ s.grids, (x.2.slalom.bind fun y => y.spill) = none) →
    let h : Machine.Shape := { es := es, rows := rows, cols := cols, spitch := sp, dpitch := dp }
    ∀ at_ : Nat × Nat → Nat × Nat, (∀ e ∈ h.elems, ∀ i < es, s.storePlace g.tenant ((h.elemPtrs src dst e).1 + BitVec.ofNat 64 i) = some ((at_ e).1 + i)
        ∧ s.storePlace g.tenant ((h.elemPtrs src dst e).2 + BitVec.ofNat 64 i) = some ((at_ e).2 + i)
        ∧ s.wakeFor g.tenant ((at_ e).1 + i) = none ∧ s.wakeFor g.tenant ((at_ e).2 + i) = none) →
      (∀ e ∈ h.elems, ∀ e' ∈ h.elems, ∀ i < es, ∀ j < es, (at_ e).2 + i ≠ (at_ e').1 + j
        ∧ (e ≠ e' → (at_ e).2 + i ≠ (at_ e').2 + j)) →
      ∃ t h', exec (.storeInstrComplete gk op) s = .next t ∧ t.group gk = some h' ∧ h'.regs.readS d = 0
        ∧ h'.flag w.flag = g.flag w.flag - 1 ∧ (∀ y ∈ h'.ops, y.id ≠ op)
        ∧ (∀ e ∈ h.elems, ∀ i < es, t.readHome ((at_ e).2 + i) = s.readHome ((at_ e).1 + i))
        ∧ (∀ a, (∀ e ∈ h.elems, ∀ i < es, a ≠ (at_ e).2 + i) → t.readHome a = s.readHome a))
  ∧ (∀ o s gk g f n, Acts (.stqry o) s gk g f o n →
    (readS g f o.c.toNat ≠ 2 ∨ (s.locate (coreOf gk) (g.issuing f (.stqry o)) [0] permR (ptrA g f o)).1.stall = s.stall) →
    ∃ t ws, exec (.stqry o) s = .next t ∧ Begins s t gk (g.issuing f (.stqry o)) f n (.scalars (scalarsAt o.d.toNat ws) false)
      ∧ ws.length = 4
      ∧ (readS g f o.c.toNat = 3 → ws = [(s.tenant g.tenant).lateHbm, (s.tenant g.tenant).lateHost,
          (s.tenant g.tenant).latePeer, (s.tenant g.tenant).wakes])
      ∧ (8 < (readS g f o.c.toNat).toNat → ws = [0xFFFFFFFF, 0, 0, 0])
      ∧ (readS g f o.c.toNat = 0 → ws = [s.cacheUnits g.tenant, s.unitsOf g.tenant fun k => k == 2,
          s.unitsOf g.tenant fun k => 4 ≤ k && k ≤ 7,
          ((List.range 4).map fun k => if (s.kvExtent g.tenant k).isSome = true then 2 ^ k else 0).sum])
      ∧ (readS g f o.c.toNat = 1 → ws = [(s.tenant g.tenant).cquota * 2 ^ 16 + (s.tenant g.tenant).contracts.length,
          (((s.tenant g.tenant).contracts.filter fun c => c.active).map fun c => c.pages.length).sum,
          s.cacheUnits g.tenant * 3 / 4, ((s.tenant g.tenant).contracts.filter fun c => !c.active).length])
      ∧ (readS g f o.c.toNat = 2 →
          let r := s.locate (coreOf gk) (g.issuing f (.stqry o)) [0] permR (ptrA g f o)
          let found := (r.1.tenant g.tenant).contracts.find? fun c => BitVec.ofNat 64 c.base == ptrA g f o
          (tagOf (ptrA g f o) ≠ 0 ∨ found = none ∨ (∃ e, r.2 = .error e ∧ (e.cause ≠ 2 ∨ e.detail / 2 ^ 10 ≠ 2)) → ws = [0, 0, 0, 0])
          ∧ (∀ c a, tagOf (ptrA g f o) = 0 → found = some c → r.2 = .ok a →
              ws = [(if c.active = true then 1 else 2) + 4 * c.prio + 16 * c.fill.toNat + 32 * c.late.toNat + 64 * c.expiry.toNat,
                c.pages.length, (c.lines.filter fun l => (r.1.homeSlice (128 * l)).any fun n => r.1.resident n l).length,
                32 * c.pages.length]))
      ∧ (∀ k < 4, (readS g f o.c.toNat).toNat = 4 + k →
          (s.kvExtent g.tenant k = none → ws = [0, 0, 0, 0])
          ∧ (∀ x l, s.kvExtent g.tenant k = some (x, l) → ws = [4 + x.policy, x.units * l.length,
              (((s.tenant g.tenant).reserve k).blocks.filter fun y => y.2.busy || y.2.key.isSome).length,
              ((s.tenant g.tenant).reserve k).evicts]))
      ∧ (readS g f o.c.toNat = 8 → ∃ w, ws = [w, 0, 0, 0] ∧
          let code (d l : Nat) : Nat := if (s.layer d l).ends.isSome = true then (s.layer d l).target else (s.layer d l).state
          ((∀ d l, code d l < 4) → ∀ d < 4, ∀ l < 2, w / 2 ^ (4 * d + 2 * l) % 4 = code d l)))
  ∧ (∀ s gk op g w ws acq, s.group gk = some g → g.op op = some w → w.kind = .scalars ws acq → Tab.wf g.flags = true →
    (ws.map fun x => x.1).Nodup → (∀ x ∈ ws, x.1 < 125) → w.spoil = false →
    ∃ t h, (exec (.storeInstrComplete gk op) s = .next t) ∧ t.group gk = some h ∧ (∀ y ∈ h.ops, y.id ≠ op)
      ∧ h.flag w.flag = g.flag w.flag - 1 ∧ (∀ x ∈ ws, h.regs.readS x.1 = x.2)
      ∧ (∀ n, (∀ x ∈ ws, x.1 ≠ n) → h.regs.readS n = g.regs.readS n) ∧ h.regs.v = g.regs.v ∧ h.regs.p = g.regs.p
      ∧ OtherGroups s t gk ∧ SameBytes s t)

/-- The store instructions (R339-R358). -/
def Obligations.StoreWords : Prop := ContractWords ∧ KeyValueWords ∧ TransposeAndQuery

/-- Layer power (R336-R338): the owner's write of a new state begins the transition to it, with its idle time; a write of the
state that the layer already heads for changes nothing, but that a wake which a debug read began (R483) becomes software's; LAYER_TRANSITION_DONE ends it once its time has passed; a layer that
went OFF then reads as zero in every byte, and no other byte changes. One that is not the owner changes nothing but IGNWR. -/
def Sys2Proof.Claims.LayersChange : Prop :=
  (∀ i s m die layer k, (i = .layerActive m die layer ∧ k = 0 ∨ i = .layerRetention m die layer ∧ k = 1
      ∨ i = .layerOff m die layer ∧ k = 2) →
    s.recovering = false →
    (s.isOwner m = false → exec i s = .next (s.updFe fun f => { f with ignWr := min 0xFFFFFFFF (f.ignWr + 1) }))
    ∧ (s.isOwner m = true → die < 4 → layer < 2 → s.layerReserved die layer = false →
      ((s.layer die layer).target = k → exec i s = .next (if (s.layer die layer).dbg = true then
          s.renewLease.updLayer die layer fun y => { y with dbg := false } else s.renewLease))
      ∧ ((s.layer die layer).target ≠ k → ((s.layer die layer).target = 2 → (s.layer die layer).state = 2) →
        ∃ t, exec i s = .next t ∧ (t.layer die layer).target = k ∧ (t.layer die layer).state = (s.layer die layer).state
          ∧ (t.layer die layer).ends = some (s.clock + layerTime (s.layer die layer).state k)
          ∧ (∀ l, l < 2 → l ≠ layer → t.layer die l = s.layer die l) ∧ SameBytes s t ∧ t.groups = s.groups)))
  ∧ (∀ s die layer x ends, layer < 2 → s.layer die layer = x → x.ends = some ends →
    (s.clock < ends → exec (.layerTransitionDone die layer) s = .next s)
    ∧ (ends ≤ s.clock → x.target ≠ 2 → ∃ t, exec (.layerTransitionDone die layer) s = .next t
        ∧ t.layer die layer = { x with state := x.target, ends := none } ∧ SameBytes s t ∧ t.groups = s.groups)
    ∧ (ends ≤ s.clock → x.target = 2 → s.layerBusy die layer = false → (∀ n, (s.slice n).lines = []) →
        ∃ t, exec (.layerTransitionDone die layer) s = .next t ∧ t.layer die layer = { x with state := 2, ends := none }
          ∧ (∀ a, Memory.read t.storeMem a = if inLayer die layer (storeBase + a) = true then 0 else Memory.read s.storeMem a)
          ∧ (∀ a, Memory.read t.mem a = Memory.read s.mem a) ∧ t.groups = s.groups))

/-- IREGION_WRITE (R327): the owner's write of an entry that is not valid, or whose codes, FIRST and limits keep the table and
which meets no other valid region, takes effect, its reserved bits apart; a valid entry that breaks the table is refused. -/
def Sys2Proof.Claims.RegionsWritten : Prop :=
  ∀ s m n (v : BitVec 128), n < 32 → s.recovering = false → s.isOwner m = true → Tab.wf s.fe.iregions = true →
    let w := v &&& 0xFFFFFC0000000000FFFFFC000FFFD
    let bad := iregValid w && (!s.iregOk w || s.fe.iregions.any fun r => r.1 != n && iregValid r.2 && iregMeets r.2 w)
    ∃ t, exec (.iregionWrite m n v) s = .next t
      ∧ (bad = false → Tab.get 0 t.fe.iregions n = w ∧ ∀ k, k ≠ n → Tab.get 0 t.fe.iregions k = Tab.get 0 s.fe.iregions k)
      ∧ (bad = true → t = s.renewLease) ∧ SameBytes s t ∧ t.groups = s.groups

/-- The store's layers and the interleave regions (R327, R336-R338). -/
def Obligations.LayersAndRegions : Prop := LayersChange ∧ RegionsWritten

/-! ## The trigger engine (11) -/

/-- A trigger word acts: it stands at issue with a lane Enabled, no FENCE of its group is in progress, the flag that it selects
is below 63, and the group's earlier accesses are performed (R386). -/
structure Sys2Proof.Claims.ActsF (i : Instr) (s : State) (gk : Nat) (g : Group) (f : Frag) (o : FOp) (n : Nat) : Prop where
  atIssue : AtIssue i s gk g f
  fence : g.fencing = false
  flag : selFlag f o.fs = some n
  room : g.flag n < 63
  lane : enabled g f o.guard ≠ 0
  performed : g.allPerformed = true

/-- What an arming comes to between two states, its pointers translated as `l` says (R367, R387): status 5 for a block
that breaks its table, 4 for a queue that is not the record's, 1 with no FREE entry on the counter-home die, 2 past 64 segments,
3 with no free filter, and otherwise 0, with the handle of the lowest FREE entry, which holds the block's fields and is FIRING
at once where a watched word is at least TARGET already, else ARMED. -/
def Sys2Proof.Claims.Arms (s t : State) (tenant : Nat) (b : ArmBlk) (l : ArmLoc) (packet : Bool) (st hd : Nat) : Prop :=
  (b.malformed packet = true → st = 5 ∧ hd = 0)
  ∧ (b.malformed packet = false → b.badQueue s tenant = true → st = 4 ∧ hd = 0)
  ∧ (st = 0 → b.malformed packet = false ∧ ∃ e, hd = 4096 * (t.trig e).gen + e ∧ ((t.trig e).state = 1 ∨ (t.trig e).state = 2)
      ∧ (t.trig e).tenant = tenant ∧ (t.trig e).target = b.target ∧ (t.trig e).action = b.action
      ∧ (t.trig e).watch = (b.kind == 2) ∧ (t.trig e).count = 0 ∧ (t.trig e).segs = l.segs)
  ∧ (∀ a0 n0 rest, l.segs = (a0, n0) :: rest → b.malformed packet = false → b.badQueue s tenant = false →
    let die := ((s.sliceOf a0).getD 0) / 64
    ((∀ k < 1024, (s.trig (1024 * die + k)).state ≠ 0) → st = 1 ∧ hd = 0)
    ∧ (∀ k < 1024, (s.trig (1024 * die + k)).state = 0 → (∀ j < k, (s.trig (1024 * die + j)).state ≠ 0) →
      let many : Prop := b.kind = 1 ∧ 64 < l.segs.length
      let noFilter : Prop := b.kind = 1 ∧ ∃ m ∈ s.segSlices l.segs, 128 ≤ s.filters m
      (many → st = 2 ∧ hd = 0) ∧ (¬ many → noFilter → st = 3 ∧ hd = 0)
      ∧ (¬ many → ¬ noFilter → st = 0 ∧ hd = 4096 * (s.trig (1024 * die + k)).gen + (1024 * die + k)
        ∧ (t.trig (1024 * die + k)).state = if b.kind = 2 ∧ b.target ≤ s.readHomeNat a0 8 then 2 else 1)))

/-- What ARMAC and TASKQ come to once their block has been read and their pointers translated (R366, R367, R387, R389): ARMAC
answers the status and the handle of its arming; TASKQ answers the status of the push, and a
push of 0 puts the record last in its queue. No read or write of theirs must wait at its slice (log 40). -/
def Sys2Proof.Claims.ArmAndPush : Prop :=
  (∀ o s gk g f n s1 as, ActsF (.armac o) s gk g f o n → (readS64 g f o.a.idx.toNat).toNat % 64 = 0 →
    let h0 := g.issuing f (.armac o)
    (s.releaseNow (coreOf gk) g.asid).span (coreOf gk) h0 [0] permR (readS64 g f o.a.idx.toNat) 128 = (s1, .ok as) →
    let b := armBlkOf (s1.gather as)
    let r := (s1.engineReads g.tenant as).armLocate (fun s tags need q => s.locate (coreOf gk) h0 tags need q) b
    r.2.range = none → r.2.bar = none → r.1.stall = s.stall →
    ∃ t st hd, exec (.armac o) s = .next t ∧ Begins s t gk h0 f n (.scalars (scalarsAt o.d.toNat [st, hd]) false)
      ∧ Arms r.1 t g.tenant b r.2 false st hd)
  ∧ (∀ o s gk g f n s1 as, ActsF (.taskq o) s gk g f o n → (readS64 g f o.a.idx.toNat).toNat % 64 = 0 →
    let h0 := g.issuing f (.taskq o)
    (s.releaseNow (coreOf gk) g.asid).span (coreOf gk) h0 [0] permR (readS64 g f o.a.idx.toNat) 64 = (s1, .ok as) →
    let q := taskqNo h0 f o
    let s2 := s1.engineReads g.tenant as
    let tq := s2.taskq q
    let st := if recordOk (s1.gather as) = false then 3
      else if 1024 ≤ q ∨ tq.bound = false ∨ tq.tenant ≠ g.tenant then 2
      else if fieldAt (s1.gather as) 0x25 1 ≠ tq.part then 4
      else if tq.slots ≤ tq.recs.length then 1 else 0
    s2.stall = s.stall → (st = 0 → (s2.pushTask q (s1.gather as)).stall = s.stall) →
    ∃ t, exec (.taskq o) s = .next t ∧ Begins s t gk h0 f n (.scalars (scalarsAt o.d.toNat [st]) false)
      ∧ (st ≠ 0 → t.taskq q = s2.taskq q)
      ∧ (st = 0 → (t.taskq q).tail = (s2.taskq q).tail + 1
          ∧ (t.taskq q).recs.map (fun x => x.2.2) = (s2.taskq q).recs.map (fun x => x.2.2) ++ [s1.gather as]))

/-- The faults of ARMAC and TASKQ, before any entry is taken or record pushed (R101, R366, R387, R389): a pointer that is no
global one, or not a multiple of 64, and, of a block of ARMAC that shows no error, a range or a barrier word that may not be
reached. -/
def Sys2Proof.Claims.ArmAndPushFaults : Prop :=
  (∀ i o k s gk g f n, (i = .armac o ∧ k = 128 ∨ i = .taskq o ∧ k = 64) → ActsF i s gk g f o n →
    let p := readS64 g f o.a.idx.toNat
    let r := (s.releaseNow (coreOf gk) g.asid).span (coreOf gk) (g.issuing f i) [0] permR p k
    let bad := if p.toNat % 64 = 0 then [] else [(3, { eaddr := p, detail := 0 })]
    r.1.stall = s.stall →
    (∀ e, r.2 = .error e → exec i s = .next (takeTrap r.1 gk g f (ptrCause e.2 p :: bad)))
    ∧ (∀ as, r.2 = .ok as → p.toNat % 64 ≠ 0 → exec i s = .next (takeTrap r.1 gk g f bad)))
  ∧ ∀ o s gk g f n s1 as, ActsF (.armac o) s gk g f o n → (readS64 g f o.a.idx.toNat).toNat % 64 = 0 →
    let h0 := g.issuing f (.armac o)
    (s.releaseNow (coreOf gk) g.asid).span (coreOf gk) h0 [0] permR (readS64 g f o.a.idx.toNat) 128 = (s1, .ok as) →
    (∀ a ∈ as, (s1.engineReads g.tenant as).errAt a = false) → (∀ a ∈ as, s1.errAt a = false) →
    let b := armBlkOf (s1.gather as)
    let r := (s1.engineReads g.tenant as).armLocate (fun s tags need q => s.locate (coreOf gk) h0 tags need q) b
    let causes := (match r.2.range with | some x => [ptrCause x b.range] | none => [])
      ++ (match r.2.bar with | some x => [ptrCause x b.bar] | none => [])
    causes ≠ [] → r.1.stall = s.stall → exec (.armac o) s = .next (takeTrap r.1 gk g f causes)

/-- DISARM and ACRD (R388): a stale handle answers 2 and zeros; otherwise the count, the entry's codes and a status are answered;
DISARM frees the entry, with a new generation, unless it is FIRING, when it is freed after its action; ACRD changes no entry. -/
def Sys2Proof.Claims.DisarmAndRead : Prop :=
  ∀ i o s gk g f n, (i = .disarm o ∨ i = .acrd o) → ActsF i s gk g f o n →
    ∃ t, exec i s = .next t ∧ SameBytes s t ∧ (∀ e, e ≠ (readS g f o.a.idx.toNat).toNat % 4096 → t.trig e = s.trig e)
      ∧ (s.trigOf g.tenant (readS g f o.a.idx.toNat).toNat = none →
          Begins s t gk (g.issuing f i) f n (.scalars (scalarsAt o.d.toNat [0, 0, 0, 2]) false) ∧ t.trigs = s.trigs)
      ∧ (∀ e x, s.trigOf g.tenant (readS g f o.a.idx.toNat).toNat = some (e, x) →
          Begins s t gk (g.issuing f i) f n (.scalars (scalarsAt o.d.toNat
            [x.count % 2 ^ 32, x.count / 2 ^ 32 % 2 ^ 32, x.action * 64 + (if x.watch = true then 2 else 1) * 16 + x.state,
             match i with | .disarm _ => (if x.state = 1 then 0 else 1) | _ => 0]) false)
          ∧ (i = .acrd o → t.trig e = x)
          ∧ (i = .disarm o → x.state ≠ 2 → (t.trig e).state = 0 ∧ (t.trig e).gen = (x.gen + 1) % 4096)
          ∧ (i = .disarm o → x.state = 2 → t.trig e = { x with disarmed := true }))

/-- TRIGGER_INSTR_COMPLETE writes its scalars, and its flag falls (R387-R389). -/
def Sys2Proof.Claims.TriggerCompletes : Prop :=
  ∀ s gk op g w ws acq, s.group gk = some g → g.op op = some w → w.kind = .scalars ws acq → Tab.wf g.flags = true →
    (ws.map fun x => x.1).Nodup → (∀ x ∈ ws, x.1 < 125) → w.spoil = false →
    ∃ t h, exec (.triggerInstrComplete gk op) s = .next t ∧ t.group gk = some h ∧ (∀ y ∈ h.ops, y.id ≠ op)
      ∧ h.flag w.flag = g.flag w.flag - 1 ∧ (∀ x ∈ ws, h.regs.readS x.1 = x.2)
      ∧ (∀ n, (∀ x ∈ ws, x.1 ≠ n) → h.regs.readS n = g.regs.readS n) ∧ h.regs.v = g.regs.v ∧ h.regs.p = g.regs.p
      ∧ OtherGroups s t gk ∧ SameBytes s t

/-- The trigger words (R386-R389). -/
def Obligations.TriggerWords : Prop := ArmAndPush ∧ ArmAndPushFaults ∧ DisarmAndRead ∧ TriggerCompletes

/-- Counting (R370, R371): an ARMED entry's unsent count of a slice leaves once it is 256 or 128 cycles old; where it arrives at an entry
that is still ARMED in its generation it is added, and the entry fires exactly when the count reaches the target; otherwise it is discarded. -/
def Sys2Proof.Claims.CountsTravel : Prop :=
  (∀ s slice e n first, Tab.find (s.trig e).unsent slice = some (n, first) → (s.trig e).state = 1 →
    (n < 256 → s.clock < first + 128 → exec (.countSend slice e) s = .next s)
    ∧ ((256 ≤ n ∨ first + 128 ≤ s.clock) → ∃ t, exec (.countSend slice e) s = .next t
        ∧ t.counts = s.counts ++ [{ entry := e, gen := (s.trig e).gen, bytes := n }]
        ∧ t.trig e = { s.trig e with unsent := Tab.del (s.trig e).unsent slice } ∧ SameBytes s t ∧ t.groups = s.groups))
  ∧ (∀ s k c, s.counts[k]? = some c →
    ∃ t, exec (.countArrive k) s = .next t ∧ t.counts = s.counts.eraseIdx k ∧ SameBytes s t ∧ t.groups = s.groups
      ∧ ((s.trig c.entry).state = 1 → (s.trig c.entry).gen = c.gen → (t.trig c.entry).count = (s.trig c.entry).count + c.bytes
          ∧ (t.trig c.entry).state = if (s.trig c.entry).target ≤ (s.trig c.entry).count + c.bytes then 2 else 1)
      ∧ (((s.trig c.entry).state ≠ 1 ∨ (s.trig c.entry).gen ≠ c.gen) → t.trigs = s.trigs))

/-- The entry after its action (R374-R376): FIRED, or FREE under the next generation where AUTOFREE or a DISARM asks for it. -/
def Sys2Proof.Claims.ActionOver (x y : Trig) : Prop :=
  (x.autofree = false → x.disarmed = false → y.state = 3 ∧ y.gen = x.gen)
    ∧ ((x.autofree = true ∨ x.disarmed = true) → y.state = 0 ∧ y.gen = (x.gen + 1) % 4096)

/-- The actions of a FIRING entry (R374-R376): a barrier add adds its addend to the barrier word, modulo its width; a task push
puts the record last in a bound queue of its tenant that has a slot, and leaves the entry FIRING where none is free; a user interrupt
becomes pending in the group that armed. Then the entry is FIRED or FREE. A FIRING entry of another action is not touched. -/
def Sys2Proof.Claims.ActionsRun : Prop :=
  (∀ s e x n, s.trig e = x → x.state = 2 → x.action = 1 → s.wakeFor x.tenant x.bar = none → s.plat.bad = [] →
    isStore x.bar = false → s.homeSlice (128 * (x.bar / 128)) = some n → (s.storeLine n (x.bar / 128)).isSome = true →
    x.bar % 8 = 0 → isStore (x.bar + 8) = false → Memory.wf s.mem = true → s.flipping x.bar = false → s.reached x.bar = true →
    (s.homeAdd x.tenant x.bar (if x.barw32 = true then 4 else 8) x.addend.toNat).stall = s.stall →
    ∃ t, exec (.barrierAddAction e) s = .next t ∧ ActionOver x (t.trig e) ∧ t.groups = s.groups
      ∧ t.readHomeNat x.bar (if x.barw32 = true then 4 else 8)
          = (s.readHomeNat x.bar (if x.barw32 = true then 4 else 8) + x.addend.toNat) % 2 ^ (if x.barw32 = true then 32 else 64)
      ∧ ∀ a, ¬ (x.bar ≤ a ∧ a < x.bar + (if x.barw32 = true then 4 else 8)) → Memory.read t.mem a = Memory.read s.mem a)
  ∧ (∀ i s e x, (i = .taskPushAction e ∨ i = .deferredPush e) → s.trig e = x → x.state = 2 → x.action = 2 →
    (s.taskq x.queue).bound = true → (s.taskq x.queue).tenant = x.tenant →
    ((s.taskq x.queue).full = true → exec i s = .next s)
    ∧ ((s.taskq x.queue).full = false → (s.pushTask x.queue x.record).stall = s.stall → ∃ t, exec i s = .next t ∧ ActionOver x (t.trig e)
        ∧ (t.taskq x.queue).tail = (s.taskq x.queue).tail + 1
        ∧ (t.taskq x.queue).recs.map (fun y => y.2.2) = (s.taskq x.queue).recs.map (fun y => y.2.2) ++ [x.record]))
  ∧ (∀ s e x uid gk g, s.trig e = x → x.state = 2 → x.action = 3 → x.ui = .group uid → s.group gk = some g → g.uid = uid →
    (∀ y ∈ s.held, ∀ z ∈ y.groups, z.uid ≠ uid) → g.trap.uipend = false →
    ∃ t h, exec (.userInterruptAction e) s = .next t ∧ ActionOver x (t.trig e) ∧ t.group gk = some h ∧ h.trap.uipend = true
      ∧ h.trap.uisrc = BitVec.ofNat 32 ((0x200000 + e) % 2 ^ 24) ∧ h.regs = g.regs ∧ h.frags = g.frags ∧ SameBytes s t)
  ∧ (∀ i s e, (i = .barrierAddAction e ∧ (s.trig e).action ≠ 1 ∨ (i = .taskPushAction e ∨ i = .deferredPush e) ∧ (s.trig e).action ≠ 2
      ∨ i = .userInterruptAction e ∧ (s.trig e).action ≠ 3 ∨ (i = .barrierAddAction e ∨ i = .taskPushAction e ∨ i = .deferredPush e
        ∨ i = .userInterruptAction e) ∧ (s.trig e).state ≠ 2) → exec i s = .next s)

/-- TASK_DISPATCH (R382, R383): with no task to re-enter and one record at the heads of the die's queues, the record leaves its queue; one
whose code object is a task's is placed as a group on the chosen core with its arguments in scalars, in the queue's tenant; one whose object
is no task's is refused, and places no group. -/
def Sys2Proof.Claims.TasksDispatched : Prop :=
  ∀ s die h s1 s2 r, s.heldTasks die = [] → s.heads die = [h] → s.queuedTask (s.taskq h.queue) h.slot h.bytes = (s1, h.bytes) →
    s1.readObj (s.taskq h.queue).tenant (s.taskq h.queue).asid (BitVec.ofNat 64 (fieldAt h.bytes 0 8)) = (s2, r) →
    (∀ o c gk, r = .ok o → o.kind = 1 → s2.stall = s.stall → s2.leastCore (s2.partCores (s.taskq h.queue).part)
        (s2.taskFits (8 * o.vbudget)) = some c → s2.freeSlot c = some gk →
      ∃ t g, exec (.taskDispatch die) s = .next t ∧ t.group gk = some g ∧ OtherGroups s2 t gk
        ∧ (t.taskq h.queue).recs = (s2.taskq h.queue).recs.drop 1
        ∧ g.tenant = (s.taskq h.queue).tenant ∧ g.asid = (s.taskq h.queue).asid ∧ g.part = (s.taskq h.queue).part
        ∧ g.budget = 8 * o.vbudget ∧ g.trap.hvec = (s.taskq h.queue).hvec
        ∧ (∀ k < o.nargs, o.nargs ≤ 125 → g.regs.readS k = BitVec.ofNat 32 (fieldAt h.bytes (8 + 4 * k) 4))
        ∧ ∃ f, g.frags = [f] ∧ f.hdr = fieldAt h.bytes 0 8 + o.entry ∧ f.word = 0 ∧ f.members = allLanes ∧ f.mask = allLanes)
    ∧ ((∀ o, r = .ok o → o.kind ≠ 1) → ∃ t, exec (.taskDispatch die) s = .next t ∧ t.groups = s2.groups)

/-- What the trigger engine and the task dispatchers do of themselves (R370-R383). -/
def Obligations.TriggerEvents : Prop := CountsTravel ∧ ActionsRun ∧ TasksDispatched

/-! ## Slalom mode and the leap unit (12) -/

/-- LEAP (R403, R416): in a slalom group at level 0 whose live lanes all take one target inside a segment, with a sound live set, the
fragment is replaced by one, with the same lanes, that is due to depart to the target; no register changes. In a group of another kind an
Enabled lane raises SEGEXIT with code 4; a misaligned target raises ILLEGAL. -/
def Sys2Proof.Claims.LeapWords : Prop :=
  ∀ i o tgt, (i = .leap o ∧ tgt = offTarget o ∨ i = .leapReg o ∧ tgt = fun g f l => opB g f o .zext 2 l) → ∀ s gk g f, AtIssue i s gk g f →
    let live := (List.range 4).map fun k => readS g f (o.a.idx.toNat + k)
    ((∃ l ∈ laneList (enabled g f o.guard), tgt g f l % 8 ≠ 0) → exec i s = .next (takeTrap s gk g f [plainCause 0]))
    ∧ ((∀ l ∈ laneList (enabled g f o.guard), tgt g f l % 8 = 0) → enabled g f o.guard ≠ 0 → (∀ n, g.unit ≠ .slalom n) →
        exec i s = .next (takeTrap s gk g f [(15, { eaddr := 0, detail := 4 })]))
    ∧ (∀ n gr a, g.unit = .slalom n → s.grid n = some gr → (∀ l ∈ laneList (enabled g f o.guard), tgt g f l = a) → a % 8 = 0 →
        (gr.segOf a).isSome = true → liveOk live gr.launchBudget = true → g.trap.plevel = 0 → g.trap.uiact = false → f.members ≠ 0 →
        enabled g f o.guard = liveLanes f → (∀ k < 24, f.members &&& sliceLanes k ≠ 0 → liveLanes f &&& sliceLanes k ≠ 0) →
        ∃ t h x, exec i s = .next t ∧ t.group gk = some h ∧ h.frags = (g.frags.filter fun y => y.id != f.id) ++ [x]
          ∧ x.members = f.members ∧ x.mask = f.mask &&& f.members ∧ x.wait = .depart a (some live) ∧ x.hdr = a
          ∧ h.deferred = g.deferred ∧ h.regs = g.regs ∧ h.exited = g.exited ∧ OtherGroups s t gk ∧ SameBytes s t)

/-- What is left of a SEND once a consumer is served, with status `st`: with none left its status is written and it is
complete; otherwise it stays outstanding towards the rest. -/
def Sys2Proof.Claims.SendGoesOn (g h : Group) (w : Op) (d : Nat) (rest : List Nat) (k : Nat → OpKind) (st : Nat) : Prop :=
  (rest = [] → h.regs.readS d = BitVec.ofNat 32 st ∧ h.flag w.flag = g.flag w.flag - 1 ∧ ∀ y ∈ h.ops, y.id ≠ w.id)
  ∧ (rest ≠ [] → h.regs = g.regs ∧ h.flags = g.flags ∧ h.op w.id = some { w with kind := k st })

/-- SEND and SEGREP (R148, R417-R420): a descriptor that breaks its table answers FFFFFFFFH; a pointer that is not a multiple of 4 or
may not be read faults; a good one, with its payload readable, is outstanding towards the cores of LMASK and of RMASK, one named
twice counting once; its payload is read once; a consumer whose ring has a free slot takes the message at TAIL, which moves on, and one
without a sound ring refuses it with its status bit; after the last consumer the status is written. SEGREP is outstanding until
the map answers it: at status 0 the core leaves its segment's list, to be repinned. -/
def Sys2Proof.Claims.SendAndSegrep : Prop :=
  (∀ o s gk g f n, AtIssue (.send o) s gk g f → enabled g f o.guard ≠ 0 → selFlag f o.fs = some n → g.flag n < 63 →
    let h0 := g.issuing f (.send o)
    let w0 := readS g f o.c.toNat
    let w1 := readS g f (o.c.toNat + 1)
    let p := readS64 g f o.a.idx.toNat
    let r := s.sendSpan (coreOf gk) h0 p (bits w0 8 0)
    (sendOk w0 w1 = false → ∃ t, exec (.send o) s = .next t ∧ SameBytes s t
      ∧ Begins s t gk h0 f n (.scalars (scalarsAt o.d.toNat [0xFFFFFFFF]) false))
    ∧ (sendOk w0 w1 = true → r.1.stall = s.stall →
      (∀ e, r.2 = .error e → exec (.send o) s = .next (takeTrap r.1 gk ((r.1.group gk).getD h0) f
          (ptrCause e.2 e.1 :: (if p.toNat % 4 = 0 then [] else [(3, { eaddr := p, detail := 0 })]))))
      ∧ (∀ as, r.2 = .ok as → p.toNat % 4 ≠ 0 → exec (.send o) s = .next (takeTrap r.1 gk ((r.1.group gk).getD h0) f
          [(3, { eaddr := p, detail := 0 })])))
    ∧ (∀ s1 as, sendOk w0 w1 = true → p.toNat % 4 = 0 → r = (s1, .ok as) → s1.stall = s.stall →
      ∃ t todo, exec (.send o) s = .next t ∧ Begins s t gk h0 f n (.send o.d.toNat todo (bits w1 17 0) (bits w0 8 0)
          p (tagOf p == 3 || tagOf p == 4) (runsOf as) none 0)
        ∧ let loc (x : Nat) : Prop := ∃ k < 4, w0.getLsbD (9 + k) = true ∧ x = coreOf gk / 4 * 4 + k
          ∀ y, y ∈ todo ↔ loc y ∨ w0.getLsbD 13 = true ∧ ∃ k < 4, w0.getLsbD (20 + k) = true
            ∧ y = remote + (4 * s1.mapCluster h0 (12 * bits w0 15 14 + bits w0 19 16) + k) ∧ ¬ loc (y - remote)))
  ∧ (∀ s gk op g w d todo off len src scr runs st c, s.group gk = some g → g.op op = some w →
    w.kind = .send d todo off len src scr runs none st → ((g.opsBefore op).all fun e => e.kind.performed) = true →
    SoundMemory s → NoPeerLines s → s.dirtyLines (coreOf gk) g.asid = [] →
    (scr = true → ∀ a ∈ runAddrs runs, s.guarded a = false) →
    (scr = false → s.wakeAny g.tenant (runAddrs runs) = none ∧ (s.engineReads g.tenant (runAddrs runs)).stall = s.stall
      ∧ ∀ a ∈ runAddrs runs, isStore a = true ∨ tierOf a ≠ 2) →
    ∃ t h, exec (.sendDeliver gk op c) s = .next t ∧ t.group gk = some h ∧ h.regs = g.regs ∧ h.flags = g.flags
      ∧ (h.op op).map (fun y => y.kind) = some (.send d todo off len src scr runs
          (some ((runAddrs runs).map fun a => if scr = true then Memory.read s.scratch a else s.readHome a)) st)
      ∧ OtherGroups s t gk ∧ SameBytes s t)
  ∧ (∀ s gk op g w d todo off len src scr runs p st c y, s.group gk = some g → g.op op = some w →
    w.kind = .send d todo off len src scr runs (some p) st → c < 192 → (todo.find? fun z => consCore z == c) = some y →
    (y = c ∨ y = remote + c) →
    (∀ e ∈ g.opsBefore op, ∀ d' l' o' n' a' b' r' q' u', e.kind = .send d' l' o' n' a' b' r' q' u' → o' = off → ∀ z ∈ l', consCore z ≠ c) →
    d < 125 → Tab.wf g.flags = true → Memory.wf s.scratch = true → w.spoil = false →
    let rest := todo.filter fun z => z != y
    let next (st' : Nat) : OpKind := .send d rest off len src scr runs (some p) st'
    (s.ringSlots g c off = none →
      ∃ t h, exec (.sendDeliver gk op c) s = .next t ∧ t.group gk = some h ∧ OtherGroups s t gk ∧ SameBytes s t
        ∧ SendGoesOn g h w d rest next (st + if y = c then 2 ^ (c % 4) else 2 ^ (4 + c % 4)))
    ∧ (∀ n, s.ringSlots g c off = some n →
      let key := scratchKey (c / 4) (c % 4 * 2 ^ 18 + off)
      let tail := leNat (s.bankRead key 4)
      let slot := key + 64 + 288 * (tail % n)
      (n ≤ (tail + 2 ^ 32 - leNat (s.bankRead (key + 4) 4)) % 2 ^ 32 → exec (.sendDeliver gk op c) s = .next s)
      ∧ ((tail + 2 ^ 32 - leNat (s.bankRead (key + 4) 4)) % 2 ^ 32 < n → p.length ≤ 256 →
        (∀ a, key ≤ a → a < key + 64 + 288 * n → s.guarded a = false ∧ s.ringWord a = false) →
        (∀ x ∈ s.sendRings, x.2 = false ∧ (x.1 + 4 ≤ key + 64 ∨ key + 64 + 288 * n ≤ x.1)) →
        ∃ t h, exec (.sendDeliver gk op c) s = .next t ∧ t.group gk = some h ∧ SendGoesOn g h w d rest next st
          ∧ leNat (t.bankRead key 4) = (tail + 1) % 2 ^ 32 ∧ leNat (t.bankRead slot 4) = p.length
          ∧ leNat (t.bankRead (slot + 4) 4) = (coreOf gk + 256 * (gk % 32)) % 2 ^ 32 ∧ leNat (t.bankRead (slot + 8) 4) = tail
          ∧ (∀ j (hj : j < p.length), Memory.read t.scratch (slot + 32 + j) = p[j]) ∧ OtherGroups s t gk)))
  ∧ (∀ o s gk g f n m, AtIssue (.segrep o) s gk g f → enabled g f o.guard ≠ 0 → selFlag f o.fs = some n → g.flag n < 63 →
    g.unit = .slalom m →
    ∃ t, exec (.segrep o) s = .next t ∧ SameBytes s t ∧ Begins s t gk (g.issuing f (.segrep o)) f n
      (.segrep o.d.toNat (readS g f o.a.idx.toNat).toNat (opB (g.issuing f (.segrep o)) f o .zext 1 0)))
  ∧ (∀ s gk op g w d seg c m gr, s.group gk = some g → g.op op = some w → w.kind = .segrep d seg c → g.unit = .slalom m →
    s.grid m = some gr → d < 125 → Tab.wf g.flags = true → w.spoil = false → s.gridStopped m = false →
    ∃ t h, exec (.segrepComplete gk op) s = .next t ∧ t.group gk = some h ∧ h.flag w.flag = g.flag w.flag - 1
      ∧ h.regs.readS d = BitVec.ofNat 32 (s.segrepStatus gr seg c) ∧ (∀ y ∈ h.ops, y.id ≠ op)
      ∧ (s.segrepStatus gr seg c ≠ 0 → t.grids = s.grids ∧ t.cores = s.cores)
      ∧ (s.segrepStatus gr seg c = 0 → (t.leap c).bind (fun l => l.repin) = some seg
          ∧ ∀ gr' x y, t.grid m = some gr' → gr'.slalom = some x → y ∈ x.segs → c ∉ y.cores)
      ∧ OtherGroups s t gk ∧ SameBytes s t)

/-- The slalom instructions (R401-R420). -/
def Obligations.SlalomWords : Prop := LeapWords ∧ SendAndSegrep

/-- A leap unit of a core with its grid, in a slalom grid that has not stopped, that no debugger has halted, and that has no
spill ring. -/
structure Sys2Proof.Claims.LeapUnit (s : State) (core : Nat) (l : LeapSt) (gr : Grid) : Prop where
  leap : s.leap core = some l
  grid : s.grid l.grid = some gr
  runs : s.gridStopped l.grid = false
  live : s.unitHalted (.slalom l.grid) = false
  noSpill : gr.spill = none

/-- A fragment is due to depart to `target` with the live set `live` (R401): by a LEAP, or, where `imp` says so, because it stands
outside its segment, with the segment's exit live set. -/
def Sys2Proof.Claims.DueTo (s : State) (gk : Nat) (g : Group) (f : Frag) (target : Nat) (live : List W32) (imp : Bool) : Prop :=
  (imp = false ∧ f.wait = .depart target (some live))
  ∨ (imp = true ∧ (f.wait = .depart target none ∨ (∀ t l, f.wait ≠ .depart t l) ∧ target = f.addr
      ∧ s.inSegment (coreOf gk) g f.addr = false) ∧ live = ((s.pinned (coreOf gk)).map fun x => x.2.live).getD [])

/-- DEPARTURE (R401-R405): a fragment due to depart, in a group that has nothing outstanding, leaves for the core that Choose gives, whose
queue has room: its lanes have left the group, and the record is last in that queue, with its lanes, its target and its live set. While a
flag of the group is up nothing happens. An implicit departure sets SR.EPC to its target, and raises SEGEXIT for a target in no
segment, a live set that breaks R398, and a group at level 1 or in a user interrupt, the lowest code first. -/
def Sys2Proof.Claims.FragmentsDepart : Prop :=
  ∀ s gk g f n gr target live imp, s.group gk = some g → g.unit = .slalom n → g.frag f.id = some f → s.grid n = some gr →
    DueTo s gk g f target live imp → s.stopped g = false → f.free = true → gr.spill = none →
    ((∃ m < 12, g.flag m ≠ 0) → exec (.departure gk f.id) s = .next s)
    ∧ (g.ops = [] → (∀ m < 12, g.flag m = 0) → g.flagErr = [] → imp = true →
      let code (d : Nat) (ea : W64) : State := takeTrap s gk g { f with wait := .none } [(15, { eaddr := ea, detail := d })]
      (gr.segOf target = none → exec (.departure gk f.id) s = .next (code 1 (BitVec.ofNat 64 target)))
      ∧ (gr.segOf target ≠ none → liveOk live gr.launchBudget = false → exec (.departure gk f.id) s = .next (code 2 0))
      ∧ (gr.segOf target ≠ none → liveOk live gr.launchBudget = true → (g.trap.plevel ≠ 0 ∨ g.trap.uiact = true) →
          exec (.departure gk f.id) s = .next (code 3 0)))
    ∧ ∀ k c lc, g.ops = [] → (∀ m < 12, g.flag m = 0) → gr.segOf target = some k → s.dirtyLines (coreOf gk) g.asid = [] →
      (imp = true → liveOk live gr.launchBudget = true ∧ g.trap.plevel = 0 ∧ g.trap.uiact = false) →
      s.chooseCore gr (coreOf gk) k g.lin [] = some c → s.leap c = some lc → lc.qcount < 8 →
      ∃ t h l', exec (.departure gk f.id) s = .next t ∧ t.group gk = some h ∧ h.exited = g.exited ||| f.members
        ∧ ((∀ x ∈ g.frags, x.id < g.nextFrag) → h.frag f.id = none) ∧ (∀ x ∈ g.frags, x.id ≠ f.id → x ∈ h.frags)
        ∧ h.regs = g.regs ∧ h.trap.epc = (if imp = true then BitVec.ofNat 64 target else g.trap.epc)
        ∧ t.leap c = some l' ∧ l'.qcount = lc.qcount + 1 ∧ l'.qhead = lc.qhead ∧ OtherGroups s t gk
        ∧ (let key := queueKey c ((lc.qhead + lc.qcount) % 8)
          (∀ a, key ≤ a → a < key + 256 → s.guarded a = false ∧ s.ringWord a = false) → Memory.wf s.scratch = true →
          s.sendRings = [] → target < 2 ^ 64 → g.lin < 2 ^ 32 → k < 2 ^ 16 → coreOf gk < 192 → live.length = 4 →
          let r := recOf (t.queued c l' lc.qcount)
          r.pc = target ∧ r.gid = g.lin ∧ r.seg = k ∧ r.members = f.members ∧ r.active = liveLanes f ∧ r.src = coreOf gk
            ∧ r.live = live)

/-- RECORD_FORWARD and ARRIVAL_ADMIT (R408-R410): a queued record whose core does not serve its segment moves to the queue of another core
that Choose gives and that has room; a head record of the segment that its core serves becomes a group, where a slot and registers are free, with the
record's lanes at its PC, its GID, its predicates and its trap registers; without room it stays. That a queue left empty
starts again at slot 0 is the model's reading of the image of R427 (log 46). -/
def Sys2Proof.Claims.RecordsArrive : Prop :=
  (∀ s core k l gr c lc, LeapUnit s core l gr → k < l.qcount → l.serves (recOf (s.queued core l k)).seg = false → c ≠ core →
    s.chooseCore gr core (recOf (s.queued core l k)).seg (recOf (s.queued core l k)).gid
      (core :: Tab.get [] l.fwd ((l.qhead + k) % 8)) = some c → s.leap c = some lc → lc.qcount < 8 →
    ∃ t l' lc', exec (.recordForward core k) s = .next t ∧ t.leap core = some l' ∧ l'.qcount = l.qcount - 1
      ∧ t.leap c = some lc' ∧ lc'.qcount = lc.qcount + 1 ∧ t.groups = s.groups)
  ∧ (∀ s core l gr gk, LeapUnit s core l gr → 0 < l.qcount → s.freeSlot core = some gk →
    let r := recOf (s.queued core l 0)
    let bs := s.queued core l 0
    let launch := r.src.testBit 8
    let room := if launch = true then 2 ≤ s.freeSlots core ∧ 2 * gr.launchBudget ≤ s.freeRegs core ∧ s.heldForReturn core = false
      else gr.launchBudget ≤ s.freeRegs core ∧ 1 ≤ s.freeSlots core
    ((l.serves r.seg = false ∨ ¬ room) → exec (.arrivalAdmit core) s = .next s)
    ∧ (l.serves r.seg = true → room →
      ∃ t g f l', exec (.arrivalAdmit core) s = .next t ∧ t.group gk = some g ∧ g.unit = .slalom l.grid ∧ g.lin = r.gid
        ∧ g.budget = gr.launchBudget ∧ g.tenant = gr.tenant ∧ g.asid = gr.asid ∧ g.frags = [f] ∧ f.hdr = r.pc ∧ f.word = 0
        ∧ f.members = r.members ∧ f.mask = r.active &&& r.members ∧ g.exited = ~~~ r.members
        ∧ (∀ n < 7, g.regs.readP n = BitVec.ofNat 96 (fieldAt bs (0x30 + 16 * n) 12))
        ∧ g.trap.cause = BitVec.ofNat 32 (fieldAt bs 0xB0 4) ∧ g.trap.tmask = BitVec.ofNat 32 (fieldAt bs 0xAC 4)
        ∧ g.trap.hvec = BitVec.ofNat 64 (fieldAt bs 0xC0 8) ∧ g.trap.uivec = BitVec.ofNat 64 (fieldAt bs 0xB8 8)
        ∧ g.fpmode = BitVec.ofNat 32 (fieldAt bs 0xA0 4) ∧ g.fpflags = BitVec.ofNat 32 (fieldAt bs 0xA4 4)
        ∧ t.leap core = some l' ∧ l'.qcount = l.qcount - 1
        ∧ l'.qhead = (if l.qcount ≤ 1 then 0 else (l.qhead + 1) % 8) ∧ OtherGroups s t gk ∧ SameBytes s t))

/-- The other events of a slalom grid (R395, R407, R420): the next launch record goes into the queue of a core of the entry's segment that has room; a
depth hint reaches every leap unit of the grid; a map update takes over the grid's map; an emptied core loads its new segment and joins
the segment's list. -/
def Sys2Proof.Claims.LeapUnitsWork : Prop :=
  (∀ s n gr x k c lc, s.grid n = some gr → gr.slalom = some x → s.gridStopped n = false → x.started = true →
    x.launchNext < gr.sx * gr.sy * gr.sz → gr.segOf (gr.code.toNat + gr.obj.entry) = some k →
    (gr.segCores k)[x.launchNext % (gr.segCores k).length]? = some c → s.leap c = some lc → lc.qcount < 8 →
    ∃ t lc', exec (.launchRecord n) s = .next t ∧ t.leap c = some lc' ∧ lc'.qcount = lc.qcount + 1
      ∧ ((t.grid n).bind fun y => y.slalom.map fun z => z.launchNext) = some (x.launchNext + 1) ∧ t.groups = s.groups)
  ∧ (∀ s core l gr c lc, s.leap core = some l → s.grid l.grid = some gr → c ∈ gr.cores → s.leap c = some lc →
    ∃ t lc', exec (.depthHint core) s = .next t ∧ t.leap c = some lc' ∧ Tab.get 0 lc'.hints core = s.depth gr core
      ∧ lc'.map = lc.map ∧ lc'.qcount = lc.qcount ∧ t.groups = s.groups ∧ SameBytes s t)
  ∧ (∀ s core l gr x, s.leap core = some l → s.grid l.grid = some gr → gr.slalom = some x →
    ∃ t, exec (.mapUpdate core) s = .next t ∧ t.leap core = some { l with map := x.segs.map fun z => z.cores }
      ∧ (∀ c, c ≠ core → t.leap c = s.leap c) ∧ t.groups = s.groups ∧ SameBytes s t)
  ∧ (∀ s core l gr x k y, s.leap core = some l → l.repin = some k → s.grid l.grid = some gr → gr.slalom = some x → x.segs[k]? = some y →
    s.gridStopped l.grid = false → s.groupsOn core = [] → s.depth gr core = 0 →
    ∃ t l' x' y', exec (.repinLoad core) s = .next t ∧ t.leap core = some l' ∧ l'.seg = some k ∧ l'.repin = none
      ∧ l'.store = x.segBytes k ∧ ((t.grid l.grid).bind fun z => z.slalom) = some x' ∧ x'.segs[k]? = some y'
      ∧ y'.cores = y.cores ++ [core] ∧ t.groups = s.groups ∧ SameBytes s t)

/-- What the leap units do of themselves (R395-R412, R420). -/
def Obligations.SlalomEvents : Prop := FragmentsDepart ∧ RecordsArrive ∧ LeapUnitsWork

/-! ## The cluster copy engine (09) -/

/-- The byte at a byte number of a copy: of a scratchpad, of the store or of memory. -/
def Sys2Proof.Claims.locRead (s : State) (a : Nat) : Byte := if isScratch a = true then Memory.read s.scratch (a - 2 ^ 62) else s.readHome a

/-- The payload commands that move rows (R301-R305), by CMD. -/
def Sys2Proof.Claims.rowWord (cl uid : Nat) : Nat → Option Instr
  | 1 => some (.copy cl uid)
  | 2 => some (.mcast cl uid)
  | 3 => some (.window cl uid)
  | 4 => some (.spx cl uid)
  | 5 => some (.gather cl uid)
  | 6 => some (.scatter cl uid)
  | 7 => some (.fill cl uid)
  | _ => none

/-- A command in flight that has started (R291, R315), with its team. -/
structure Sys2Proof.Claims.Copying (s : State) (cl uid : Nat) (c : CopyCmd) (x : Team) : Prop where
  cmd : Tab.find (s.cluster cl).copies uid = some c
  team : s.team c.tk = some x
  started : s.copyStarted cl uid c = true

/-- The source bytes of a row where its fields give them, and the byte numbers read. -/
def Sys2Proof.Claims.rowSource (s : State) (c : CopyCmd) (x : Team) (r : Nat) : State × Except CopyErr (List Nat) :=
  match c.rowSrc r with
  | .mem tag a n => s.copySpan c.tk x tag a n permR
  | _ => (s, .ok [])

/-- The bytes of a row as they are read. -/
def Sys2Proof.Claims.rowRead (s : State) (c : CopyCmd) (r : Nat) (src : List Nat) : List (Option Byte) :=
  match c.rowSrc r with
  | .lit bs => bs.map some
  | _ => (s.copyRead c src).1

/-- A row of COPY, MCAST, WINDOW, SPX, GATHER, SCATTER or FILL (R299-R305, R313, R319): a null index of a SCATTER is passed
over; a source or a destination that may not be reached aborts the command; otherwise the row's bytes, as its command forms
them from the bytes read, are at every place of its destinations, or are held for WHOLE_APPLY under WHOLE, no other byte has
changed, and the command goes on to its next row, or is delivered. The row's destinations are distinct, no row of the command
reads them, and it reads nothing that the command wrote; it stays off guard granules, engine words, the rings of SEND and the
pages of a bias change, no tenant has a spill ring, and no access must wait at its slice (log 40). -/
def Sys2Proof.Claims.RowsMove : Prop :=
  ∀ cl uid k i, rowWord cl uid k = some i → ∀ s c x r, Copying s cl uid c x → c.cmd = k → c.stage = .running r →
    let next := if r + 1 = c.rows then (if c.isWhole = true then CopyStage.whole else .delivered) else .running (r + 1)
    (c.rowSrc r = .skip → exec i s = .next (s.setCopy cl uid { c with stage := next }))
    ∧ (∀ s1 e, c.rowSrc r ≠ .skip → rowSource s c x r = (s1, .error e) → s1.stall = s.stall → exec i s = .next (s1.abortCopy cl uid c e))
    ∧ (∀ s1 s2 (src : List Nat) e, c.rowSrc r ≠ .skip → rowSource s c x r = (s1, .ok src) → s1.destSpans c.tk x (c.rowDests r) = (s2, .error e) →
        s2.stall = s.stall → exec i s = .next (s2.abortCopy cl uid c e))
    ∧ (∀ s1 s2 src dst (row : List Byte), c.rowSrc r ≠ .skip → rowSource s c x r = (s1, .ok src) →
        s1.destSpans c.tk x (c.rowDests r) = (s2, .ok dst) →
        s2.wakeAny x.tenant ((src ++ dst).filter fun a => !isScratch a) = none → SoundMemory s2 → NoPeerLines s2 →
        (∀ a ∈ src ++ dst, isStore a = true ∨ tierOf a ≠ 2) → dst.Nodup → (∀ a ∈ dst, a ∉ src ∧ a ∉ c.seen) → (∀ a ∈ src, a ∉ c.wrote) →
        (∀ a ∈ dst, isScratch a = true → s2.guarded (a - 2 ^ 62) = false ∧ s2.ringWord (a - 2 ^ 62) = false) →
        s2.sendRings = [] → NoSpill s2 → (∀ a ∈ dst, s2.flipping a = false) →
        let s3 := s2.engineReads x.tenant (src.filter fun a => !isScratch a)
        s3.stall = s.stall → (∀ a ∈ dst, a ∉ s3.laterSrc x c r) →
        c.rowOut (rowRead s2 c r src) = row.map some →
        ∃ t c', exec i s = .next t ∧ Tab.find (t.cluster cl).copies uid = some c' ∧ c'.stage = next ∧ c'.w0 = c.w0 ∧ t.groups = s2.groups
          ∧ (c.isWhole = true → SameBytes s2 t ∧ ∀ j a b, dst[j]? = some a → row[j % row.length]? = some b → (a, b) ∈ c'.held)
          ∧ (c.isWhole = false → (∀ j a b, dst[j]? = some a → row[j % row.length]? = some b → locRead t a = b)
              ∧ ∀ a, a ∉ dst → locRead t a = locRead s2 a))

/-- XPOSEQ and WHOLE_APPLY (R306, R314): XPOSEQ moves every element to its transposed place and is delivered, where no place
written is one read; WHOLE_APPLY writes every byte that the command holds, together, and is delivered. -/
def Sys2Proof.Claims.WholesMove : Prop :=
  (∀ s cl uid c x r, Copying s cl uid c x → c.cmd = 8 → c.stage = .running r → SoundMemory s → NoSpill s →
    let h : Machine.Shape := { es := 2 ^ c.esz, rows := c.rows, cols := c.rowBytes / 2 ^ c.esz, spitch := c.spitch, dpitch := c.dpitch }
    ∀ at_ : Nat × Nat → Nat × Nat, (∀ e ∈ h.elems, ∀ i < h.es,
        s.storeAt x.tenant ((h.elemPtrs c.w1 c.w2 e).1 + BitVec.ofNat 64 i) = .ok ((at_ e).1 + i)
        ∧ s.storeAt x.tenant ((h.elemPtrs c.w1 c.w2 e).2 + BitVec.ofNat 64 i) = .ok ((at_ e).2 + i)
        ∧ s.wakeFor x.tenant ((at_ e).1 + i) = none ∧ s.wakeFor x.tenant ((at_ e).2 + i) = none) →
      (∀ e ∈ h.elems, ∀ e' ∈ h.elems, ∀ i < h.es, ∀ j < h.es, (at_ e).2 + i ≠ (at_ e').1 + j
        ∧ (e ≠ e' → (at_ e).2 + i ≠ (at_ e').2 + j)) →
      ∃ t c', exec (.xposeq cl uid) s = .next t ∧ Tab.find (t.cluster cl).copies uid = some c' ∧ c'.stage = .delivered
        ∧ (∀ e ∈ h.elems, ∀ i < h.es, t.readHome ((at_ e).2 + i) = s.readHome ((at_ e).1 + i))
        ∧ (∀ a, (∀ e ∈ h.elems, ∀ i < h.es, a ≠ (at_ e).2 + i) → t.readHome a = s.readHome a) ∧ t.groups = s.groups)
  ∧ (∀ s cl uid c x, Tab.find (s.cluster cl).copies uid = some c → s.team c.tk = some x → c.stage = .whole → SoundMemory s →
    NoSpill s → (∀ w ∈ c.held, s.flipping w.1 = false) → NoPeerLines s → (∀ w ∈ c.held, isScratch w.1 = false ∧ (isStore w.1 = true ∨ tierOf w.1 ≠ 2)) →
    (c.held.map fun w => w.1).Nodup → s.wakeAny x.tenant (c.held.map fun w => w.1) = none →
    (∀ w ∈ c.held, isStore w.1 = true → ∀ die l, (s.layer die l).target ≠ 2) →
    ∃ t c', exec (.wholeApply cl uid) s = .next t ∧ Tab.find (t.cluster cl).copies uid = some c' ∧ c'.stage = .delivered ∧ c'.held = []
      ∧ (∀ w ∈ c.held, t.readHome w.1 = w.2) ∧ (∀ a, a ∉ c.held.map (fun w => w.1) → t.readHome a = s.readHome a)
      ∧ (∀ a, Memory.read t.scratch a = Memory.read s.scratch a) ∧ t.groups = s.groups)

/-- Completion (R307, R309-R312): a delivered command, a FENCE and a NOTIFY that have started, each finish with their actions: a counter
add raises the counter that CTRSEL names by the bytes counted, modulo 2^64; a value write stores the descriptor's value, at its offset
in the part of the team's core where DMASK is 0; a user interrupt becomes pending in the group that UIGRP names; with none of them, the
command ends and nothing else changes. -/
def Sys2Proof.Claims.CopiesComplete : Prop :=
  ∀ s cl uid c x i, Copying s cl uid c x → (i = .copyDelivered cl uid ∧ c.stage = .delivered ∨ i = .copyFence cl uid ∧ c.cmd = 9
      ∨ i = .notify cl uid ∧ c.cmd = 10) → Tab.wf (s.cluster cl).copies = true → SoundMemory s → s.sendRings = [] →
    (c.cmode = 0 → c.valueDesc = none → c.ui = false → exec i s = .next (s.endCopy cl uid))
    ∧ (∀ o, c.cmode = 1 → c.valueDesc = none → c.ui = false → x.ctable = some o →
        let k := teamKey c.tk x + o + 8 * c.ctrsel
        (∀ j < 8, s.guarded (k + j) = false ∧ s.ringWord (k + j) = false) →
        ∃ t, exec i s = .next t ∧ Tab.find (t.cluster cl).copies uid = none
          ∧ leNat (t.bankRead k 8) = (leNat (s.bankRead k 8) + c.counted) % 2 ^ 64
          ∧ (∀ a, ¬ (k ≤ a ∧ a < k + 8) → Memory.read t.scratch a = Memory.read s.scratch a) ∧ t.groups = s.groups)
    ∧ (∀ d, c.cmode = 2 → c.valueDesc = some d → c.ui = false → c.cores = [] →
        let k := scratchKey (c.tk / 8 / 4) (c.tk / 8 % 4 * 2 ^ 18 + bits d 49 32)
        (∀ j < 4, s.mayReach x.tenant (.team c.tk) (k + j) = true ∧ s.guarded (k + j) = false ∧ s.ringWord (k + j) = false) →
        ∃ t, exec i s = .next t ∧ Tab.find (t.cluster cl).copies uid = none ∧ leNat (t.bankRead k 4) = bits d 31 0
          ∧ (∀ a, ¬ (k ≤ a ∧ a < k + 4) → Memory.read t.scratch a = Memory.read s.scratch a) ∧ t.groups = s.groups)
    ∧ (∀ gk g, c.cmode = 0 → c.valueDesc = none → c.ui = true → s.group gk = some g → g.unit = .team c.tk → g.gnum = c.uigrp →
        (∀ y ∈ s.groups, y.2.unit = .team c.tk → y.2.gnum = c.uigrp → y.2 = g) →
        ∃ t h, exec i s = .next t ∧ Tab.find (t.cluster cl).copies uid = none ∧ t.group gk = some h ∧ h.trap.uipend = true
          ∧ (g.trap.uipend = false → h.trap.uisrc = BitVec.ofNat 32 (0x100000 + c.index % 65536)) ∧ h.regs = g.regs ∧ SameBytes s t)

/-- The ring (R290-R292, R318, R319): RING_NOTIFY, after a write to PROD's granule, takes over PROD, and more entries than the ring
has are a RING error; COPY_TAKE on a sound ring that has an entry, whose turn it is in the rotation, with a command to spare, raises CONS by 1 and puts the command in flight at its first row, or, where a
check refuses it, puts its number in ERRIDX and nothing in flight; with none it changes nothing. -/
def Sys2Proof.Claims.RingsRun : Prop :=
  (∀ s tk x r, s.team tk = some x → x.ring = some r →
    let p := BitVec.ofNat 32 (leNat (s.bankRead (teamKey tk x + r.off) 4))
    (r.touched = false → exec (.ringNotify tk) s = .next s)
    ∧ (r.touched = true → ∃ t y q, exec (.ringNotify tk) s = .next t ∧ t.team tk = some y ∧ y.ring = some q ∧ q.prod = p ∧ q.cons = r.cons ∧ q.touched = false
        ∧ (q.bad = true ↔ r.entries < (p - r.cons).toNat) ∧ (q.bad = true → q.erridx = r.cons) ∧ (q.bad = false → q.erridx = r.erridx)))
  ∧ (∀ s tk x r, s.team tk = some x → x.ring = some r →
    ((r.bad = true ∨ r.prod = r.cons ∨ s.teamStopped tk = true ∨ 4 ≤ (s.inFlight tk).length ∨ s.ringNext tk = false) →
      exec (.copyTake tk) s = .next s)
    ∧ (r.bad = false → r.prod ≠ r.cons → s.teamStopped tk = false → (s.inFlight tk).length < 4 →
        s.ringNext tk = true → (s.cluster (tk / 8 / 4)).copies.length < 16 →
        let c0 := copyOf tk r.cons.toNat (s.bankRead (entryKey tk x r r.cons.toNat) 32)
        ∀ s' z, s.shapeWait tk x c0 = none → s.takeChecks tk x c0 = (s', z) → s'.stall = s.stall → Memory.wf s'.scratch = true → s'.team tk = some x →
        ∃ t y q, exec (.copyTake tk) s = .next t ∧ t.team tk = some y ∧ y.ring = some q ∧ q.cons = r.cons + 1
          ∧ (t.cluster (tk / 8 / 4)).lastRing = tk % 32 ∧ leNat (t.bankRead (teamKey tk x + r.off + 8) 4) = (r.cons + 1).toNat
          ∧ (∀ e, z = .error e → q.erridx = r.cons ∧ (t.cluster (tk / 8 / 4)).copies = (s'.cluster (tk / 8 / 4)).copies
              ∧ leNat (t.bankRead (teamKey tk x + r.off + 12) 4) = r.cons.toNat)
          ∧ (∀ c, z = .ok c → q.erridx = r.erridx ∧ Tab.find (t.cluster (tk / 8 / 4)).copies s'.nextUid = some c
              ∧ c.stage = .running 0 ∧ c.index = r.cons.toNat ∧ t.groups = s'.groups)))

/-- The cluster copy engine (R288-R319). -/
def Obligations.CopyEngine : Prop := RowsMove ∧ WholesMove ∧ CopiesComplete ∧ RingsRun

/-! ## Units: retirement, completion, KillUnit, swapping and capture (03, 13) -/

/-- Every group with no fragment in WAITA is in `t` as it is in `s`. -/
def Sys2Proof.Claims.NoWaitaKept (s t : State) : Prop :=
  ∀ gk g, s.group gk = some g → (∀ f ∈ g.frags, ∀ m, f.wait ≠ .waita m) → t.group gk = some g

/-- GROUP_RETIRE, TEAM_COMPLETE and GRID_COMPLETE (R129, R102, R293, R447): a group with nothing left leaves its slot, and a team's group
gives its registers to its team's reserve; a team with no live group and its ring done ends, and its grid has one team fewer; a
grid with nothing left ends with its packets, and its cores are free; a group that does not wait in WAITA stays as it is (R155).
While anything is left, nothing changes. The accesses of the end need not wait (log 40). -/
def Sys2Proof.Claims.UnitsEnd : Prop :=
  (∀ s gk g, s.group gk = some g →
    (s.retired g = false → exec (.groupRetire gk) s = .next s)
    ∧ (s.retired g = true → Tab.wf s.groups = true → (groupRetire s gk).stall = s.stall →
        ∃ t, exec (.groupRetire gk) s = .next t ∧ t.group gk = none ∧ OtherGroups s t gk
          ∧ ∀ tk x, g.unit = .team tk → s.team tk = some x → ∃ y, t.team tk = some y ∧ y.live = x.live - 1
            ∧ y.reserve = x.reserve + g.budget / 8 ∧ y.base = x.base ∧ y.size = x.size ∧ y.linear = x.linear))
  ∧ (∀ s tk x, s.team tk = some x →
    ((x.live ≠ 0 ∨ s.ringDone tk x = false ∨ s.teamStopped tk = true) → exec (.teamComplete tk) s = .next s)
    ∧ (x.live = 0 → s.ringDone tk x = true → s.teamStopped tk = false → Tab.wf s.teams = true →
        (s.ownersFrom (teamComplete s tk)).stall = s.stall →
        ∃ t, exec (.teamComplete tk) s = .next t ∧ t.team tk = none ∧ (∀ k, k ≠ tk → t.team k = s.team k)
          ∧ (t.grid x.grid).map (fun g => g.live) = (s.grid x.grid).map (fun g => g.live - 1) ∧ NoWaitaKept s t))
  ∧ (∀ s n g, s.grid n = some g →
    (s.gridDone n g = false → exec (.gridComplete n) s = .next s)
    ∧ (s.gridDone n g = true → Tab.wf s.grids = true → (s.ownersFrom (gridComplete s n)).stall = s.stall →
        ∃ t, exec (.gridComplete n) s = .next t ∧ t.grid n = none ∧ (∀ k, k ≠ n → t.grid k = s.grid k)
          ∧ (∀ p ∈ t.packets, p ∈ s.packets ∧ p.grid ≠ some n) ∧ (∀ c ∈ g.cores, (t.core c).leap = none) ∧ NoWaitaKept s t))

/-- What a task's end writes (R384): the status word at its address. -/
def Sys2Proof.Claims.TaskStatusWritten : Prop :=
  ∀ (s s1 : State) t asid part core (x : TaskInfo) status add a, x.statAddr ≠ 0 → x.succ = 0 → s.locateFe t asid [0] permW x.statAddr = (s1, .ok a) →
    SoundMemory s1 → NoPeerLines s1 → NoSpill s1 → s1.fe.flip = none → isStore (a + 4) = false → tierOf (a / 128 * 128) ≠ 2 → a % 4 = 0 →
    leNat ((s.taskEnd t asid part core x status add).readHomeN a 4) = status % 2 ^ 32

/-- KILL_UNIT_DRAINED (R118): until the unit has drained, only its requests that are not accepted are withdrawn; then every group of the
unit is gone, wherever it was; a team's context is free, its grid has lost one team, and the unit is no longer due to end. The accesses
of the end need not wait (log 40); the last clause is of a time when no group waits in WAITA, which the pages' new owner may stop (R155). -/
def Sys2Proof.Claims.KilledUnitsEnd : Prop :=
  ∀ s i k, s.kills[i]? = some k →
    ((s.withdraw k.unit).drained k.unit = false → exec (.killUnitDrained i) s = .next (s.withdraw k.unit))
    ∧ ((s.withdraw k.unit).drained k.unit = true → (s.ownersFrom (killDrained s i)).stall = s.stall → ∃ t, exec (.killUnitDrained i) s = .next t
        ∧ (∀ x ∈ t.groups, x.2.unit ≠ k.unit) ∧ (∀ x ∈ t.swapped, x.group.unit ≠ k.unit)
        ∧ (∀ tk x, k.unit = .team tk → s.team tk = some x → Tab.wf s.teams = true → t.team tk = none
            ∧ (t.grid x.grid).map (fun g => (g.live, g.killed)) = (s.grid x.grid).map (fun g => (g.live - 1, g.killed + 1))
            ∧ (k.packet = none → (∀ c ∈ s.captures, c.unit ≠ k.unit) → (∀ y ∈ s.groups, ∀ f ∈ y.2.frags, ∀ m, f.wait ≠ .waita m) → t.kills = s.kills.eraseIdx i)))

/-- SWAP_OUT and SWAP_IN (R108, R109, R435): a group whose fragments all wait, one of them for longer than SR.SWAPT, with no flag and no
operation outstanding and room in its core's pool, leaves its slot for the pool with its registers as they are, its image in the
pool's bytes (its place there: log 37); one in the pool that is due takes the core's lowest free slot, all of it but its fragments' waits as it was saved
(R268's FENCED too: log 48).
The release action of swapping out need not wait (log 40). -/
def Sys2Proof.Claims.SwapsHappen : Prop :=
  (∀ s gk g, s.group gk = some g → s.stopped g = false → s.swappable gk g = true → g.uiDue = false → g.allFlagsClear = true → g.ops = [] →
    s.swapRoom (coreOf gk) g.budget = true → Tab.wf s.groups = true → Memory.wf s.mem = true → (swapOut s gk).stall = s.stall →
    ∃ t w, exec (.swapOut gk) s = .next t ∧ t.group gk = none ∧ OtherGroups s t gk ∧ t.swapped = s.swapped ++ [w] ∧ w.core = coreOf gk
      ∧ w.due = none ∧ w.group.uid = g.uid ∧ w.group.regs = g.regs ∧ w.group.trap = g.trap ∧ w.group.budget = g.budget
      ∧ w.group.frags.map (fun f => (f.id, f.hdr, f.word, f.members, f.mask)) = (g.frags.map fun f => (f.id, f.hdr, f.word, f.members, f.mask))
      ∧ s.swapPlace (coreOf gk) g.budget = some w.off
      ∧ ∀ (k : Nat) (b : Byte), (w.group.image s.clock)[k]? = some b →
          Memory.read t.mem (s.fe.saveBase.toNat + 2 ^ 23 * coreOf gk + 2 ^ 17 + w.off + k) = b)
  ∧ (∀ s core uid w gk, (s.swapped.find? fun x => x.group.uid == uid) = some w → s.freeSlot core = some gk →
    ((w.due = none ∨ s.stopped w.group = true ∨ s.mayReturn w core = false ∨ s.nextDue w = false ∨ s.fits core w.group.budget = false) →
      exec (.swapIn core uid) s = .next s)
    ∧ (w.due.isSome = true → s.stopped w.group = false → s.mayReturn w core = true → s.nextDue w = true → s.fits core w.group.budget = true →
      ∃ t h, exec (.swapIn core uid) s = .next t ∧ t.group gk = some h ∧ OtherGroups s t gk
        ∧ { h with frags := w.group.frags, draining := w.group.draining } = w.group ∧ h.draining = false
        ∧ h.frags.map (fun f => (f.id, f.hdr, f.word, f.members, f.mask)) = (w.group.frags.map fun f => (f.id, f.hdr, f.word, f.members, f.mask))
        ∧ (∀ x ∈ t.swapped, x ∈ s.swapped ∧ x.group.uid ≠ uid) ∧ SameBytes s t))

/-- PREEMPT_CAPTURE (R120, R422, R449): until its unit has drained, nothing changes; then every group of
the unit has left, a team's context and a slalom grid's cores are free, and the front end holds the unit with the address of its
image, ready to enter again unless it is parked. The accesses of the capture need not wait (log 40). -/
def Sys2Proof.Claims.UnitsCaptured : Prop :=
  ∀ s i c p, s.captures[i]? = some c → s.packet c.queue c.packet = some p → (∀ k ∈ s.kills, k.unit ≠ c.unit) →
    (s.drained c.unit = false → exec (.preemptCapture i) s = .next s)
    ∧ (∀ tk x, s.drained c.unit = true → c.unit = .team tk → s.team tk = some x → Tab.wf s.teams = true →
        (s.ownersFrom (preemptCapture s i)).stall = s.stall →
        ∃ t h, exec (.preemptCapture i) s = .next t ∧ (∀ y ∈ t.groups, y.2.unit ≠ c.unit) ∧ (∀ y ∈ t.swapped, y.group.unit ≠ c.unit)
          ∧ t.team tk = none ∧ t.captures = s.captures.eraseIdx i ∧ t.held = s.held ++ [h] ∧ h.grid = some x.grid ∧ h.unit = x.linear
          ∧ h.image = c.image ∧ h.first = c.first ∧ h.ready = (!c.park) ∧ h.tenant = x.tenant ∧ h.part = x.part ∧ h.begun = x.begun)
    ∧ (∀ uid m rest x, s.drained c.unit = true → c.unit = .task uid → s.members c.unit = m :: rest → m.g.task = some x →
        (s.ownersFrom (preemptCapture s i)).stall = s.stall →
        ∃ t h, exec (.preemptCapture i) s = .next t ∧ (∀ y ∈ t.groups, y.2.unit ≠ c.unit) ∧ (∀ y ∈ t.swapped, y.group.unit ≠ c.unit)
          ∧ t.captures = s.captures.eraseIdx i ∧ t.held = s.held ++ [h] ∧ h.grid = none ∧ h.unit = m.g.lin
          ∧ h.image = c.image ∧ h.first = c.first ∧ h.ready = (!c.park) ∧ h.tenant = m.g.tenant ∧ h.part = m.g.part)
    ∧ (∀ n gr x, s.drained c.unit = true → c.unit = .slalom n → s.grid n = some gr → gr.slalom = some x →
        (s.ownersFrom (preemptCapture s i)).stall = s.stall →
        ∃ t h, exec (.preemptCapture i) s = .next t ∧ (∀ y ∈ t.groups, y.2.unit ≠ c.unit) ∧ (∀ y ∈ t.swapped, y.group.unit ≠ c.unit)
          ∧ (∀ core ∈ x.cores, t.leap core = none) ∧ t.captures = s.captures.eraseIdx i ∧ t.held = s.held ++ [h] ∧ h.grid = some n
          ∧ h.image = c.image ∧ h.first = c.first ∧ h.ready = (!c.park) ∧ h.tenant = gr.tenant ∧ h.part = gr.part)

/-- Retirement and completion, KillUnit, swapping and capture (R108, R118, R120, R129). -/
def Obligations.UnitsComeAndGo : Prop := UnitsEnd ∧ TaskStatusWritten ∧ KilledUnitsEnd ∧ SwapsHappen ∧ UnitsCaptured

/-! ## Host queues and packets (13) -/

/-- A packet stands in flight, of a TYPE, and may begin (R41). -/
structure Sys2Proof.Claims.Beginning (s : State) (q k typ : Nat) (p : Packet) : Prop where
  packet : s.packet q k = some p
  typ : p.typ = typ
  begins : s.mayBegin p = true

/-- The state in which a packet has begun. -/
def Sys2Proof.Claims.begunIn (s : State) (q k : Nat) : State := s.updPacket q k fun x => { x with begun := true }

/-- A doorbell write and the taking of a packet (R442, R443): the tail is taken over where it keeps the ring's bounds, and the write
is discarded otherwise; the front end takes the 64 bytes at the head of the queue that arbitration names, and raises the head; a
well-formed packet is in flight with them, and a malformed one is not. Its accesses need not wait (log 40), and the packet is no peer's. -/
def Sys2Proof.Claims.PacketsTaken : Prop :=
  (∀ s q v, s.recovering = false →
    (((s.hostq q).valid = false ∨ (s.hostq q).entries < (v.toNat + 2 ^ 32 - (s.hostq q).head) % 2 ^ 32) → exec (.qtail q v) s = .next s)
    ∧ ((s.hostq q).valid = true → (v.toNat + 2 ^ 32 - (s.hostq q).head) % 2 ^ 32 ≤ (s.hostq q).entries →
        ∃ t, exec (.qtail q v) s = .next t ∧ t.hostq q = { s.hostq q with tail := v.toNat }
          ∧ (∀ n, n ≠ q → t.hostq n = s.hostq n) ∧ t.packets = s.packets ∧ t.groups = s.groups ∧ SameBytes s t))
  ∧ (∀ s, s.recovering = false → s.nextTake = none → exec .packetTake s = .next s)
  ∧ (∀ s c used q h, s.recovering = false → s.nextTake = some (c, used, q, h) → s.plat.bad = [] → NoPeerLines s →
    (∀ x ∈ s.packets, x.taken < s.nextUid) → (packetTake s).stall = s.stall →
    (∀ a ∈ busAddrs (h.ring + 64 * (h.head % h.entries)) 64, isStore a = false ∧ tierOf a ≠ 2) →
    let bs := (busAddrs (h.ring + 64 * (h.head % h.entries)) 64).map s.readHome
    ∃ t, exec .packetTake s = .next t ∧ (t.hostq q).head = (h.head + 1) % 2 ^ 32 ∧ (t.hostq q).tail = h.tail ∧ t.groups = s.groups
      ∧ (∀ y : Packet, y.bytes = bs →
          (y.ok = true → ∃ p, t.packets = s.packets ++ [p] ∧ p.bytes = bs ∧ p.queue = q ∧ p.index = h.head ∧ p.tenant = h.tenant
            ∧ p.asid = h.asid ∧ p.cls = h.cls ∧ p.begun = false)
          ∧ (y.ok = false → t.packets = s.packets)))

/-- The completion of a packet (R445): it leaves the packets in flight; where its CPL can be written, the completion word is there. -/
def Sys2Proof.Claims.PacketsComplete : Prop :=
  ∀ (s s1 : State) (p : Packet) status detail value a, p.cpl ≠ 0 → tagAligned p.cpl 8 = true →
    ({ s with packets := s.packets.filter fun x => x.taken != p.taken } : State).locateFe p.tenant p.asid [0] permW (BitVec.ofNat 64 p.cpl)
      = (s1, .ok a) → SoundMemory s1 → NoPeerLines s1 → NoSpill s1 → s1.fe.flip = none → isStore (a + 8) = false →
    tierOf (a / 128 * 128) ≠ 2 → a % 8 = 0 →
    (∀ x ∈ (s.completePacket p status detail value).packets, x ∈ s.packets ∧ x.taken ≠ p.taken)
    ∧ leNat ((s.completePacket p status detail value).readHomeN a 8) = cplWord p.typ status detail value % 2 ^ 64

/-- TASKBIND (R380, R446, R447): binding puts the packet's ring, slots, partition and handler into the queue, empty, and unbinding empties it of
all; a queue of another tenant, or one that holds records (DETAIL 1), a partition of another tenant (2), and a ring that R380 does not
allow (3) leave the queue as it is. Then the packet completes; its completion word need not wait (log 40). -/
def Sys2Proof.Claims.QueuesBound : Prop :=
  (∀ s q k p, Beginning s q k 2 p → p.unbinds = false →
    let tq := s.taskq p.taskQueue
    let x := s.partn (p.field 0x1E 1)
    let p' := { p with begun := true }
    (bindRun (begunIn s q k) p').stall = s.stall →
    ∃ t st d v, exec (.taskbind q k) s = .next (State.completePacket t p' st d v) ∧ v = p.tag ∧ t.groups = s.groups
      ∧ (∀ n, n ≠ p.taskQueue → t.taskq n = s.taskq n) ∧ (st = 3 ∧ t.taskq p.taskQueue = tq ∨ st = 0 ∧ d = 0)
      ∧ ((tq.bound = true ∧ (tq.tenant ≠ p.tenant ∨ tq.recs ≠ [])) → st = 3 ∧ d = 1)
      ∧ ((tq.bound = false ∨ tq.tenant = p.tenant ∧ tq.recs = []) → (x.valid = false ∨ x.tenant ≠ p.tenant) → st = 3 ∧ d = 2)
      ∧ ((tq.bound = false ∨ tq.tenant = p.tenant ∧ tq.recs = []) → x.valid = true → x.tenant = p.tenant →
          (tagAligned (p.field 0x10 8) 4096 = false ∨ powerIn (p.field 0x18 4) 16 65536 = false) → st = 3 ∧ d = 3)
      ∧ ((tq.bound = false ∨ tq.tenant = p.tenant ∧ tq.recs = []) → x.valid = true → x.tenant = p.tenant → tagAligned (p.field 0x10 8) 4096 = true →
          powerIn (p.field 0x18 4) 16 65536 = true → st = 0 ∧ (t.taskq p.taskQueue).bound = true ∧ (t.taskq p.taskQueue).tenant = p.tenant
            ∧ (t.taskq p.taskQueue).asid = p.asid ∧ (t.taskq p.taskQueue).part = p.field 0x1E 1
            ∧ (t.taskq p.taskQueue).ring.toNat = p.field 0x10 8 ∧ (t.taskq p.taskQueue).slots = p.field 0x18 4
            ∧ (t.taskq p.taskQueue).hvec.toNat = p.field 0x20 8 ∧ (t.taskq p.taskQueue).recs = [] ∧ (t.taskq p.taskQueue).tail = 0))
  ∧ (∀ s q k p, Beginning s q k 2 p → p.unbinds = true →
    let tq := s.taskq p.taskQueue
    let p' := { p with begun := true }
    (unbindRun (begunIn s q k) p').stall = s.stall →
    ∃ t st d v, exec (.taskbindUnbind q k) s = .next (State.completePacket t p' st d v) ∧ v = p.tag ∧ t.groups = s.groups
      ∧ (∀ n, n ≠ p.taskQueue → t.taskq n = s.taskq n)
      ∧ ((tq.bound = true ∧ (tq.tenant ≠ p.tenant ∨ tq.recs ≠ [] ∨ s.targeted p.taskQueue = true)) →
          st = 3 ∧ d = 1 ∧ t.taskq p.taskQueue = tq)
      ∧ ((tq.bound = false ∨ tq.tenant = p.tenant ∧ tq.recs = [] ∧ s.targeted p.taskQueue = false) →
          st = 0 ∧ d = 0 ∧ t.taskq p.taskQueue = TaskQ.unbound))

/-- ARM (R447): its block is read and its pointers translated, then it arms as ARMAC does, and completes with the status, and the handle
where that is 0; a block or a range that does not translate is status 2, a BARPTR that does not is malformed, status 3 with
detail 5 (log 20). Its accesses need not wait (log 40). -/
def Sys2Proof.Claims.PacketArms : Prop :=
  ∀ s q k p, Beginning s q k 3 p →
    let p' := { p with begun := true }
    let rd := (begunIn s q k).readFe p.tenant p.asid [0] (BitVec.ofNat 64 (p.field 0x10 8)) 128
    (armRun (begunIn s q k) p').stall = s.stall →
    (∀ s1 e, rd = (s1, .error e) → exec (.arm q k) s = .next (s1.failPacket p' 2 0))
    ∧ (∀ s1 bs, rd = (s1, .ok bs) →
        let r := s1.armLocate (fun s tags need x => s.locateFe p.tenant p.asid tags need x) (armBlkOf bs)
        (r.2.range ≠ none → exec (.arm q k) s = .next (r.1.failPacket p' 2 0))
        ∧ (r.2.range = none → r.2.bar ≠ none → exec (.arm q k) s = .next (r.1.failPacket p' 3 5))
        ∧ (r.2.range = none → r.2.bar = none →
            ∃ s2 st hd, exec (.arm q k) s = .next (if st = 0 then State.completePacket s2 p' 0 0 hd else s2.failPacket p' 3 st)
              ∧ Arms r.1 s2 p.tenant (armBlkOf bs) r.2 true st hd ∧ (st ≠ 0 → s2 = r.1)))

/-- COPY (R447): a packet whose ranges and counter translate begins; then it moves the next bytes, up to an aligned 8-byte unit of its
destination, at a time; with all moved it adds its length to its counter, where it names one, and completes. Its accesses need not wait
(log 40), no page's bias changes, and no grid has a spill ring. -/
def Sys2Proof.Claims.PacketCopies : Prop :=
  (∀ s q k p s1 a s2 b s3 c, Beginning s q k 4 p →
    (begunIn s q k).segsBy (fun s tags _ x => s.locateFe p.tenant p.asid tags permR x) (BitVec.ofNat 64 (p.field 0x10 8)) p.copyLen = (s1, .ok a) →
    s1.segsBy (fun s tags _ x => s.locateFe p.tenant p.asid tags permW x) (BitVec.ofNat 64 (p.field 0x18 8)) p.copyLen = (s2, .ok b) →
    s2.copyCtr { p with begun := true } = (s3, .ok c) → s3.stall = s.stall → exec (.copyPacket q k) s = .next s3)
  ∧ (∀ s q k p s1 rd s2 wr, s.packet q k = some p → p.typ = 4 → p.begun = true →
    let n := min (8 - (p.field 0x18 8 + p.value) % 8) (p.copyLen - p.value)
    n ≠ 0 → s.spanFe p.tenant p.asid [0, 1] permR (BitVec.ofNat 64 (p.field 0x10 8 + p.value)) n = (s1, .ok rd) →
    s1.spanFe p.tenant p.asid [0, 1] permW (BitVec.ofNat 64 (p.field 0x18 8 + p.value)) n = (s2, .ok wr) →
    SoundMemory s2 → NoPeerLines s2 → NoSpill s2 → s2.fe.flip = none → (copyMove s p).stall = s.stall →
    (∀ a ∈ rd ++ wr, isStore a = true ∨ tierOf a ≠ 2) → wr.Nodup → rd.length = wr.length →
    ∃ t y, exec (.copyPacket q k) s = .next t ∧ t.packet q k = some y ∧ y.value = p.value + n ∧ y.bytes = p.bytes
      ∧ (∀ (i a b : Nat), rd[i]? = some a → wr[i]? = some b → t.readHome b = s2.readHome a) ∧ (∀ a, a ∉ wr → t.readHome a = s2.readHome a)
      ∧ t.groups = s2.groups)
  ∧ (∀ s q k p, s.packet q k = some p → p.typ = 4 → p.begun = true →
    (p.value ≠ p.copyLen → exec (.copyPacketDone q k) s = .next s)
    ∧ (p.value = p.copyLen → p.field 0x28 8 = 0 → (s.completePacket p 0 0 p.tag).stall = s.stall → exec (.copyPacketDone q k) s = .next (s.completePacket p 0 0 p.tag))
    ∧ (∀ s1 a, p.value = p.copyLen → s.copyCtr p = (s1, .ok (some a)) → SoundMemory s1 → NoPeerLines s1 → NoSpill s1 → s1.fe.flip = none →
        (copyPacketDone s q k).stall = s.stall → isStore (a + 8) = false →
        tierOf (a / 128 * 128) ≠ 2 → a % 8 = 0 →
        ∃ s2, exec (.copyPacketDone q k) s = .next (State.completePacket s2 p 0 0 p.tag)
          ∧ s2.readHomeNat a 8 = (s1.readHomeNat a 8 + p.copyLen) % 2 ^ 64))

/-- WAIT (R447): it begins where its address translates; it completes as soon as its word has reached VALUE, or with status 4 once its
limit has passed; until then nothing changes. Its accesses need not wait (log 40), and its word is no peer's. -/
def Sys2Proof.Claims.PacketWaits : Prop :=
  (∀ s q k p s1 a, Beginning s q k 5 p →
    (begunIn s q k).locateFe p.tenant p.asid [0, 1] permR (BitVec.ofNat 64 (p.field 0x10 8)) = (s1, .ok a) → s1.plat.bad = [] →
    NoPeerLines s1 → (∀ n < 8, isStore (a + n) = true ∨ tierOf (a + n) ≠ 2) →
    (waitBegin (begunIn s q k) { p with begun := true }).stall = s.stall →
    ∃ t, exec (.wait q k) s = .next t
      ∧ (p.field 0x18 8 ≤ s1.readHomeNat a 8 → ∀ x ∈ t.packets, x.taken ≠ p.taken)
      ∧ (s1.readHomeNat a 8 < p.field 0x18 8 → t.packet q k = some { p with begun := true, value := a, pending := s.clock }))
  ∧ (∀ s q k p, s.packet q k = some p → p.typ = 5 → p.begun = true → s.plat.bad = [] → NoPeerLines s →
    (∀ n < 8, isStore (p.value + n) = true ∨ tierOf (p.value + n) ≠ 2) →
    (s.readHomeNat p.value 8 < p.field 0x18 8 → ∃ t, exec (.waitSatisfied q k) s = .next t ∧ t.packets = s.packets ∧ t.groups = s.groups
        ∧ SameBytes s t)
    ∧ (p.field 0x18 8 ≤ s.readHomeNat p.value 8 → (waitTest s p).stall = s.stall → ∃ t, exec (.waitSatisfied q k) s = .next t ∧ ∀ x ∈ t.packets, x.taken ≠ p.taken))
  ∧ (∀ s q k p, s.packet q k = some p → p.typ = 5 → p.begun = true →
    ((p.limit = 0 ∨ s.clock < p.pending + 2250 * p.limit) → exec (.waitLimit q k) s = .next s)
    ∧ (p.limit ≠ 0 → p.pending + 2250 * p.limit ≤ s.clock → (s.completePacket p 4 0 p.tag).stall = s.stall →
        exec (.waitLimit q k) s = .next (s.completePacket p 4 0 p.tag)))

/-- SIGNAL (R447): it writes its value, in 8 bytes or in 4, or adds it to the 8 bytes at its address, or with address 0 does neither; then
its message is sent unless its vector is FFFFH, and it completes. Its accesses need not wait (log 40), no page's bias changes, and no
grid has a spill ring. -/
def Sys2Proof.Claims.PacketSignals : Prop :=
  ∀ s q k p, Beginning s q k 6 p →
    let p' := { p with begun := true }
    let op := p.field 0x20 2
    let n := if op = 2 then 4 else 8
    let msg (s : State) : State := if p.field 0x22 2 = 0xFFFF then s else { s with msix := s.msix ++ [p.field 0x22 2] }
    (signalRun (begunIn s q k) p').stall = s.stall →
    (p.field 0x10 8 = 0 → exec (.signal q k) s = .next ((msg (begunIn s q k)).completePacket p' 0 0 p.tag))
    ∧ (∀ s1 a, p.field 0x10 8 ≠ 0 → (begunIn s q k).locateFe p.tenant p.asid [0, 1] (if op = 1 then permR + permW else permW)
          (BitVec.ofNat 64 (p.field 0x10 8)) = (s1, .ok a) → SoundMemory s1 → NoPeerLines s1 → NoSpill s1 → s1.fe.flip = none →
        isStore (a + 8) = false → tierOf (a / 128 * 128) ≠ 2 → a % n = 0 →
        ∃ s2, exec (.signal q k) s = .next ((msg s2).completePacket p' 0 0 p.tag) ∧ s2.msix = s1.msix
          ∧ s2.readHomeNat a n = ((if op = 1 then s1.readHomeNat a 8 else 0) + p.field 0x18 8) % 2 ^ (8 * n)
          ∧ (∀ b, ¬ (a ≤ b ∧ b < a + n) → Memory.read s2.mem b = Memory.read s1.mem b) ∧ s2.groups = s1.groups)

/-- Host queues, and the packets that are not launches or pre-emptions (R442-R447). -/
def Obligations.HostPackets : Prop :=
  PacketsTaken ∧ PacketsComplete ∧ QueuesBound ∧ PacketArms ∧ PacketCopies ∧ PacketWaits ∧ PacketSignals

/-- LAUNCH of a team's code object (R446, R448): with an identity that no grid of the tenant has, an object that passes its checks, readable
arguments and a partition of the tenant, the grid joins the admission list with the packet's shape, code, handler and arguments, and
the packet is its own; a PLACE names cores of the partition for all its teams, or the launch is refused with detail 5; a PLACE
that its object's kind does not take is status 1, an identity in use is refused with status 3, detail 6, and an
object of the wrong form, or a task's, with detail 1 (where the last falls among the checks: log 38). Its accesses need not wait (log 40). -/
def Sys2Proof.Claims.GridsLaunched : Prop :=
  ∀ s q k p, Beginning s q k 1 p → p.resume = false →
    let s' := begunIn s q k
    let p' := { p with begun := true }
    (launchRun s' p').stall = s.stall →
    (s'.placeOk p' = false → exec (.launch q k) s = .next (s'.failPacket p' 1 0))
    ∧ (s'.placeOk p' = true → (p.tag = 0xFFFFFFFF ∨ (s.grids.any fun g => g.2.gridid == p.tag && g.2.tenant == p.tenant) = true) →
      exec (.launch q k) s = .next (s'.failPacket p' 3 6))
    ∧ (∀ s1 bs, s'.placeOk p' = true → p.tag ≠ 0xFFFFFFFF → (s.grids.any fun g => g.2.gridid == p.tag && g.2.tenant == p.tenant) = false →
        s'.readFe p.tenant p.asid [0] (BitVec.ofNat 64 (p.field 0x10 8)) 256 = (s1, .ok bs) →
        (objFormatOk (objOf bs) (objExtra bs) = false ∨ (objOf bs).kind = 1) → exec (.launch q k) s = .next (s1.failPacket p' 3 1))
    ∧ (∀ s1 bs s0 es o s2 args, s'.placeOk p' = true → p.tag ≠ 0xFFFFFFFF →
        (s.grids.any fun g => g.2.gridid == p.tag && g.2.tenant == p.tenant) = false →
        s'.readFe p.tenant p.asid [0] (BitVec.ofNat 64 (p.field 0x10 8)) 256 = (s1, .ok bs) → s1.launchForm p' bs = (s0, .ok es) →
        checkObj bs = .ok o → o.kind = 0 → s0.launchArgs p' = (s2, .ok args) →
        let total := p.shape.1 * p.shape.2.1 * p.shape.2.2
        (s2.partLaunch p.part p.tenant = false → exec (.launch q k) s = .next (s2.failPacket p' 3 4))
        ∧ (s2.partLaunch p.part p.tenant = true → p.place = true →
            (192 < total ∨ ∃ j < total, p.field 0x38 8 + j ∉ s2.partCores p.part) → exec (.launch q k) s = .next (s2.failPacket p' 3 5))
        ∧ (s2.partLaunch p.part p.tenant = true →
            (p.place = true → total ≤ 192 ∧ ∀ j < total, p.field 0x38 8 + j ∈ s2.partCores p.part) →
            ∃ t g y, exec (.launch q k) s = .next t ∧ t.grid s2.nextUid = some g ∧ (∀ n, n ≠ s2.nextUid → t.grid n = s2.grid n)
              ∧ t.packet q k = some y ∧ y.grid = some s2.nextUid ∧ g.gridid = p.tag ∧ g.tenant = p.tenant ∧ g.asid = p.asid
              ∧ g.part = p.part ∧ g.cls = p.cls ∧ g.code.toNat = p.field 0x10 8 ∧ g.obj = o ∧ (g.sx, g.sy, g.sz) = p.shape
              ∧ g.place = (if p.place = true then some (p.field 0x38 8) else none)
              ∧ g.args = args ∧ g.hvec.toNat = p.field 0x30 8 ∧ g.nextTeam = 0 ∧ g.live = 0 ∧ g.slalom = none ∧ t.groups = s2.groups))

/-- LAUNCH of a slalom's code object (R393-R397, R448): with its text readable, a core map that is well formed, segments whose cores
are distinct and of the partition and a spill ring that is sound, in a partition of the tenant, the grid joins the list with the table's
segments on the map's cores, no launch record made; otherwise it is refused: details 7, 3 and 4, and status 2 for bytes that cannot be
read. -/
def Sys2Proof.Claims.SlalomLaunched : Prop :=
  ∀ s q k p s1 bs s0 es o s2 args s3 text, Beginning s q k 1 p → p.resume = false →
    let s' := begunIn s q k
    let p' := { p with begun := true }
    (launchRun s' p').stall = s.stall → s'.placeOk p' = true → p.tag ≠ 0xFFFFFFFF →
    (s.grids.any fun g => g.2.gridid == p.tag && g.2.tenant == p.tenant) = false →
    s'.readFe p.tenant p.asid [0] (BitVec.ofNat 64 (p.field 0x10 8)) 256 = (s1, .ok bs) → s1.launchForm p' bs = (s0, .ok es) →
    checkObj bs = .ok o → o.kind = 2 → s0.launchArgs p' = (s2, .ok args) →
    s2.readFe p.tenant p.asid [0] (BitVec.ofNat 64 (p.field 0x10 8 + o.textOff)) o.textSize = (s3, text) →
    let olds := ((es.map segOfBytes).flatMap fun y => y.cores).eraseDups
    let segs := es.map fun e => { segOfBytes e with cores := (segOfBytes e).cores.map (mapCore p'.mapArg.list) }
    let shaped : Prop := s3.segShapeOk p.tenant p.part o es segs (BitVec.ofNat 64 (p.field 0x28 8)) = true
    let mapRead : Prop := p.field 0x38 8 = 0 ∨ p.map ≠ none
    let mapGood : Prop := s3.mapArgOk p.part olds p'.mapArg = true
    ((∃ e, text = .error e) → exec (.launch q k) s = .next (s3.failPacket p' 2 0))
    ∧ (∀ tx, text = .ok tx →
      (¬ mapRead → exec (.launch q k) s = .next (s3.failPacket p' 2 0))
      ∧ (mapRead → ¬ mapGood → exec (.launch q k) s = .next (s3.failPacket p' 3 7))
      ∧ (mapRead → mapGood → ¬ shaped → exec (.launch q k) s = .next (s3.failPacket p' 3 3))
      ∧ (mapRead → mapGood → shaped → s3.partLaunch p.part p.tenant = false → exec (.launch q k) s = .next (s3.failPacket p' 3 4))
      ∧ (mapRead → mapGood → shaped → s3.partLaunch p.part p.tenant = true →
          ∃ t g x y, exec (.launch q k) s = .next t ∧ t.grid s3.nextUid = some g ∧ (∀ n, n ≠ s3.nextUid → t.grid n = s3.grid n)
            ∧ t.packet q k = some y ∧ y.grid = some s3.nextUid ∧ g.slalom = some x ∧ x.segs = segs
            ∧ x.cores = (segs.flatMap fun z => z.cores) ∧ x.launchNext = 0 ∧ x.mapGen = 0 ∧ x.started = false ∧ x.lost = false
            ∧ x.spill = storeBody (BitVec.ofNat 64 (p.field 0x28 8)) ∧ x.code = Memory.writeN [] o.textOff tx
            ∧ g.gridid = p.tag ∧ g.tenant = p.tenant ∧ g.asid = p.asid ∧ g.part = p.part ∧ g.cls = p.cls
            ∧ g.code.toNat = p.field 0x10 8 ∧ g.obj = o ∧ (g.sx, g.sy, g.sz) = p.shape ∧ g.args = args
            ∧ g.hvec.toNat = p.field 0x30 8 ∧ g.place = none ∧ t.groups = s3.groups))

/-- RESUME of task groups (R450): with no image parked at its address it completes with status 3, detail 7; with sound images in a
partition of the tenant, the units that it names, and no others, may enter again. Its accesses need not wait (log 40). -/
def Sys2Proof.Claims.UnitsResumed : Prop :=
  ∀ s q k p, Beginning s q k 1 p → p.resume = true → p.tag = 0xFFFFFFFF → s.partLaunch p.part p.tenant = true →
    let s' := begunIn s q k
    let hs := s'.parked p.tenant (p.field 0x28 8) fun h => h.grid.isNone
    (resumeTasks s' { p with begun := true }).stall = s.stall →
    (hs = [] → exec (.resume q k) s = .next (s'.failPacket { p with begun := true } 3 7))
    ∧ (hs ≠ [] → (hs.all (s'.imageOk 0x43545847)) = true →
        ∃ t, exec (.resume q k) s = .next t
          ∧ t.held = s.held.map (fun h => if h ∈ hs then { h with ready := true, packet := some (q, k) } else h)
          ∧ t.groups = s.groups ∧ SameBytes s t)

/-- RESUME of a grid (R450): after the checks of its code object, a grid of that identity whose code object the packet names and whose
images are sound at the packet's address may enter again, every unit in the packet's partition, with the packet as its own; a slalom
grid that has not lost a spilled record takes the cores of its images, where the packet has no core map, and its place in the order of
acceptance anew. The checks are those of a LAUNCH, its form, names and segment table before its limits (R92, R393). With no such
image, code or grid it completes with status 3, detail 7. -/
def Sys2Proof.Claims.GridsResumed : Prop :=
  ∀ s q k p s1 bs, Beginning s q k 1 p → p.resume = true → p.tag ≠ 0xFFFFFFFF →
    let s' := begunIn s q k
    let p' := { p with begun := true }
    (resumeRun s' p').stall = s.stall →
    (s'.placeOk p' = false → exec (.resume q k) s = .next (s'.failPacket p' 1 0))
    ∧ (s'.placeOk p' = true → s'.readFe p.tenant p.asid [0] (BitVec.ofNat 64 (p.field 0x10 8)) 256 = (s1, .ok bs) →
      let mine (g : Nat × Grid) : Bool := g.2.gridid == p.tag && g.2.tenant == p.tenant
      let form : Bool := objFormatOk (objOf bs) (objExtra bs) && (objOf bs).kind != 1
      (form = false → exec (.resume q k) s = .next (s1.failPacket p' 3 1))
      ∧ (∀ s2 e, form = true → s1.launchForm p' bs = (s2, .error e) → exec (.resume q k) s = .next (s2.failPacket p' e.1 e.2))
      ∧ (∀ s2 es d, form = true → s1.launchForm p' bs = (s2, .ok es) → checkObj bs = .error d →
          exec (.resume q k) s = .next (s2.failPacket p' 3 d))
      ∧ (∀ s2 es o, form = true → s1.launchForm p' bs = (s2, .ok es) → checkObj bs = .ok o → o.kind = 2 →
          segCountOk o es (es.map segOfBytes) = false → exec (.resume q k) s = .next (s2.failPacket p' 3 3))
      ∧ (∀ s2 es o, form = true → s1.launchForm p' bs = (s2, .ok es) → checkObj bs = .ok o →
        (o.kind = 2 → segCountOk o es (es.map segOfBytes) = true) →
        (s2.partLaunch p.part p.tenant = false → exec (.resume q k) s = .next (s2.failPacket p' 3 4))
        ∧ (s2.partLaunch p.part p.tenant = true → (∀ g ∈ s2.grids, mine g = false) → exec (.resume q k) s = .next (s2.failPacket p' 3 7))
        ∧ (∀ n g, s2.partLaunch p.part p.tenant = true → s2.grids.find? mine = some (n, g) →
          let hs := s2.parked p.tenant (p.field 0x28 8) fun h => h.grid == some n
          let sound (magic : Nat) : Prop := hs ≠ [] ∧ (hs.all (s2.imageOk magic)) = true ∧ g.code.toNat = p.field 0x10 8
          ((hs = [] ∨ g.code.toNat ≠ p.field 0x10 8) → exec (.resume q k) s = .next (s2.failPacket p' 3 7))
          ∧ (g.slalom = none → sound 0x43545847 →
              ∃ t y, exec (.resume q k) s = .next t ∧ t.packet q k = some y ∧ y.grid = some n
                ∧ t.held = s2.held.map (fun h => if h ∈ hs then { h with ready := true, part := p.part } else h)
                ∧ t.groups = s2.groups ∧ SameBytes s2 t)
          ∧ (∀ x, g.slalom = some x → sound 0x4C535847 → p.field 0x38 8 = 0 →
              (x.lost = true → exec (.resume q k) s = .next (s2.failPacket p' 3 7))
              ∧ (x.lost = false → ∃ t y g', exec (.resume q k) s = .next t ∧ t.packet q k = some y ∧ y.grid = some n
                ∧ t.held = s2.held.map (fun h => if h ∈ hs then { h with ready := true, part := p.part, map := [] } else h)
                ∧ t.grid n = some g' ∧ g'.part = p.part
                ∧ g'.slalom = some { x with accepted := s2.nextUid, cores := hs.flatMap fun h =>
                    (s2.coreTable h (s2.heldBytes h 0 0x100)).map fun e => e.core }
                ∧ t.groups = s2.groups ∧ SameBytes s2 t)))))

/-- TEAM_ADMIT of a slalom grid (R393-R395, R448): with every core of the grid free, each core of a segment takes a leap unit that serves
the segment, its instruction store loaded, its queue empty and the grid's map, its part of scratchpad zeroed and its array claimed, and
the grid has started; with a core that is not free nothing changes. -/
def Sys2Proof.Claims.SlalomAdmitted : Prop :=
  ∀ s part n gr x, s.grids = [(n, gr)] → s.firstHeld n = none → (∀ h ∈ s.held, h.grid ≠ some n) → gr.part = part →
    gr.slalom = some x → x.started = false → x.cores = (x.segs.flatMap fun y => y.cores) → x.cores.Nodup →
    ((∃ c ∈ x.cores, s.coreFree c = false) → exec (.teamAdmit part) s = .next s)
    ∧ ((∀ c ∈ x.cores, s.coreFree c = true) → (s.ownersFrom (teamAdmit s part)).stall = s.stall →
      ∃ t g', exec (.teamAdmit part) s = .next t ∧ t.grid n = some g' ∧ g'.slalom = some { x with started := true }
        ∧ NoWaitaKept s t
        ∧ ∀ (k : Nat) y c, x.segs[k]? = some y → c ∈ y.cores → c < 192 →
          (∃ l, t.leap c = some l ∧ l.grid = n ∧ l.seg = some k ∧ l.store = x.segBytes k ∧ l.qcount = 0 ∧ l.qhead = 0
            ∧ l.repin = none ∧ l.map = x.segs.map fun z => z.cores)
          ∧ ((t.core c).array.owner.map fun w => (w.unit, w.follower)) = some (.slalom n, false)
          ∧ ∀ a, scratchKey (c / 4) (c % 4 * 2 ^ 18) ≤ a → a < scratchKey (c / 4) (c % 4 * 2 ^ 18) + 2 ^ 18 → Memory.read t.scratch a = 0)

/-- TEAM_ADMIT (R29, R140, R142, R448) with one grid that has a team to admit and none that waits to re-enter: where a core of the
partition has room, the next team takes a context and an allocation there, with zeroed scratchpad and no ring entry; every new group is of
that team, on that core, at the object's entry with all its lanes and the handler; groups that were there, and do not wait in WAITA,
stay as they are (R155). With no room nothing changes. No team of the grid is being captured to enter again (R48). -/
def Sys2Proof.Claims.TeamsAdmitted : Prop :=
  ∀ s part n gr, s.grids = [(n, gr)] → s.firstHeld n = none → gr.part = part → gr.slalom = none → gr.nextTeam < gr.total →
    (s.teamCore gr = none → exec (.teamAdmit part) s = .next s)
    ∧ (∀ core tk, s.requeued n = [] → s.teamCore gr = some core → s.freeTeam core = some tk →
        (s.ownersFrom (teamAdmit s part)).stall = s.stall →
        ∃ t x g', exec (.teamAdmit part) s = .next t ∧ t.team tk = some x ∧ (∀ j, j ≠ tk → t.team j = s.team j) ∧ x.grid = n
          ∧ x.linear = gr.nextTeam ∧ x.size = gr.obj.allocation ∧ (x.tx, x.ty, x.tz) = gr.cell gr.nextTeam ∧ x.live = gr.obj.teamGroups
          ∧ x.reserve = 0 ∧ t.grid n = some g' ∧ g'.nextTeam = gr.nextTeam + 1 ∧ g'.live = gr.live + 1
          ∧ (∀ a, teamKey tk x ≤ a → a < teamKey tk x + x.size → Memory.read t.scratch a = 0)
          ∧ NoWaitaKept s t
          ∧ (∀ gk g, t.group gk = some g → s.group gk = none → coreOf gk = core ∧ g.unit = .team tk ∧ g.grid = n
              ∧ g.tenant = gr.tenant ∧ g.trap.hvec = gr.hvec ∧ g.gnum < gr.obj.teamGroups
              ∧ ∃ f, g.frags = [f] ∧ f.hdr = gr.code.toNat + gr.obj.entry ∧ f.word = 0 ∧ f.members = allLanes ∧ f.mask = allLanes))

/-- The three PREEMPT packets (R449): one that names no unit is refused with status 3 and its detail; REQUEUE and PARK put every unit in
line to be captured, in order, and stop it; DISCARD ends every unit as by KillUnit, for the packet; images that cannot be written are
status 2. Its accesses need not wait (log 40). -/
def Sys2Proof.Claims.UnitsPreempted : Prop :=
  ∀ i s q k p m, (i = .preemptRequeue q k ∧ m = 0 ∨ i = .preemptPark q k ∧ m = 1 ∨ i = .preemptDiscard q k ∧ m = 2) →
    Beginning s q k 7 p →
    let s' := begunIn s q k
    let p' := { p with begun := true }
    (p.mode ≠ m → exec i s = .next s)
    ∧ ((preemptRun s' p').stall = s.stall → (∀ d, p.mode = m → s'.preemptUnits p' = .error d → exec i s = .next (s'.completePacket p' 3 d 0))
    ∧ (∀ us, p.mode = m → s'.preemptUnits p' = .ok us →
        let n := (us.map fun u => roundUp (s'.imageLen u) 4096).sum
        (m ≠ 2 → p.field 0x18 8 < n → exec i s = .next (s'.completePacket p' 3 2 0))
        ∧ (m ≠ 2 → n ≤ p.field 0x18 8 → ∀ s1 e, s'.spanFe p.tenant p.asid [0] permW (BitVec.ofNat 64 (p.field 0x10 8)) n = (s1, .error e) →
            exec i s = .next (s1.completePacket p' 2 0 0))
        ∧ (m ≠ 2 → n ≤ p.field 0x18 8 → (∃ s1 as, s'.spanFe p.tenant p.asid [0] permW (BitVec.ofNat 64 (p.field 0x10 8)) n = (s1, .ok as)) →
            ∃ t, exec i s = .next t ∧ t.captures.map (fun c => c.unit) = s.captures.map (fun c => c.unit) ++ us
              ∧ (∀ c ∈ t.captures, c ∉ s.captures → c.park = (m == 1) ∧ c.queue = q ∧ c.packet = k ∧ c.first = p.field 0x10 8)
              ∧ t.kills = s.kills ∧ SameBytes s t)
        ∧ (m = 2 → ∃ t, exec i s = .next t ∧ (∀ u ∈ us, s.members u ≠ [] → ∃ y ∈ t.kills, y.unit = u) ∧ (∀ y ∈ s.kills, ∃ z ∈ t.kills, z.unit = y.unit)
            ∧ t.groups = s.groups ∧ t.captures = s.captures ∧ SameBytes s t)))

/-- Launches, resumption, admission and pre-emption (R448-R450). -/
def Obligations.LaunchAndPreempt : Prop :=
  GridsLaunched ∧ SlalomLaunched ∧ UnitsResumed ∧ GridsResumed ∧ TeamsAdmitted ∧ SlalomAdmitted ∧ UnitsPreempted

/-! ## Ownership and configuration (13) -/

/-- OWNER's commands and the lease (R430, R431): CLAIM takes an unowned package; OFFER by the owner names the next owner, who ACCEPTs;
RELEASE gives the package up; RENEW by the owner restarts the lease; from any other master they change nothing, nor in recovery. An owner
that has written nothing for its lease loses the package, with a record of kind 8 whose writing need not wait (log 40), and one that has, or has
no lease, does not. -/
def Sys2Proof.Claims.OwnershipPasses : Prop :=
  (∀ s m i, (i = .ownerClaim m ∨ (∃ x, i = .ownerOffer m x) ∨ i = .ownerAccept m ∨ i = .ownerRelease m ∨ i = .ownerRenew m) →
    s.recovering = true → exec i s = .next s)
  ∧ (∀ s m, s.recovering = false → m < 4 →
    (s.fe.owner = 15 → ∃ t, exec (.ownerClaim m) s = .next t ∧ t.fe = { s.fe with owner := m, leaseFrom := s.clock } ∧ t.groups = s.groups ∧ SameBytes s t)
    ∧ (s.fe.nextOwner = m → ∃ t, exec (.ownerAccept m) s = .next t
        ∧ t.fe = { s.fe with owner := m, nextOwner := 15, leaseFrom := s.clock } ∧ t.groups = s.groups ∧ SameBytes s t)
    ∧ (s.fe.owner = m → ∀ x, ∃ t u v, exec (.ownerOffer m x) s = .next t ∧ exec (.ownerRelease m) s = .next u ∧ exec (.ownerRenew m) s = .next v
        ∧ t.fe = { s.fe with nextOwner := x % 16, leaseFrom := s.clock } ∧ u.fe = { s.fe with owner := 15, nextOwner := 15, leaseFrom := s.clock }
        ∧ v.fe = { s.fe with leaseFrom := s.clock } ∧ SameBytes s t ∧ SameBytes s u ∧ SameBytes s v)
    ∧ (s.fe.owner ≠ m → (∀ x, exec (.ownerOffer m x) s = .next s) ∧ exec (.ownerRelease m) s = .next s ∧ exec (.ownerRenew m) s = .next s
        ∧ (s.fe.owner ≠ 15 → exec (.ownerClaim m) s = .next s) ∧ (s.fe.nextOwner ≠ m → exec (.ownerAccept m) s = .next s)))
  ∧ (∀ s, (s.fe.owner = 15 ∨ s.fe.leaseMs = 0 ∨ s.clock < s.fe.leaseFrom + 2250000 * s.fe.leaseMs → exec .leaseExpire s = .next s)
    ∧ (s.fe.owner ≠ 15 → s.fe.leaseMs ≠ 0 → s.fe.leaseFrom + 2250000 * s.fe.leaseMs ≤ s.clock → (leaseExpire s).stall = s.stall →
        ∃ t, exec .leaseExpire s = .next t ∧ t.fe.owner = 15 ∧ t.fe.leaseMs = s.fe.leaseMs ∧ (t.tenant 0).flogProd = ((s.tenant 0).flogProd + 1) % 2 ^ 32
          ∧ t.groups = s.groups))

/-- The writes that only the owner makes (R429), of a master. -/
def Sys2Proof.Claims.OwnerOnly (m : Nat) (i : Instr) : Prop :=
  (∃ n v, i = .tcfgWrite m n v) ∨ (∃ n v, i = .partcfgWrite m n v) ∨ (∃ n v, i = .qcfgWrite m n v) ∨ (∃ n v, i = .iregionWrite m n v)
  ∨ i = .tlbinvAll m ∨ (∃ a, i = .tlbinvAsid m a) ∨ (∃ a v n, i = .tlbinvRange m a v n) ∨ (∃ v, i = .migcmd m v) ∨ (∃ v, i = .fwupdate m v)
  ∨ (∃ v, i = .measext m v) ∨ (∃ v, i = .bondrepair m v) ∨ (∃ p, i = .debugClaim m p) ∨ i = .debugRelease m
  ∨ (∃ g u, i = .debugResume m g u) ∨ (∃ g u, i = .debugReleaseToHandler m g u) ∨ (∃ v, i = .dbgrd m v)
  ∨ (∃ v, i = .biasflipToHost m v ∧ v.getLsbD 0 = true) ∨ (∃ v, i = .biasflipToDevice m v ∧ v.getLsbD 0 = false)

/-- The writes that only the owner makes (R429): from another master they are discarded and counted. TCFG, PARTCFG and QCFG (R436, R439, R442): TCFG of
a tenant that is not bound, with a sound block and table, binds it to the table's extents, whose bytes then read zero, and a block or table
that breaks a rule changes nothing but the lease; PARTCFG is taken over with its reserved bits cleared, or refused with its code; QCFG
is taken over with its reserved bits cleared, with empty indices when the queue becomes valid, or changes nothing but the lease. -/
def Sys2Proof.Claims.ConfigurationWrites : Prop :=
  (∀ s m i, OwnerOnly m i → s.recovering = false → s.isOwner m = false →
    exec i s = .next (s.updFe fun f => { f with ignWr := min 0xFFFFFFFF (f.ignWr + 1) }))
  ∧ (∀ s m n (v : BitVec 256), s.recovering = false → s.isOwner m = true → n < 64 → (s.tenant n).bound = false → tcfgPad v = true →
      tcfgValid v = true →
    let r := s.renewLease
    ((r.tcfgOk n v = false ∨ r.readTable n (tcfgPtab v) = none) → exec (.tcfgWrite m n v) s = .next r)
    ∧ (∀ cq xs, r.tcfgOk n v = true → r.readTable n (tcfgPtab v) = some (cq, xs) →
        ∃ t, exec (.tcfgWrite m n v) s = .next t ∧ (t.tenant n).bound = true ∧ (t.tenant n).tcfg = v ∧ (t.tenant n).extents = xs
          ∧ (t.tenant n).cquota = cq ∧ (t.tenant n).contracts = [] ∧ (∀ k, k ≠ n → t.tenant k = s.tenant k)
          ∧ (∀ a, Memory.read t.storeMem a = if r.extentHas xs (a / 2 ^ 24) (a % 2 ^ 24) = true then 0 else Memory.read s.storeMem a)
          ∧ (∀ a, Memory.read t.mem a = Memory.read s.mem a) ∧ t.groups = s.groups))
  ∧ (∀ s m n (v : BitVec 128), s.recovering = false → s.isOwner m = true → n < 64 →
    let w := v &&& 0xFFFFFFFFFFFFFFFCFC00FFFFFFFFFFFF
    let code := s.renewLease.partRefusal n w
    ∃ t, exec (.partcfgWrite m n v) s = .next t ∧ (t.partn n).code = code ∧ (∀ k, k ≠ n → t.partn k = s.partn k)
      ∧ (code = 0 → (t.partn n).cfg = w ∧ (t.partn n).halted = false) ∧ (code ≠ 0 → t.partn n = { s.partn n with code := code } ∧ t.dies = s.dies)
      ∧ t.groups = s.groups ∧ SameBytes s t)
  ∧ (∀ s m n (v : BitVec 256), s.recovering = false → s.isOwner m = true → n < 4096 →
    let w := v &&& BitVec.ofNat 256 (2 ^ 124 - 1)
    let new : HostQ := { s.hostq n with cfg := w }
    (new.valid = true → s.renewLease.qcfgOk new = false → exec (.qcfgWrite m n v) s = .next s.renewLease)
    ∧ ((new.valid = false ∨ s.renewLease.qcfgOk new = true) → ∃ t, exec (.qcfgWrite m n v) s = .next t
        ∧ t.hostq n = (if new.valid = true ∧ (s.hostq n).valid = false then { cfg := w, head := 0, tail := 0 } else new)
        ∧ (∀ k, k ≠ n → t.hostq k = s.hostq k) ∧ t.groups = s.groups ∧ SameBytes s t))

/-- REGISTER_WRITE (R429, R432, R433): a misaligned offset, and a master above 3, change nothing; one that is not the owner changes nothing
but IGNWR in a register that only the owner writes; the owner's write of QWEIGHT keeps each class's weight, a 0 as 1, one of PWRLIMIT keeps a limit of 16
to 32, one of CETHRESH its lower half, and one of RINKID its 17 bits; each restarts the lease, and no other register changes. A write of
BAR 4 (log 13) changes no register of BAR 0 and no group (R464; what it leaves in BAR 4: log 47). -/
def Sys2Proof.Claims.RegistersWritten : Prop :=
  (∀ s m addr v, (4 ≤ m ∨ addr % 4 ≠ 0) → exec (.registerWrite m addr v) s = .next s)
  ∧ (∀ s m addr v, s.recovering = false → m < 4 → addr < 2 ^ 26 → addr % 4 = 0 → addr ≠ 0 → ¬ (0x140 ≤ addr ∧ addr < 0x168) →
    Machine.ownerReg addr = true → s.isOwner m = false →
    exec (.registerWrite m addr v) s = .next (s.updFe fun f => { f with ignWr := min 0xFFFFFFFF (f.ignWr + 1) }))
  ∧ (∀ s m (v : W64), s.recovering = false → s.isOwner m = true →
    let r := { s.fe with leaseFrom := s.clock }
    ∃ t1 t2 t3 t4, exec (.registerWrite m 0x88 v) s = .next t1 ∧ exec (.registerWrite m 0xA4 v) s = .next t2
      ∧ exec (.registerWrite m 0x110 v) s = .next t3 ∧ exec (.registerWrite m 0x100 v) s = .next t4
      ∧ (∀ c < 4, bits t1.fe.qWeight (8 * c + 7) (8 * c) = max 1 (bits v (8 * c + 7) (8 * c))) ∧ t1.fe = { r with qWeight := t1.fe.qWeight }
      ∧ t2.fe = { r with pwrLimit := if 16 ≤ bits v 5 0 ∧ bits v 5 0 ≤ 32 then BitVec.ofNat 32 (bits v 5 0)
          else BitVec.ofNat 32 (s.fe.pwrLimit.toNat % 64) }
      ∧ t3.fe = { r with ceThresh := BitVec.ofNat 32 (bits v 15 0) } ∧ t4.fe = { r with rinkId := BitVec.ofNat 32 (bits v 16 0) }
      ∧ ∀ t, (t = t1 ∨ t = t2 ∨ t = t3 ∨ t = t4) → t.groups = s.groups ∧ SameBytes s t)
  ∧ (∀ s m addr v, 2 ^ 27 ≤ addr →
    ∃ t, exec (.registerWrite m addr v) s = .next t ∧ t.fe = s.fe ∧ t.groups = s.groups ∧ SameBytes s t)

/-- Ownership and the configuration registers (R429-R442). -/
def Obligations.OwnershipAndRegisters : Prop := OwnershipPasses ∧ ConfigurationWrites ∧ RegistersWritten

/-! ## Translation, invalidation, migration and bias (13, 14) -/

/-- The entry of a page table that an address selects at a level (R453). -/
def Sys2Proof.Claims.pteAt (s : State) (table va lv : Nat) : Nat := s.readHomeNat (table + 8 * (va / 2 ^ (12 + 9 * lv) % 512)) 8

/-- The entry at a level, in a table in memory that may hold one (R33), is a sound leaf, or at level 0 one of a CONT group, and gives a
translation (R453, R454). -/
def Sys2Proof.Claims.LeafAt (s : State) (asid va lv table : Nat) (x : TlbEntry) : Prop :=
  let e := pteAt s table va lv
  frameOk table = true ∧ table % 4096 = 0 ∧ e % 2 = 1 ∧ e / 2 % 2 = 1 ∧ lv ≤ 2 ∧ e / 2 ^ 52 = 0 ∧ e / 2 ^ 6 % 2 ^ 6 = 0 ∧ x.asid = asid ∧ x.perms = e / 4 % 8 ∧ x.tier = tierOf x.pa
    ∧ x.va = va / x.size * x.size ∧ x.pa % x.size = 0 ∧ (s.region (x.pa + va % x.size)).isSome = true
    ∧ (e / 32 % 2 = 0 ∧ x.pa = e / 2 ^ 12 % 2 ^ 40 * 4096 ∧ x.size = 2 ^ (12 + 9 * lv)
      ∨ e / 32 % 2 = 1 ∧ lv = 0 ∧ x.size = 65536 ∧ ∀ k < 16, let y := s.readHomeNat (table + 8 * (va / 2 ^ 12 % 512 / 16 * 16 + k)) 8
          y % 2 = 1 ∧ y / 32 % 2 = 1 ∧ y / 4 % 8 = e / 4 % 8 ∧ y / 2 ^ 12 % 2 ^ 40 * 4096 = x.pa + 4096 * k)

/-- The tables from a level down lead to a translation (R454). -/
def Sys2Proof.Claims.WalksTo (s : State) (asid va : Nat) (x : TlbEntry) : Nat → Nat → Prop
  | 0, table => LeafAt s asid va 0 table x
  | lv + 1, table =>
    LeafAt s asid va (lv + 1) table x
    ∨ (let e := pteAt s table va (lv + 1)
       frameOk table = true ∧ table % 4096 = 0 ∧ e % 2 = 1 ∧ e / 2 % 2 = 0 ∧ e / 2 ^ 52 = 0 ∧ e / 2 ^ 6 % 2 ^ 6 = 0 ∧ e / 32 % 2 = 0
        ∧ WalksTo s asid va x lv (e / 2 ^ 12 % 2 ^ 40 * 4096))

/-- PAGE_WALK (R452-R456): a walk from the ASID table, whose entry is valid for the tenant, through sound tables to a leaf caches the
leaf's translation in the core's TLB and the cluster's; a walk that finds an entry that is not valid caches nothing. No byte changes, and
no access of the walk need wait (log 40). -/
def Sys2Proof.Claims.PagesWalked : Prop :=
  ∀ s core asid vpage n, s.tenantOfAsid asid = some n → s.plat.bad = [] → NoPeerLines s →
    let va := vpage * 4096 % 2 ^ 57
    let a := s.readHomeNat (s.fe.asidTab.toNat + 16 * asid) 16
    (s.translate core n asid va 0).1.stall = s.stall → s.fe.asidTab.toNat % 16 = 0 → frameOk (s.fe.asidTab.toNat + 16 * asid) = true →
    (∀ x ∈ (s.core core).tlb, x.covers asid va = false) → (∀ x ∈ (s.cluster (clusterOf core)).tlb, x.covers asid va = false) →
    (∀ x, a % 2 = 1 → a / 2 ^ 64 = n → a / 2 ^ 52 % 2 ^ 12 = 0 → a / 2 % 2 ^ 11 = 0 → n < 64 →
        WalksTo s asid va x 4 (a / 2 ^ 12 % 2 ^ 40 * 4096) →
        ∃ t, exec (.pageWalk core asid vpage) s = .next t ∧ x ∈ (t.core core).tlb ∧ x ∈ (t.cluster (clusterOf core)).tlb
          ∧ (∀ c, c ≠ core → (t.core c).tlb = (s.core c).tlb) ∧ t.groups = s.groups ∧ SameBytes s t)
    ∧ (a % 2 = 0 → ∃ t, exec (.pageWalk core asid vpage) s = .next t ∧ (∀ c, (t.core c).tlb = (s.core c).tlb)
          ∧ (∀ c, (t.cluster c).tlb = (s.cluster c).tlb) ∧ t.groups = s.groups ∧ SameBytes s t)

/-- TLBINV (R457): the owner's write begins an invalidation of its scope, and one that meets another under way makes it an invalidation of
every ASID (log 21); it is done once no access translated before is outstanding: then no TLB holds a translation that it names, and no L1
a line of an ASID that it names. No write-back of the flush need wait (log 40). -/
def Sys2Proof.Claims.TranslationsInvalidated : Prop :=
  (∀ s m i v, (i = .tlbinvAll m ∧ v = { scope := 0, asid := 0, va := 0, pages := 0 }
      ∨ (∃ a, i = .tlbinvAsid m a ∧ v = { scope := 1, asid := a, va := 0, pages := 0 })
      ∨ (∃ a b n, i = .tlbinvRange m a b n ∧ v = { scope := 2, asid := a, va := b, pages := n })) →
    s.recovering = false → s.isOwner m = true →
    ∃ t, exec i s = .next t ∧ (s.fe.inval = none → t.fe = { s.fe with leaseFrom := s.clock, raw := t.fe.raw, inval := some v })
      ∧ (s.fe.inval ≠ none → t.fe = { s.fe with leaseFrom := s.clock, raw := t.fe.raw, inval := some { scope := 0, asid := 0, va := 0, pages := 0 } })
      ∧ t.cores = s.cores ∧ t.groups = s.groups ∧ SameBytes s t)
  ∧ (∀ s, (s.fe.inval = none → exec .tlbinvDone s = .next s)
    ∧ (∀ v, s.fe.inval = some v → s.invalBusy v = true → exec .tlbinvDone s = .next s)
    ∧ (∀ v, s.fe.inval = some v → s.invalBusy v = false → (tlbinvDone s).stall = s.stall →
        ∃ t, exec .tlbinvDone s = .next t ∧ t.fe.inval = none ∧ t.groups = s.groups
          ∧ (∀ c, (∀ e ∈ (t.core c).tlb, e ∈ (s.core c).tlb ∧ v.hits e = false) ∧ ∀ l ∈ (t.core c).l1, v.names l.asid = false)
          ∧ ∀ c, ∀ e ∈ (t.cluster c).tlb, e ∈ (s.cluster c).tlb ∧ v.hits e = false))

/-- Translation and its invalidation (R452-R457). -/
def Obligations.Translation : Prop := PagesWalked ∧ TranslationsInvalidated

/-- The leaf at an address, in a frame that may hold page tables, maps a page of 2^(12 + size) bytes at `src`: a valid leaf
entry, or the first of a sound CONT group where the page is of 64 KiB (R453, R459). -/
def Sys2Proof.Claims.LeafMaps (s : State) (leaf src size : Nat) : Prop :=
  let e := s.readHomeNat leaf 8
  frameOk leaf = true ∧ leaf % (if size = 4 then 128 else 8) = 0 ∧ e % 2 = 1 ∧ e / 2 % 2 = 1 ∧ e / 2 ^ 12 % 2 ^ 40 * 4096 = src
    ∧ (e / 32 % 2 = 1 ↔ size = 4) ∧ (size = 4 → contOk ((List.range 16).map fun k => s.readHomeNat (leaf + 8 * k) 8) = true)

/-- MIGCMD and the passes of a migration (R459-R462): the owner's command without GO is held in its register alone; with GO it is refused
with code 4 while 16 run, with 2 for SIZE 3 or a misaligned frame, with 3 for a frame outside HBM and host memory, and with 1 for a
leaf that does not map SRC, checked in this order, and otherwise takes the lowest free slot, every line of the page marked (the order,
the slot and where a leaf may lie: log 21); a pass copies the marked lines to the destination; the final pass
does so once more, puts the destination frame into the leaf, drops the translations of the page, and frees the slot; a page that is no
longer mapped ends its migration with code 5. The page is of plain memory, and the final pass meets no line in an L1 and no bias flip. -/
def Sys2Proof.Claims.PagesMigrate : Prop :=
  (∀ s m (v : BitVec 384), s.recovering = false → s.isOwner m = true →
    (v.getLsbD 31 = false → exec (.migcmd m v) s = .next (s.renewLease.holdRaw 0x0C0 48 v.toNat))
    ∧ (v.getLsbD 31 = true →
        let src := bits v 127 64
        let dst := bits v 191 128
        let leaf := bits v 255 192
        let size := if bits v 1 0 = 0 then 0 else if bits v 1 0 = 1 then 4 else 9
        let aligned : Prop := bits v 1 0 ≠ 3 ∧ src % (4096 * 2 ^ size) = 0 ∧ dst % (4096 * 2 ^ size) = 0
        let near : Prop := frameOk src = true ∧ frameOk dst = true
        let maps : Prop := LeafMaps s leaf src size
        let refused (t : State) (code : Nat) : Prop := t.fe.migCode = code ∧ t.fe.migs = s.fe.migs
        ∃ t, exec (.migcmd m v) s = .next t ∧ t.groups = s.groups ∧ SameBytes s t
          ∧ (16 ≤ s.fe.migs.length → refused t 4)
          ∧ (s.fe.migs.length < 16 → (¬ aligned → refused t 2) ∧ (aligned → ¬ near → refused t 3) ∧ (aligned → near → ¬ maps → refused t 1)
            ∧ (aligned → near → maps → ∃ k g, s.mig k = none ∧ k < 16 ∧ (∀ j < k, s.mig j ≠ none) ∧ t.mig k = some g
              ∧ (∀ j, j ≠ k → t.mig j = s.mig j) ∧ t.fe.migCode = 0 ∧ t.fe.migSlot = k ∧ g.src = src ∧ g.dst = dst ∧ g.leaf = leaf
              ∧ g.asid = bits v 18 6 ∧ g.va = bits v 319 256 ∧ g.passes = 0 ∧ g.size = size
              ∧ ∀ l, l ∈ g.marked ↔ src / 128 ≤ l ∧ l < src / 128 + 32 * 2 ^ size))))
  ∧ (∀ s k g, s.mig k = some g →
    ((4 ≤ g.passes ∨ g.marked = [] ∨ s.migMapped g = false) → exec (.migrationCopyPass k) s = .next s)
    ∧ (g.passes < 4 → g.marked ≠ [] → s.migMapped g = true → s.plat.bad = [] → Memory.wf s.mem = true →
        (∀ l ∈ g.marked, g.src ≤ 128 * l ∧ 128 * l + 128 ≤ g.src + g.bytes) → isStore (g.src + g.bytes) = false → isStore (g.dst + g.bytes) = false →
        ∃ t, exec (.migrationCopyPass k) s = .next t ∧ t.mig k = some { g with passes := g.passes + 1, marked := [] }
          ∧ (∀ l ∈ g.marked, ∀ i < 128, t.readHome (g.dst + (128 * l + i - g.src)) = s.readHome (128 * l + i))
          ∧ (∀ a, ¬ (g.dst ≤ a ∧ a < g.dst + g.bytes) → t.readHome a = s.readHome a) ∧ t.groups = s.groups))
  ∧ (∀ s k g, s.mig k = some g → Tab.wf s.fe.migs = true →
    ((g.passes = 0 ∨ (g.marked ≠ [] ∧ g.passes < 4) ∨ s.migMapped g = false) → exec (.migrationFinalPass k) s = .next s)
    ∧ (1 ≤ g.passes → (g.marked = [] ∨ 4 ≤ g.passes) → s.migMapped g = true → g.size ≠ 4 → s.plat.bad = [] → s.fe.flip = none → Memory.wf s.mem = true →
        (∀ c ∈ s.cores, c.2.l1 = [] ∧ c.2.wbq = []) → (∀ l ∈ g.marked, g.src ≤ 128 * l ∧ 128 * l + 128 ≤ g.src + g.bytes) →
        isStore (g.src + g.bytes) = false → isStore (g.leaf + 8) = false → g.dst + g.bytes ≤ 2 ^ 51 → g.dst % 4096 = 0 →
        (∀ i < 8, g.has (g.leaf + i) = false ∧ ¬ (g.dst ≤ g.leaf + i ∧ g.leaf + i < g.dst + g.bytes)) →
        ∃ t, exec (.migrationFinalPass k) s = .next t ∧ t.mig k = none ∧ t.fe.migCode = 0 ∧ (k < 16 → t.fe.migFailed.getLsbD k = false) ∧ (∀ j, j ≠ k → (t.mig j).isSome = (s.mig j).isSome)
          ∧ t.readHomeNat g.leaf 8 = s.readHomeNat g.leaf 8 - pteAddr (s.readHomeNat g.leaf 8) + g.dst
          ∧ (∀ l ∈ g.marked, ∀ i < 128, t.readHome (g.dst + (128 * l + i - g.src)) = s.readHome (128 * l + i))
          ∧ (∀ c, ∀ e ∈ (t.core c).tlb, ¬ (e.asid = g.asid ∧ e.va < g.va + g.bytes ∧ g.va < e.va + e.size))))
  ∧ (∀ s k g, s.mig k = some g → Tab.wf s.fe.migs = true →
    (s.migMapped g = true → exec (.migrationUnmapped k) s = .next s)
    ∧ (s.migMapped g = false → ∃ t, exec (.migrationUnmapped k) s = .next t ∧ t.mig k = none ∧ t.fe.migCode = 5 ∧ t.fe.migSlot = k
        ∧ (k < 16 → t.fe.migFailed.getLsbD k = true) ∧ t.groups = s.groups ∧ SameBytes s t))

/-- BIASFLIP (R466, R467): the owner's write of a COUNT above 0 begins a flip of its pages, to the side that its TOHOST names; one while
a flip runs is discarded and counted in IGNWR; done, the bit of every page
of the range below 2^28 is that side's, and no other bit of the table changes. -/
def Sys2Proof.Claims.BiasFlips : Prop :=
  (∀ i s m v side, (i = .biasflipToHost m v ∧ side = true ∨ i = .biasflipToDevice m v ∧ side = false) →
    (v.getLsbD 0 ≠ side → exec i s = .next s)
    ∧ (v.getLsbD 0 = side → s.recovering = false → s.isOwner m = true → s.fe.flip = none →
        ∃ t, exec i s = .next t ∧ t.groups = s.groups ∧ SameBytes s t
          ∧ t.fe = { s.fe with leaseFrom := s.clock, raw := t.fe.raw
                               flip := if bits v 35 8 = 0 then none else some { first := bits v 63 36, count := bits v 35 8, toHost := side } })
    ∧ (v.getLsbD 0 = side → s.recovering = false → s.isOwner m = true → s.fe.flip.isSome = true →
        exec i s = .next (s.renewLease.updFe fun f => { f with ignWr := min 0xFFFFFFFF (f.ignWr + 1) })))
  ∧ (∀ s, (s.fe.flip = none → exec .biasflipDone s = .next s)
    ∧ (∀ f, s.fe.flip = some f → Memory.wf s.mem = true → isStore (s.fe.biasBase.toNat + 2 ^ 25) = false →
        ∃ t, exec .biasflipDone s = .next t ∧ t.fe.flip = none ∧ t.groups = s.groups
          ∧ (∀ p < 2 ^ 28, (Memory.read t.mem (s.fe.biasBase.toNat + p / 8)).getLsbD (p % 8)
              = if f.first ≤ p ∧ p < f.first + f.count then f.toHost else (Memory.read s.mem (s.fe.biasBase.toNat + p / 8)).getLsbD (p % 8))
          ∧ ∀ a, ¬ (s.fe.biasBase.toNat ≤ a ∧ a < s.fe.biasBase.toNat + 2 ^ 25) → Memory.read t.mem a = Memory.read s.mem a))

/-- Page migration and bias flips (R458-R467). -/
def Obligations.MigrationAndBias : Prop := PagesMigrate ∧ BiasFlips

/-! ## Links (14) -/

/-- The host link and CXL (R192, R464, R465): LINK_TRAIN sets a legal pair of lanes and rate, and no other; a host's write to HBM stores its bytes at
their home and nothing else, and its read changes no byte; a snoop gives up a host-tier line of a store cache, and the bytes of the line that
the host then writes are there, or leaves it clean, and the bytes stay. No page reached changes its bias. -/
def Sys2Proof.Claims.HostLink : Prop :=
  (∀ s lanes speed, ((lanes = 16 ∨ lanes = 8 ∨ lanes = 4) ∧ (speed = 128 ∨ speed = 64 ∨ speed = 32) →
      exec (.linkTrain lanes speed) s = .next (s.updPlat fun p => { p with lanes := lanes, speed := speed }))
    ∧ (¬ ((lanes = 16 ∨ lanes = 8 ∨ lanes = 4) ∧ (speed = 128 ∨ speed = 64 ∨ speed = 32)) → exec (.linkTrain lanes speed) s = .next s))
  ∧ (∀ s a, ∃ t, exec (.cxlMemAccess a none) s = .next t ∧ t.groups = s.groups ∧ SameBytes s t
    ∧ (s.plat.bad = [] → s.plat.soft = [] → t.plat = s.plat))
  ∧ (∀ s a bs, a + bs.length ≤ 2 ^ 40 → (∀ n < bs.length, s.flipping (a + n) = false) → Memory.wf s.mem = true →
    ∃ t, exec (.cxlMemAccess a (some bs)) s = .next t ∧ (∀ i b, bs[i]? = some b → Memory.read t.mem (a + i) = b)
      ∧ (∀ x, ¬ (a ≤ x ∧ x < a + bs.length) → Memory.read t.mem x = Memory.read s.mem x) ∧ t.groups = s.groups
      ∧ ((∀ n k, s.storeLine n k = none) → t.slices = s.slices)
      ∧ ∀ x, Memory.read t.storeMem x = Memory.read s.storeMem x ∧ Memory.read t.scratch x = Memory.read s.scratch x)
  ∧ (∀ s a taken n l, tierOf (128 * (a / 128)) = 1 → s.homeSlice (128 * (a / 128)) = some n → s.storeLine n (a / 128) = some l →
    s.plat.bad = [] → Memory.wf s.mem = true →
    ∃ t, exec (.cxlCacheSnoop a taken) s = .next t ∧ t.groups = s.groups
      ∧ (taken.getD [] = [] → SameBytes s t)
      ∧ (∀ data, taken = some data → ∀ x, Memory.read t.mem x
          = if a ≤ x ∧ x < a + data.length ∧ x / 128 = a / 128 then data.getD (x - a) 0 else Memory.read s.mem x)
      ∧ (taken.isSome = true → t.storeLine n (a / 128) = none) ∧ (taken = none → t.storeLine n (a / 128) = some { l with dirty := 0 })
      ∧ ∀ k, k ≠ a / 128 → t.storeLine n k = s.storeLine n k)

/-- Rink (R468-R471): a peer's write to an exported frame, under its key and with write permission, stores its bytes in HBM, its atomic changes its
word as the group's would, and one that is refused changes no byte; a peer's refusal of a write-back loses the line's dirty bytes and halts the
partitions of the tenants that dirtied them, whose records need not wait (log 40); a refused read ends with an error; the 16th failed replay
of a flit that a port sends takes it down, as does that of one it receives (numbered from 16: log 34), and a request that comes
through starts the count of its direction again. An atomic need not wait at its slice (log 40). -/
def Sys2Proof.Claims.RinkLinks : Prop :=
  (∀ s port off key bs a, port < 16 → (s.port port).up = true → s.exportAt off key true = some a → off % 2 ^ 30 + bs.length ≤ 2 ^ 30 →
    (∀ n < bs.length, s.flipping (a + n) = false) → Memory.wf s.mem = true →
    ∃ t, exec (.rinkRequest port off key (.write bs)) s = .next t ∧ (∀ (i : Nat) (b : Byte), bs[i]? = some b → Memory.read t.mem (a + i) = b)
      ∧ (∀ x, ¬ (a ≤ x ∧ x < a + bs.length) → Memory.read t.mem x = Memory.read s.mem x) ∧ t.port port = { s.port port with replaysIn := 0 }
      ∧ t.groups = s.groups)
  ∧ (∀ s port off key op k n x y a, port < 16 → (s.port port).up = true → s.exportAt off key true = some a → off % 2 ^ 30 + n ≤ 2 ^ 30 →
    (n = 4 ∨ n = 8) → a % n = 0 → (∀ i < n, s.flipping (a + i) = false ∧ s.badAt (a + i) = false) → Memory.wf s.mem = true →
    (rinkRequest s port off key op).stall = s.stall →
    ((∃ aop sg, op = .atom aop sg n x ∧ k = .atom aop sg true) ∨ (op = .cas n x y ∧ k = .cas) ∨ (∃ aop sg fl, op = .red aop sg fl n x ∧ k = .red aop sg fl)) →
    ∃ t, exec (.rinkRequest port off key op) s = .next t
      ∧ t.readHomeNat a n = ((AccKind.apply k n (s.readHomeNat a n) x y).map fun v => v % 2 ^ (8 * n)).getD (s.readHomeNat a n)
      ∧ (∀ b, ¬ (a ≤ b ∧ b < a + n) → Memory.read t.mem b = Memory.read s.mem b) ∧ t.groups = s.groups)
  ∧ (∀ s port off key op, port < 16 → (s.port port).up = true →
    (s.exportAt off key (outsideWrites op) = none ∨ ∃ n, op = .read n ∧ ∀ a, s.exportAt off key false = some a → s.flipsAny a n = false) →
    ∃ t, exec (.rinkRequest port off key op) s = .next t ∧ t.groups = s.groups ∧ SameBytes s t
      ∧ ((rinkRequest s port off key op).stall = s.stall → t.port port = { s.port port with replaysIn := 0 }))
  ∧ (∀ (s : State) off key write a, s.exportAt off key write = some a →
    let e := Tab.get 0 s.fe.exports (off / 2 ^ 30)
    e.getLsbD 0 = true ∧ bits e 17 2 = key ∧ (write = true → e.getLsbD 1 = true) ∧ a = bits e 39 30 * 2 ^ 30 + off % 2 ^ 30 ∧ a < 2 ^ 40)
  ∧ (∀ s port, port < 16 → (s.port port).up = true →
    ∃ t, exec (.flitReplay port) s = .next t ∧ ((s.port port).replays = 16 → (t.port port).up = false)
      ∧ ((s.port port).replays ≠ 16 → t.port port = { s.port port with replays := (s.port port).replays + 1 })
      ∧ (∀ k, k ≠ port → t.port k = s.port k) ∧ t.groups = s.groups ∧ SameBytes s t)
  ∧ (∀ s port, port < 16 → (s.port port).up = true →
    ∃ t, exec (.flitReplay (16 + port)) s = .next t ∧ ((s.port port).replaysIn = 16 → (t.port port).up = false)
      ∧ ((s.port port).replaysIn ≠ 16 → t.port port = { s.port port with replaysIn := (s.port port).replaysIn + 1 })
      ∧ (∀ k, k ≠ port → t.port k = s.port k) ∧ t.groups = s.groups ∧ SameBytes s t)
  ∧ (∀ s port, (32 ≤ port ∨ (s.port (port % 16)).up = false) → exec (.flitReplay port) s = .next s)
  ∧ (∀ s port off key op, (16 ≤ port ∨ (s.port port).up = false) → exec (.rinkRequest port off key op) s = .next s)
  ∧ (∀ s core k c w l, (s.core core).wbq[k]? = some w → tierOf (128 * w.line) = 2 → s.l1Line core w.asid w.line = some l →
    (refusedWb s core k).stall = s.stall →
    ∃ t, exec (.rinkRefusal .wb core k c) s = .next t ∧ (t.core core).wbq = (s.core core).wbq.eraseIdx k ∧ t.l1Line core w.asid w.line = none
      ∧ t.groups = s.groups
      ∧ ∀ p x, Tab.find s.parts p = some x → x.valid = true → x.tenant = (s.tenantOfAsid w.asid).getD 0 → (t.partn p).halted = true)
  ∧ (∀ s n line c l, s.storeLine n line = some l → tierOf (128 * line) = 2 → l.dirty ≠ 0 →
    (refusedLine s n line).stall = s.stall →
    ∃ t, exec (.rinkRefusal .line n line c) s = .next t ∧ t.storeLine n line = none ∧ t.groups = s.groups
      ∧ ∀ p x i, Tab.find s.parts p = some x → x.valid = true → i < 128 → l.dirty.getLsbD i = true →
          x.tenant = Tab.get l.tenant l.by_ i → (t.partn p).halted = true)
  ∧ (∀ s gk op j g o m p, s.memOp gk op = some (g, o, m) → m.parts[j]? = some p → m.isLocal = false → p.done = false →
    tierOf p.addr = 2 → isStore p.addr = false → g.mayPerform op m j = true → m.kind = .load → o.flag < 12 →
    ∃ t h m' p', exec (.rinkRefusal .part gk op j) s = .next t ∧ t.group gk = some h ∧ t.memOp gk op = some (h, { o with kind := .mem m' }, m')
      ∧ m'.parts[j]? = some p' ∧ p'.done = true ∧ p'.err = true ∧ h.regs = g.regs ∧ OtherGroups s t gk ∧ SameBytes s t)
  ∧ (∀ s gk fid j g f m p, s.group gk = some g → g.frag fid = some f → s.stopped g = false → f.free = true → f.wait = .waitge m →
    m.parts[j]? = some p → p.done = false → tierOf p.addr = 2 → isStore p.addr = false →
    MemOp.performed (m.setPart j { p with done := true, err := true }) = false →
    ∃ t h, exec (.rinkRefusal .wait gk fid j) s = .next t ∧ t.group gk = some h
      ∧ h.frags = (g.setFrag { f with wait := .waitge (m.setPart j { p with done := true, err := true }) }).frags
      ∧ h.regs = g.regs ∧ OtherGroups s t gk ∧ SameBytes s t)
  ∧ (∀ s ls a b c, exec (.rinkRefusal (.lines ls) a b c) s = .next { s with peerNo := ls })

/-- The links (R464-R471). -/
def Obligations.Links : Prop := HostLink ∧ RinkLinks

/-! ## Boot, security, errors, debug, power (14) -/

/-- A slot whose image the boot ROM accepts (R472, R473). -/
def Sys2Proof.Claims.slotOk (s : State) : Prop := s.verifySlot (imageIn s.plat.flash) = 0

/-- PACKAGE_RESET (R473-R475): every group, team, grid, queue, cache and register is as after reset, and of memory only the host's is left; an
accepted image runs with code 0 and its SVN, and MEAS0 to MEAS2 are extended; one that fails leads to recovery with the code of the first failure,
and nothing is measured. The fused minimum is as it was, or the running firmware had asked for its own SVN before (when it asks: log 10). -/
def Sys2Proof.Claims.Resets : Prop :=
  ∀ s, let r := s.fuseAsk
    ∃ t, exec .packageReset s = .next t ∧ t.groups = [] ∧ t.teams = [] ∧ t.grids = [] ∧ t.cores = [] ∧ t.clusters = [] ∧ t.hostqs = []
    ∧ t.tenants = [] ∧ t.parts = [] ∧ t.packets = [] ∧ t.held = [] ∧ t.fe = FrontEnd.reset ∧ t.power = true ∧ t.clock = 0 ∧ t.storeMem = [] ∧ t.scratch = []
    ∧ (∀ a, Memory.read t.mem a = if 2 ^ 50 ≤ a ∧ a < 2 ^ 51 then Memory.read s.mem a else 0) ∧ t.liveCl = s.liveCl ∧ t.liveSl = s.liveSl
    ∧ t.plat.flash = s.plat.flash ∧ t.plat.fusedSvn = r.plat.fusedSvn
    ∧ (r.plat.fusedSvn = s.plat.fusedSvn ∨ s.plat.bootMode = 1 ∧ r.plat.fusedSvn = max s.plat.fusedSvn s.plat.bootSvn)
    ∧ (slotOk r → t.plat.bootMode = 1 ∧ t.plat.bootCode = 0 ∧ t.plat.bootSvn = imageSvn (imageIn s.plat.flash)
        ∧ t.meas 0 = sha512 (zeros 64 ++ leBytes 64 Config.romDigest.toNat)
        ∧ t.meas 1 = sha512 (zeros 64 ++ leBytes 64 (fieldAt (imageIn s.plat.flash) 0x10 64))
        ∧ t.meas 2 = sha512 (zeros 64 ++ leBytes 64 (Config.fuseDigest r.plat.fusedSvn s.plat.bin).toNat) ∧ ∀ j, 3 ≤ j → t.meas j = 0)
    ∧ (¬ slotOk r → t.plat.bootMode = 2 ∧ t.plat.bootCode = r.verifySlot (imageIn s.plat.flash) ∧ ∀ j, t.meas j = 0)

/-- Recovery and updates (R474): RECOVERGO outside recovery does nothing; in recovery an image that fails leaves code 5, and one that
verifies is written into the slot, and the package resets and boots from it; FWUPDATE by the owner with fields in
range begins an update, and while one runs answers code 7; done, an image that fails leaves its code, and the slot as it was; one that is accepted
replaces the slot, its SVN shown. (Before an update ends, the firmware may ask for a higher fused minimum: log 10. The image's
pages are not of a bias change, which would hold its reads: log 40.) -/
def Sys2Proof.Claims.FirmwareUpdates : Prop :=
  (∀ s, s.recovering = false → exec .recovergo s = .next s)
  ∧ (∀ s, s.recovering = true → s.verifyImage (imageIn s.plat.recovery) ≠ 0 →
    exec .recovergo s = .next (s.updPlat fun p => { p with bootCode := 5 }))
  ∧ (∀ s, s.recovering = true → s.verifyImage (imageIn s.plat.recovery) = 0 →
    let bs := imageIn s.plat.recovery
    ∃ t, exec .recovergo s = .next t ∧ t.plat.flash = Memory.writeN [] 0 bs ∧ t.plat.torn = none ∧ t.plat.bootMode = 1 ∧ t.plat.bootCode = 0
      ∧ t.plat.bootSvn = imageSvn bs ∧ t.meas 1 = sha512 (zeros 64 ++ leBytes 64 (fieldAt bs 0x10 64)) ∧ t.plat.fusedSvn = s.plat.fusedSvn
      ∧ t.groups = [] ∧ t.tenants = [] ∧ t.packets = [] ∧ t.fe = FrontEnd.reset ∧ t.power = true ∧ t.clock = 0)
  ∧ (∀ s m (v : BitVec 128), s.recovering = false → s.isOwner m = true → v.getLsbD 31 = true →
    ∃ t, exec (.fwupdate m v) s = .next t ∧ t.groups = s.groups ∧ SameBytes s t
      ∧ (s.plat.fwBusy ≠ none → t.plat = { s.plat with fwCode := 7 })
      ∧ (s.plat.fwBusy = none → 0x401 ≤ bits v 63 32 → bits v 63 32 ≤ 2 ^ 25 → bits v 127 64 % 4096 = 0 → bits v 127 64 + bits v 63 32 ≤ 2 ^ 40 →
          t.plat = { s.plat with fwBusy := some (bits v 127 64, bits v 63 32), fwCode := 0 }))
  ∧ (∀ s ok, (s.plat.fwBusy = none → exec (.fwupdateDone ok) s = .next s)
    ∧ (∀ a n, s.plat.fwBusy = some (a, n) → s.plat.bad = [] → (fwDone s ok).stall = s.stall →
        let bs := s.readHomeN a n
        let r := s.fuseAsk
        ∃ t, exec (.fwupdateDone ok) s = .next t ∧ t.plat.fwBusy = none ∧ t.groups = s.groups ∧ SameBytes s t
          ∧ (r.fwVerify bs n ≠ 0 → t.plat.fwCode = r.fwVerify bs n ∧ t.plat.flash = s.plat.flash)
          ∧ (r.fwVerify bs n = 0 → ok = true → t.plat.fwCode = 0 ∧ t.plat.fwSvn = imageSvn bs % 2 ^ 16 ∧ t.plat.torn = none
              ∧ t.plat.flash = Memory.writeN [] 0 (bs.take (imageHead + imageLength bs)))
          ∧ (r.fwVerify bs n = 0 → ok = false → t.plat.fwCode = 6)))

/-- Measurements and attestation (R475, R476): the owner's MEASEXT extends MEAS4 to MEAS7, and no other; ATTREQ by any master begins a report that names
the magic, the nonce and the measurements asked for; done, it stands in the window with its signature of 512 bytes, by the identity key and
a salt of the part's choice (log 10). -/
def Sys2Proof.Claims.Attests : Prop :=
  (∀ s m (v : BitVec 576), s.recovering = false → s.isOwner m = true →
    ∃ t, exec (.measext m v) s = .next t ∧ t.groups = s.groups ∧ SameBytes s t ∧ t.fe = { s.fe with leaseFrom := s.clock, raw := t.fe.raw }
      ∧ ∀ j, t.meas j = if v.getLsbD 31 = true ∧ 4 ≤ bits v 2 0 ∧ j = bits v 2 0
          then sha512 (leBytes 64 (s.meas j).toNat ++ leBytes 64 (bits v 575 64)) else s.meas j)
  ∧ (∀ s m (v : BitVec 320), ((s.recovering = true ∨ 4 ≤ m) → exec (.attreq m v) s = .next s)
    ∧ ((v.getLsbD 31 = false ∨ s.plat.attest ≠ none) →
        ∃ t, exec (.attreq m v) s = .next t ∧ t.plat = s.plat ∧ t.groups = s.groups ∧ SameBytes s t)
    ∧ (s.recovering = false → v.getLsbD 31 = true → m < 4 → s.plat.attest = none →
        ∃ t b, exec (.attreq m v) s = .next t ∧ t.plat.attest = some b ∧ t.plat.report = s.plat.report ∧ t.groups = s.groups ∧ SameBytes s t
          ∧ b.take 4 = leBytes 4 0x54415647 ∧ (b.drop 16).take 32 = leBytes 32 (bits v 319 64)
          ∧ b.length = 48 + 64 * ((List.range 8).filter fun j => (bits v 7 0).testBit j).length))
  ∧ (∀ s, (s.plat.attest = none → exec .attreqDone s = .next s)
    ∧ (∀ b, s.plat.attest = some b → ∃ t sig, exec .attreqDone s = .next t ∧ t.plat = { s.plat with attest := none, report := b ++ sig }
        ∧ sig = pssSign Config.idKey.1 Config.idKey.2 (leBytes 64 (Config.salt s.freeCtr).toNat) b ∧ sig.length = 512
        ∧ t.groups = s.groups ∧ SameBytes s t))

/-- Errors (R478, R480, R481): SCRUB of a protected word of HBM with a corrected error repairs and counts it, and one with an uncorrectable error enters DEVLOG and
stays; a canary that has drifted sets DRIFT, schedules the repair, and sends vector 2; BONDREPAIR begins for an OFF layer alone; done with too few
spares it leaves REPAIR 3, else fewer spares, REPAIR 2 and no DRIFT. -/
def Sys2Proof.Claims.ErrorsHandled : Prop :=
  (∀ s a, a < 2 ^ 40 → ∃ t, exec (.scrub a) s = .next t ∧ t.groups = s.groups ∧ SameBytes s t ∧ t.plat.bad = s.plat.bad
    ∧ (a / 32 * 32 ∈ s.plat.soft → a / 32 * 32 ∉ t.plat.soft
        ∧ Tab.get 0 t.plat.ceCount (a / 2 ^ 36) = min 0xFFFFFFFF (Tab.get 0 s.plat.ceCount (a / 2 ^ 36) + 1))
    ∧ (a / 32 * 32 ∉ s.plat.soft → t.plat.ceCount = s.plat.ceCount ∧ t.plat.soft = s.plat.soft)
    ∧ (a / 32 * 32 ∈ s.plat.bad → t.plat.devlogProd = (s.plat.devlogProd + 1) % 2 ^ 32
        ∧ Tab.find t.plat.devlog (s.plat.devlogProd % 256) = some { addr := BitVec.ofNat 64 (a / 32 * 32), store := a / 2 ^ 36, kind := 1
                                                                    clock := BitVec.ofNat 64 s.clock })
    ∧ (a / 32 * 32 ∉ s.plat.bad → t.plat.devlog = s.plat.devlog))
  ∧ (∀ s n l, n < 256 → l < 2 →
    (exec (.bondCheck n l false) s = .next s)
    ∧ ((s.bond n l).drift = true → exec (.bondCheck n l true) s = .next s)
    ∧ ((s.bond n l).drift = false → ∃ t, exec (.bondCheck n l true) s = .next t ∧ t.bond n l = { s.bond n l with drift := true, repair := 1 }
        ∧ t.msix = s.msix ++ [2] ∧ t.groups = s.groups ∧ SameBytes s t))
  ∧ (∀ s m (v : W32), s.recovering = false → s.isOwner m = true → v.getLsbD 31 = true →
    let r := bits v 8 0
    ((s.plat.repair ≠ none ∨ (s.layer (r / 2 / 64) (r % 2)).state ≠ 2 ∨ (s.layer (r / 2 / 64) (r % 2)).ends ≠ none) →
      exec (.bondrepair m v) s = .next s.renewLease)
    ∧ (s.plat.repair = none → (s.layer (r / 2 / 64) (r % 2)).state = 2 → (s.layer (r / 2 / 64) (r % 2)).ends = none →
      exec (.bondrepair m v) s = .next (s.renewLease.updPlat fun p => { p with repair := some r })))
  ∧ (∀ s ok, (s.plat.repair = none → exec (.bondrepairDone ok) s = .next s)
    ∧ (∀ r, s.plat.repair = some r → ∃ t, exec (.bondrepairDone ok) s = .next t ∧ t.plat.repair = none ∧ t.groups = s.groups ∧ SameBytes s t
        ∧ ((ok = false ∨ (s.bond (r / 2) (r % 2)).spares = 0) → t.bond (r / 2) (r % 2) = { s.bond (r / 2) (r % 2) with repair := 3 })
        ∧ (ok = true → 8 ≤ (s.bond (r / 2) (r % 2)).spares → (t.bond (r / 2) (r % 2)).repair = 2 ∧ (t.bond (r / 2) (r % 2)).drift = false
            ∧ (t.bond (r / 2) (r % 2)).spares < (s.bond (r / 2) (r % 2)).spares)))

/-- Boot and security, and errors (R472-R481). -/
def Obligations.BootAndErrors : Prop := Resets ∧ FirmwareUpdates ∧ Attests ∧ ErrorsHandled

/-- The debugger (R482, R483): the owner claims a partition whose tenant allows it, while no other is claimed; a resumed unit's groups go on past their BKPT, and
one released to its handler takes BKPT there; a debug read answers after its GO, once its layer is awake: status 0, 1 where it woke the layer, 2
for an OFF layer, a layer that changes reading as its target (R336), 4 for an error, and one that is not allowed answers status 3 and keeps the data. -/
def Sys2Proof.Claims.Debugs : Prop :=
  (∀ s m p, s.recovering = false → s.isOwner m = true →
    ∃ t u, exec (.debugClaim m p) s = .next t ∧ exec (.debugRelease m) s = .next u ∧ u.fe.claim = none ∧ u.fe.opStatus = 0
      ∧ (s.debuggable p = false → t.fe.claim = s.fe.claim ∧ t.fe.opStatus = 1)
      ∧ (s.debuggable p = true → s.fe.claim ≠ none → t.fe.claim = s.fe.claim ∧ t.fe.opStatus = 4)
      ∧ (s.debuggable p = true → s.fe.claim = none → t.fe.claim = some p ∧ t.fe.opStatus = 0)
      ∧ t.groups = s.groups ∧ u.groups = s.groups ∧ SameBytes s t ∧ SameBytes s u)
  ∧ (∀ s m gid n i op, (i = .debugResume m gid n ∧ op = 3 ∨ i = .debugReleaseToHandler m gid n ∧ op = 4) → s.recovering = false → s.isOwner m = true →
    let r := s.renewLease.holdDbgctl op 0 gid n
    (s.named gid n = [] → exec i s = .next (r.updFe fun f => { f with opStatus := 2 }))
    ∧ (∀ g l, s.named gid n = g :: l → tcfgDebug (s.tenant g.tenant).tcfg = false →
        exec i s = .next (r.updFe fun f => { f with opStatus := 1 }))
    ∧ (∀ g, s.named gid n = [g] → tcfgDebug (s.tenant g.tenant).tcfg = true → g.halted = false →
        exec i s = .next (r.updFe fun f => { f with opStatus := 3 })))
  ∧ (∀ s m gid n gk g f imm, s.recovering = false → s.isOwner m = true → s.named gid n = [g] → tcfgDebug (s.tenant g.tenant).tcfg = true →
    g.halted = true → s.group gk = some g → s.swapped = [] → Tab.wf s.groups = true → (∀ y ∈ s.groups, y.2.unit = g.unit → y.1 = gk) →
    g.frags = [f] → f.wait = .bkpt imm →
    (∃ t h, exec (.debugResume m gid n) s = .next t ∧ t.group gk = some h ∧ h.halted = false ∧ h.frags = [f.advance] ∧ h.trap = g.trap ∧ h.regs = g.regs
      ∧ t.fe.opStatus = 0 ∧ OtherGroups s t gk ∧ SameBytes s t)
    ∧ (g.trap.plevel = 0 → g.trap.hvec ≠ 0 → (∀ k, g.unit ≠ .slalom k) →
      ∃ t h, exec (.debugReleaseToHandler m gid n) s = .next t ∧ t.group gk = some h ∧ h.halted = false ∧ h.trap.plevel = 1
        ∧ h.trap.epc = BitVec.ofNat 64 f.addr ∧ h.trap.einfo = BitVec.ofNat 32 (2 ^ 24 * 14 + imm % 2 ^ 24) ∧ h.trap.cause.getLsbD 14 = true
        ∧ h.regs = g.regs ∧ t.fe.opStatus = 0 ∧ OtherGroups s t gk ∧ SameBytes s t))
  ∧ (∀ s m (v : W64), s.recovering = false → s.isOwner m = true →
    ((v.getLsbD 63 = false ∨ s.fe.dbgRead ≠ none) → exec (.dbgrd m v) s = .next s.renewLease)
    ∧ (v.getLsbD 63 = true → s.fe.dbgRead = none →
        let n := bits v 7 0
        let b := bits v 31 8
        let l := s.layer (n / 64) (layerOfByte b)
        ∃ t st, exec (.dbgrd m v) s = .next t ∧ t.fe = { s.fe with leaseFrom := s.clock, dbgRead := some (n, b, st) } ∧ t.groups = s.groups
          ∧ SameBytes s t ∧ (s.dbgExtent n b = none → st = 3)
          ∧ (s.dbgExtent n b ≠ none → 2 ≤ l.target → st = 2)
          ∧ (s.dbgExtent n b ≠ none → l.target = 1 → st = 1)
          ∧ (s.dbgExtent n b ≠ none → l.target = 0 → st = 0)))
  ∧ (∀ s, (s.fe.dbgRead = none → exec .dbgrdDone s = .next s)
    ∧ (∀ n b st, s.fe.dbgRead = some (n, b, st) →
        let l := s.layer (n / 64) (layerOfByte b)
        let waits : Prop := st ≤ 1 ∧ l.target ≠ 2 ∧ (l.state ≠ 0 ∨ st = 1 ∧ l.target ≠ 0)
        (waits → ∃ t, exec .dbgrdDone s = .next t ∧ t.fe = s.fe ∧ t.groups = s.groups ∧ SameBytes s t)
        ∧ (¬ waits →
          ∃ t, exec .dbgrdDone s = .next t ∧ t.fe.dbgRead = none ∧ t.groups = s.groups ∧ SameBytes s t
            ∧ (st = 3 → t.fe.rdStatus = 3 ∧ t.fe.dbgData = s.fe.dbgData)
            ∧ ((st = 2 ∨ st ≤ 1 ∧ l.state = 2) → t.fe.rdStatus = 2 ∧ t.fe.dbgData = 0)
            ∧ (st ≤ 1 → l.state ≠ 2 → s.badAt (storeAddr n b) = true → t.fe.rdStatus = 4)
            ∧ (∀ x, st ≤ 1 → l.state ≠ 2 → s.dbgExtent n b = some x → s.badAt (storeAddr n b) = false → t.fe.rdStatus = st
                ∧ (x.addressed = true → t.fe.dbgData.toNat = s.readHomeNat (storeAddr n b) 8)))))

/-- Clocks, cooling and power (R6, R474, R485): a die steps its clock down to 1.5 GHz at most, and not while a reserved partition has a cluster on it, and up to
2.25 GHz at most, and not while a trip holds it; a thermal trip holds the die at 1.5 GHz for 100 ms, and writes nothing but the records of the
reservations that it ends; a critical temperature halts every valid partition and takes the power away; a power failure takes the power of
the management logic too. The records need not wait (log 40). -/
def Sys2Proof.Claims.ClocksAndPower : Prop :=
  (∀ s d, d < 4 →
    (s.dieReserved d = true → exec (.clockStepDown d) s = .next s) ∧ ((s.die d).tripped ≠ none → exec (.clockStepUp d) s = .next s)
    ∧ ((thermalTrip s d).stall = s.stall →
      ∃ t u v, exec (.clockStepDown d) s = .next t ∧ exec (.clockStepUp d) s = .next u ∧ exec (.thermalTrip d) s = .next v
      ∧ (s.dieReserved d = false → t.die d = { s.die d with clk := max 6 ((s.die d).clk - 1) })
      ∧ ((s.die d).tripped = none → u.die d = { s.die d with clk := min 9 ((s.die d).clk + 1) })
      ∧ (v.die d).clk = 6 ∧ (v.die d).tripped = some (s.clock + 225000000) ∧ (Tab.wf s.parts = true → v.dieReserved d = false)
      ∧ t.groups = s.groups ∧ u.groups = s.groups ∧ v.groups = s.groups ∧ SameBytes s t ∧ SameBytes s u
      ∧ (s.dieReserved d = false → SameBytes s v)))
  ∧ (∀ s d, ((s.die d).tripped = none → exec (.tripHoldExpire d) s = .next s)
    ∧ (∀ n, (s.die d).tripped = some n → (s.clock < n → exec (.tripHoldExpire d) s = .next s)
        ∧ (n ≤ s.clock → ∃ t, exec (.tripHoldExpire d) s = .next t ∧ (t.die d).tripped = none ∧ t.groups = s.groups ∧ SameBytes s t)))
  ∧ (∀ s d, d < 4 → (thermalCritical s).stall = s.stall → ∃ t, exec (.thermalCritical d) s = .next t ∧ t.power = false ∧ t.groups = s.groups
    ∧ ∀ p x, Tab.find s.parts p = some x → x.valid = true → (t.partn p).halted = true)
  ∧ (∀ s, ∃ t, exec .powerFailure s = .next t ∧ t.power = false ∧ t.plat.mgmtOn = false ∧ t.plat.fwBusy = none ∧ SameBytes s t
    ∧ (s.plat.fwBusy = none → t.plat.flash = s.plat.flash))

/-- The debugger, clocks and power (R482-R485). -/
def Obligations.DebugAndPower : Prop := Debugs ∧ ClocksAndPower

/-! ## The step (R58, R99; log 1) -/

/-- The fragments that an issue cycle of a core chooses among (R99): the eligible ones that do not pause, or, where all
pause, the eligible ones. -/
def Sys2Proof.Claims.candidates (s : State) (core : Nat) : List (Nat × Group × Frag) :=
  let ready := (s.fragsOn core).filter fun x => s.mayIssue x.1 x.2.1 x.2.2
  if (ready.filter fun x => !x.2.2.paused).isEmpty then ready else ready.filter fun x => !x.2.2.paused

/-- The next turn is an issue cycle of core `core`, which selects fragment `f` of the group `g` in slot `gk`, with nothing
to deliver in place of its word and no SPACE due to its last one (R155); `a` is the state after the selection, with the group and the fragment as they then are. -/
structure Sys2Proof.Claims.Selects (s : State) (core gk : Nat) (f0 : Frag) (a : State) (g : Group) (f : Frag) : Prop where
  turn : s.nextTurn.act = .issue core
  power : s.powered = true
  quiet : ∀ x ∈ s.begin.fragsOn core,
    (x.2.1.timeoutDue && !s.begin.stopped x.2.1 && x.2.2.free && s.begin.timedOut x.2.1 x.2.2) = false
  picked : ∃ g0, pickFrag (candidates s.begin core) = some (gk, g0, f0)
    ∧ (f0.atWord = true → (dueCauses g0.trap = [] ∨ g0.trap.plevel ≠ 0) ∧ g0.uiDue = false)
  after : a = { s.begin.aged core (candidates s.begin core) (some (gk, f0.id)) with sel := some { gk := gk, fid := f0.id } }
  group : a.group gk = some g
  frag : g.frag f0.id = some f
  allowed : f.denial = none

/-- A step runs the word at the program counter (R51, R58, R99). Where the next turn is an issue cycle that selects a
fragment at a word of a clause whose header has been read, and the eight bytes at its address, little-endian in home memory
under the fragment's translation with execute permission, decode to an instruction, the step is that instruction's exec at
that fragment, and what holds after every turn; at a clause's header it is CLAUSE_HEADER of the header read; a word that does
not decode raises ILLEGAL, with no effect. The fetch meets no error, and a fetch that must wait leaves all as it was but for its requests (log 40). Where the next turn is an event, the step is the event's exec. A machine without
power stops, but for package reset and the management logic's own events. -/
def Obligations.StepRunsDecodedWord : Prop :=
  (∀ s core gk f0 a g f h w i t va pa, Selects s core gk f0 a g f → f.word ≠ 0 → f.hw = some h →
    (∀ n, g.unit ≠ .slalom n) → globalBody (BitVec.ofNat 64 f.addr) = some va →
    a.translate (coreOf gk) (g.setFrag { f with hw := some h }).tenant (g.setFrag { f with hw := some h }).asid va permX = (t, .ok pa) →
    w = BitVec.ofNat 64 (t.readHomeNat pa 8) → (∀ n < 8, t.errAt (pa + n) = false) →
    (t.stall = true → a.stall = false → step s = .next { a with stall := true, asks := t.asks }.settle)
    ∧ (t.stall = a.stall → decodeWord w = .ok i → ((Instr.flagSel i).isSome && t.departing gk (g.setFrag { f with hw := some h })) = false →
      step s = settleOut (exec i { t.setGroup gk (g.setFrag { f with hw := some h }) with sel := some { gk := gk, fid := f.id } })
      ∧ selected { t.setGroup gk (g.setFrag { f with hw := some h }) with sel := some { gk := gk, fid := f.id } }
          = some (gk, g.setFrag { f with hw := some h }, { f with hw := some h }))
    ∧ (∀ e, t.stall = a.stall → decodeWord w = .error e →
        step s = .next (takeTrap t gk (g.setFrag { f with hw := some h }) { f with hw := some h } [plainCause 0]).settle))
  ∧ (∀ s core gk f0 a g f n l gr w h i, Selects s core gk f0 a g f → f.word ≠ 0 → f.hw = some h → g.unit = .slalom n →
    a.plat.bad = [] → (a.core (coreOf gk)).leap = some l → a.grid n = some gr →
    w = BitVec.ofNat 64 (leNat (Memory.readN l.store (f.addr - gr.code.toNat) 8)) → decodeWord w = .ok i →
    ((Instr.flagSel i).isSome && a.departing gk (g.setFrag { f with hw := some h })) = false →
    step s = settleOut (exec i { a.setGroup gk (g.setFrag { f with hw := some h }) with sel := some { gk := gk, fid := f.id } }))
  ∧ (∀ s core gk f0 a g f va t pa h, Selects s core gk f0 a g f → f.word = 0 → f.hw = none → (∀ n, g.unit ≠ .slalom n) →
    f.hdr % 8 = 0 → globalBody (BitVec.ofNat 64 f.hdr) = some va →
    a.translate (coreOf gk) g.tenant g.asid va permX = (t, .ok pa) →
    decodeHeader (BitVec.ofNat 64 (t.readHomeNat pa 8)) = .ok h → (∀ n < 8, t.errAt (pa + n) = false) → t.stall = a.stall →
    step s = settleOut (exec (.clauseHeader h) { t with sel := some { gk := gk, fid := f.id } }))
  ∧ (∀ s i, s.powered = true → s.nextTurn.act = .event i → step s = settleOut (exec i s.begin))
  ∧ ∀ s, s.powered = false → step s = .fault .noPower

/-- Every step that answers a next state keeps the memories canonical, whatever the turn, in every state; and they are
canonical at reset. Equal memories are equal data. -/
def Obligations.StepKeepsMemoryCanonical : Prop :=
  (∀ s t, Canonical s → step s = .next t → Canonical t) ∧ Canonical State.reset
end

