-- ==== Sys2Proof/Laws/State.lean ====
section
/-! SUPPORT. What each update of the state leaves as it was: one lemma per field and update. -/
namespace Sys2Proof.Machine

/-! `State.setGroup` changes `groups` alone. -/
@[simp] theorem State.setGroup_sched (s : State) (gk : Nat) (g : Group) : (s.setGroup gk g).sched = s.sched := rfl
@[simp] theorem State.setGroup_turnNo (s : State) (gk : Nat) (g : Group) : (s.setGroup gk g).turnNo = s.turnNo := rfl
@[simp] theorem State.setGroup_freeCtr (s : State) (gk : Nat) (g : Group) : (s.setGroup gk g).freeCtr = s.freeCtr := rfl
@[simp] theorem State.setGroup_nextUid (s : State) (gk : Nat) (g : Group) : (s.setGroup gk g).nextUid = s.nextUid := rfl
@[simp] theorem State.setGroup_sel (s : State) (gk : Nat) (g : Group) : (s.setGroup gk g).sel = s.sel := rfl
@[simp] theorem State.setGroup_clock (s : State) (gk : Nat) (g : Group) : (s.setGroup gk g).clock = s.clock := rfl
@[simp] theorem State.setGroup_power (s : State) (gk : Nat) (g : Group) : (s.setGroup gk g).power = s.power := rfl
@[simp] theorem State.setGroup_stall (s : State) (gk : Nat) (g : Group) : (s.setGroup gk g).stall = s.stall := rfl
@[simp] theorem State.setGroup_acting (s : State) (gk : Nat) (g : Group) : (s.setGroup gk g).acting = s.acting := rfl
@[simp] theorem State.setGroup_asks (s : State) (gk : Nat) (g : Group) : (s.setGroup gk g).asks = s.asks := rfl
@[simp] theorem State.setGroup_granted (s : State) (gk : Nat) (g : Group) : (s.setGroup gk g).granted = s.granted := rfl
@[simp] theorem State.setGroup_peerNo (s : State) (gk : Nat) (g : Group) : (s.setGroup gk g).peerNo = s.peerNo := rfl
@[simp] theorem State.setGroup_liveCl (s : State) (gk : Nat) (g : Group) : (s.setGroup gk g).liveCl = s.liveCl := rfl
@[simp] theorem State.setGroup_liveSl (s : State) (gk : Nat) (g : Group) : (s.setGroup gk g).liveSl = s.liveSl := rfl
@[simp] theorem State.setGroup_teams (s : State) (gk : Nat) (g : Group) : (s.setGroup gk g).teams = s.teams := rfl
@[simp] theorem State.setGroup_grids (s : State) (gk : Nat) (g : Group) : (s.setGroup gk g).grids = s.grids := rfl
@[simp] theorem State.setGroup_cores (s : State) (gk : Nat) (g : Group) : (s.setGroup gk g).cores = s.cores := rfl
@[simp] theorem State.setGroup_clusters (s : State) (gk : Nat) (g : Group) : (s.setGroup gk g).clusters = s.clusters := rfl
@[simp] theorem State.setGroup_sendRings (s : State) (gk : Nat) (g : Group) : (s.setGroup gk g).sendRings = s.sendRings := rfl
@[simp] theorem State.setGroup_dies (s : State) (gk : Nat) (g : Group) : (s.setGroup gk g).dies = s.dies := rfl
@[simp] theorem State.setGroup_slices (s : State) (gk : Nat) (g : Group) : (s.setGroup gk g).slices = s.slices := rfl
@[simp] theorem State.setGroup_tenants (s : State) (gk : Nat) (g : Group) : (s.setGroup gk g).tenants = s.tenants := rfl
@[simp] theorem State.setGroup_trigs (s : State) (gk : Nat) (g : Group) : (s.setGroup gk g).trigs = s.trigs := rfl
@[simp] theorem State.setGroup_counts (s : State) (gk : Nat) (g : Group) : (s.setGroup gk g).counts = s.counts := rfl
@[simp] theorem State.setGroup_taskqs (s : State) (gk : Nat) (g : Group) : (s.setGroup gk g).taskqs = s.taskqs := rfl
@[simp] theorem State.setGroup_swapped (s : State) (gk : Nat) (g : Group) : (s.setGroup gk g).swapped = s.swapped := rfl
@[simp] theorem State.setGroup_kills (s : State) (gk : Nat) (g : Group) : (s.setGroup gk g).kills = s.kills := rfl
@[simp] theorem State.setGroup_captures (s : State) (gk : Nat) (g : Group) : (s.setGroup gk g).captures = s.captures := rfl
@[simp] theorem State.setGroup_held (s : State) (gk : Nat) (g : Group) : (s.setGroup gk g).held = s.held := rfl
@[simp] theorem State.setGroup_parts (s : State) (gk : Nat) (g : Group) : (s.setGroup gk g).parts = s.parts := rfl
@[simp] theorem State.setGroup_hostqs (s : State) (gk : Nat) (g : Group) : (s.setGroup gk g).hostqs = s.hostqs := rfl
@[simp] theorem State.setGroup_packets (s : State) (gk : Nat) (g : Group) : (s.setGroup gk g).packets = s.packets := rfl
@[simp] theorem State.setGroup_fe (s : State) (gk : Nat) (g : Group) : (s.setGroup gk g).fe = s.fe := rfl
@[simp] theorem State.setGroup_plat (s : State) (gk : Nat) (g : Group) : (s.setGroup gk g).plat = s.plat := rfl
@[simp] theorem State.setGroup_msix (s : State) (gk : Nat) (g : Group) : (s.setGroup gk g).msix = s.msix := rfl
@[simp] theorem State.setGroup_mem (s : State) (gk : Nat) (g : Group) : (s.setGroup gk g).mem = s.mem := rfl
@[simp] theorem State.setGroup_storeMem (s : State) (gk : Nat) (g : Group) : (s.setGroup gk g).storeMem = s.storeMem := rfl
@[simp] theorem State.setGroup_scratch (s : State) (gk : Nat) (g : Group) : (s.setGroup gk g).scratch = s.scratch := rfl
@[simp] theorem State.setGroup_tags (s : State) (gk : Nat) (g : Group) : (s.setGroup gk g).tags = s.tags := rfl

/-! `State.updGroup` changes `groups` alone. -/
@[simp] theorem State.updGroup_sched (s : State) (gk : Nat) (f : Group → Group) : (s.updGroup gk f).sched = s.sched := rfl
@[simp] theorem State.updGroup_turnNo (s : State) (gk : Nat) (f : Group → Group) : (s.updGroup gk f).turnNo = s.turnNo := rfl
@[simp] theorem State.updGroup_freeCtr (s : State) (gk : Nat) (f : Group → Group) : (s.updGroup gk f).freeCtr = s.freeCtr := rfl
@[simp] theorem State.updGroup_nextUid (s : State) (gk : Nat) (f : Group → Group) : (s.updGroup gk f).nextUid = s.nextUid := rfl
@[simp] theorem State.updGroup_sel (s : State) (gk : Nat) (f : Group → Group) : (s.updGroup gk f).sel = s.sel := rfl
@[simp] theorem State.updGroup_clock (s : State) (gk : Nat) (f : Group → Group) : (s.updGroup gk f).clock = s.clock := rfl
@[simp] theorem State.updGroup_power (s : State) (gk : Nat) (f : Group → Group) : (s.updGroup gk f).power = s.power := rfl
@[simp] theorem State.updGroup_stall (s : State) (gk : Nat) (f : Group → Group) : (s.updGroup gk f).stall = s.stall := rfl
@[simp] theorem State.updGroup_acting (s : State) (gk : Nat) (f : Group → Group) : (s.updGroup gk f).acting = s.acting := rfl
@[simp] theorem State.updGroup_asks (s : State) (gk : Nat) (f : Group → Group) : (s.updGroup gk f).asks = s.asks := rfl
@[simp] theorem State.updGroup_granted (s : State) (gk : Nat) (f : Group → Group) : (s.updGroup gk f).granted = s.granted := rfl
@[simp] theorem State.updGroup_peerNo (s : State) (gk : Nat) (f : Group → Group) : (s.updGroup gk f).peerNo = s.peerNo := rfl
@[simp] theorem State.updGroup_liveCl (s : State) (gk : Nat) (f : Group → Group) : (s.updGroup gk f).liveCl = s.liveCl := rfl
@[simp] theorem State.updGroup_liveSl (s : State) (gk : Nat) (f : Group → Group) : (s.updGroup gk f).liveSl = s.liveSl := rfl
@[simp] theorem State.updGroup_teams (s : State) (gk : Nat) (f : Group → Group) : (s.updGroup gk f).teams = s.teams := rfl
@[simp] theorem State.updGroup_grids (s : State) (gk : Nat) (f : Group → Group) : (s.updGroup gk f).grids = s.grids := rfl
@[simp] theorem State.updGroup_cores (s : State) (gk : Nat) (f : Group → Group) : (s.updGroup gk f).cores = s.cores := rfl
@[simp] theorem State.updGroup_clusters (s : State) (gk : Nat) (f : Group → Group) : (s.updGroup gk f).clusters = s.clusters := rfl
@[simp] theorem State.updGroup_sendRings (s : State) (gk : Nat) (f : Group → Group) : (s.updGroup gk f).sendRings = s.sendRings := rfl
@[simp] theorem State.updGroup_dies (s : State) (gk : Nat) (f : Group → Group) : (s.updGroup gk f).dies = s.dies := rfl
@[simp] theorem State.updGroup_slices (s : State) (gk : Nat) (f : Group → Group) : (s.updGroup gk f).slices = s.slices := rfl
@[simp] theorem State.updGroup_tenants (s : State) (gk : Nat) (f : Group → Group) : (s.updGroup gk f).tenants = s.tenants := rfl
@[simp] theorem State.updGroup_trigs (s : State) (gk : Nat) (f : Group → Group) : (s.updGroup gk f).trigs = s.trigs := rfl
@[simp] theorem State.updGroup_counts (s : State) (gk : Nat) (f : Group → Group) : (s.updGroup gk f).counts = s.counts := rfl
@[simp] theorem State.updGroup_taskqs (s : State) (gk : Nat) (f : Group → Group) : (s.updGroup gk f).taskqs = s.taskqs := rfl
@[simp] theorem State.updGroup_swapped (s : State) (gk : Nat) (f : Group → Group) : (s.updGroup gk f).swapped = s.swapped := rfl
@[simp] theorem State.updGroup_kills (s : State) (gk : Nat) (f : Group → Group) : (s.updGroup gk f).kills = s.kills := rfl
@[simp] theorem State.updGroup_captures (s : State) (gk : Nat) (f : Group → Group) : (s.updGroup gk f).captures = s.captures := rfl
@[simp] theorem State.updGroup_held (s : State) (gk : Nat) (f : Group → Group) : (s.updGroup gk f).held = s.held := rfl
@[simp] theorem State.updGroup_parts (s : State) (gk : Nat) (f : Group → Group) : (s.updGroup gk f).parts = s.parts := rfl
@[simp] theorem State.updGroup_hostqs (s : State) (gk : Nat) (f : Group → Group) : (s.updGroup gk f).hostqs = s.hostqs := rfl
@[simp] theorem State.updGroup_packets (s : State) (gk : Nat) (f : Group → Group) : (s.updGroup gk f).packets = s.packets := rfl
@[simp] theorem State.updGroup_fe (s : State) (gk : Nat) (f : Group → Group) : (s.updGroup gk f).fe = s.fe := rfl
@[simp] theorem State.updGroup_plat (s : State) (gk : Nat) (f : Group → Group) : (s.updGroup gk f).plat = s.plat := rfl
@[simp] theorem State.updGroup_msix (s : State) (gk : Nat) (f : Group → Group) : (s.updGroup gk f).msix = s.msix := rfl
@[simp] theorem State.updGroup_mem (s : State) (gk : Nat) (f : Group → Group) : (s.updGroup gk f).mem = s.mem := rfl
@[simp] theorem State.updGroup_storeMem (s : State) (gk : Nat) (f : Group → Group) : (s.updGroup gk f).storeMem = s.storeMem := rfl
@[simp] theorem State.updGroup_scratch (s : State) (gk : Nat) (f : Group → Group) : (s.updGroup gk f).scratch = s.scratch := rfl
@[simp] theorem State.updGroup_tags (s : State) (gk : Nat) (f : Group → Group) : (s.updGroup gk f).tags = s.tags := rfl

/-! `State.updTeam` changes `teams` alone. -/
@[simp] theorem State.updTeam_sched (s : State) (tk : Nat) (f : Team → Team) : (s.updTeam tk f).sched = s.sched := rfl
@[simp] theorem State.updTeam_turnNo (s : State) (tk : Nat) (f : Team → Team) : (s.updTeam tk f).turnNo = s.turnNo := rfl
@[simp] theorem State.updTeam_freeCtr (s : State) (tk : Nat) (f : Team → Team) : (s.updTeam tk f).freeCtr = s.freeCtr := rfl
@[simp] theorem State.updTeam_nextUid (s : State) (tk : Nat) (f : Team → Team) : (s.updTeam tk f).nextUid = s.nextUid := rfl
@[simp] theorem State.updTeam_sel (s : State) (tk : Nat) (f : Team → Team) : (s.updTeam tk f).sel = s.sel := rfl
@[simp] theorem State.updTeam_clock (s : State) (tk : Nat) (f : Team → Team) : (s.updTeam tk f).clock = s.clock := rfl
@[simp] theorem State.updTeam_power (s : State) (tk : Nat) (f : Team → Team) : (s.updTeam tk f).power = s.power := rfl
@[simp] theorem State.updTeam_stall (s : State) (tk : Nat) (f : Team → Team) : (s.updTeam tk f).stall = s.stall := rfl
@[simp] theorem State.updTeam_acting (s : State) (tk : Nat) (f : Team → Team) : (s.updTeam tk f).acting = s.acting := rfl
@[simp] theorem State.updTeam_asks (s : State) (tk : Nat) (f : Team → Team) : (s.updTeam tk f).asks = s.asks := rfl
@[simp] theorem State.updTeam_granted (s : State) (tk : Nat) (f : Team → Team) : (s.updTeam tk f).granted = s.granted := rfl
@[simp] theorem State.updTeam_peerNo (s : State) (tk : Nat) (f : Team → Team) : (s.updTeam tk f).peerNo = s.peerNo := rfl
@[simp] theorem State.updTeam_liveCl (s : State) (tk : Nat) (f : Team → Team) : (s.updTeam tk f).liveCl = s.liveCl := rfl
@[simp] theorem State.updTeam_liveSl (s : State) (tk : Nat) (f : Team → Team) : (s.updTeam tk f).liveSl = s.liveSl := rfl
@[simp] theorem State.updTeam_groups (s : State) (tk : Nat) (f : Team → Team) : (s.updTeam tk f).groups = s.groups := rfl
@[simp] theorem State.updTeam_grids (s : State) (tk : Nat) (f : Team → Team) : (s.updTeam tk f).grids = s.grids := rfl
@[simp] theorem State.updTeam_cores (s : State) (tk : Nat) (f : Team → Team) : (s.updTeam tk f).cores = s.cores := rfl
@[simp] theorem State.updTeam_clusters (s : State) (tk : Nat) (f : Team → Team) : (s.updTeam tk f).clusters = s.clusters := rfl
@[simp] theorem State.updTeam_sendRings (s : State) (tk : Nat) (f : Team → Team) : (s.updTeam tk f).sendRings = s.sendRings := rfl
@[simp] theorem State.updTeam_dies (s : State) (tk : Nat) (f : Team → Team) : (s.updTeam tk f).dies = s.dies := rfl
@[simp] theorem State.updTeam_slices (s : State) (tk : Nat) (f : Team → Team) : (s.updTeam tk f).slices = s.slices := rfl
@[simp] theorem State.updTeam_tenants (s : State) (tk : Nat) (f : Team → Team) : (s.updTeam tk f).tenants = s.tenants := rfl
@[simp] theorem State.updTeam_trigs (s : State) (tk : Nat) (f : Team → Team) : (s.updTeam tk f).trigs = s.trigs := rfl
@[simp] theorem State.updTeam_counts (s : State) (tk : Nat) (f : Team → Team) : (s.updTeam tk f).counts = s.counts := rfl
@[simp] theorem State.updTeam_taskqs (s : State) (tk : Nat) (f : Team → Team) : (s.updTeam tk f).taskqs = s.taskqs := rfl
@[simp] theorem State.updTeam_swapped (s : State) (tk : Nat) (f : Team → Team) : (s.updTeam tk f).swapped = s.swapped := rfl
@[simp] theorem State.updTeam_kills (s : State) (tk : Nat) (f : Team → Team) : (s.updTeam tk f).kills = s.kills := rfl
@[simp] theorem State.updTeam_captures (s : State) (tk : Nat) (f : Team → Team) : (s.updTeam tk f).captures = s.captures := rfl
@[simp] theorem State.updTeam_held (s : State) (tk : Nat) (f : Team → Team) : (s.updTeam tk f).held = s.held := rfl
@[simp] theorem State.updTeam_parts (s : State) (tk : Nat) (f : Team → Team) : (s.updTeam tk f).parts = s.parts := rfl
@[simp] theorem State.updTeam_hostqs (s : State) (tk : Nat) (f : Team → Team) : (s.updTeam tk f).hostqs = s.hostqs := rfl
@[simp] theorem State.updTeam_packets (s : State) (tk : Nat) (f : Team → Team) : (s.updTeam tk f).packets = s.packets := rfl
@[simp] theorem State.updTeam_fe (s : State) (tk : Nat) (f : Team → Team) : (s.updTeam tk f).fe = s.fe := rfl
@[simp] theorem State.updTeam_plat (s : State) (tk : Nat) (f : Team → Team) : (s.updTeam tk f).plat = s.plat := rfl
@[simp] theorem State.updTeam_msix (s : State) (tk : Nat) (f : Team → Team) : (s.updTeam tk f).msix = s.msix := rfl
@[simp] theorem State.updTeam_mem (s : State) (tk : Nat) (f : Team → Team) : (s.updTeam tk f).mem = s.mem := rfl
@[simp] theorem State.updTeam_storeMem (s : State) (tk : Nat) (f : Team → Team) : (s.updTeam tk f).storeMem = s.storeMem := rfl
@[simp] theorem State.updTeam_scratch (s : State) (tk : Nat) (f : Team → Team) : (s.updTeam tk f).scratch = s.scratch := rfl
@[simp] theorem State.updTeam_tags (s : State) (tk : Nat) (f : Team → Team) : (s.updTeam tk f).tags = s.tags := rfl

/-! `State.updCore` changes `cores` alone. -/
@[simp] theorem State.updCore_sched (s : State) (c : Nat) (f : CoreSt → CoreSt) : (s.updCore c f).sched = s.sched := rfl
@[simp] theorem State.updCore_turnNo (s : State) (c : Nat) (f : CoreSt → CoreSt) : (s.updCore c f).turnNo = s.turnNo := rfl
@[simp] theorem State.updCore_freeCtr (s : State) (c : Nat) (f : CoreSt → CoreSt) : (s.updCore c f).freeCtr = s.freeCtr := rfl
@[simp] theorem State.updCore_nextUid (s : State) (c : Nat) (f : CoreSt → CoreSt) : (s.updCore c f).nextUid = s.nextUid := rfl
@[simp] theorem State.updCore_sel (s : State) (c : Nat) (f : CoreSt → CoreSt) : (s.updCore c f).sel = s.sel := rfl
@[simp] theorem State.updCore_clock (s : State) (c : Nat) (f : CoreSt → CoreSt) : (s.updCore c f).clock = s.clock := rfl
@[simp] theorem State.updCore_power (s : State) (c : Nat) (f : CoreSt → CoreSt) : (s.updCore c f).power = s.power := rfl
@[simp] theorem State.updCore_stall (s : State) (c : Nat) (f : CoreSt → CoreSt) : (s.updCore c f).stall = s.stall := rfl
@[simp] theorem State.updCore_acting (s : State) (c : Nat) (f : CoreSt → CoreSt) : (s.updCore c f).acting = s.acting := rfl
@[simp] theorem State.updCore_asks (s : State) (c : Nat) (f : CoreSt → CoreSt) : (s.updCore c f).asks = s.asks := rfl
@[simp] theorem State.updCore_granted (s : State) (c : Nat) (f : CoreSt → CoreSt) : (s.updCore c f).granted = s.granted := rfl
@[simp] theorem State.updCore_peerNo (s : State) (c : Nat) (f : CoreSt → CoreSt) : (s.updCore c f).peerNo = s.peerNo := rfl
@[simp] theorem State.updCore_liveCl (s : State) (c : Nat) (f : CoreSt → CoreSt) : (s.updCore c f).liveCl = s.liveCl := rfl
@[simp] theorem State.updCore_liveSl (s : State) (c : Nat) (f : CoreSt → CoreSt) : (s.updCore c f).liveSl = s.liveSl := rfl
@[simp] theorem State.updCore_groups (s : State) (c : Nat) (f : CoreSt → CoreSt) : (s.updCore c f).groups = s.groups := rfl
@[simp] theorem State.updCore_teams (s : State) (c : Nat) (f : CoreSt → CoreSt) : (s.updCore c f).teams = s.teams := rfl
@[simp] theorem State.updCore_grids (s : State) (c : Nat) (f : CoreSt → CoreSt) : (s.updCore c f).grids = s.grids := rfl
@[simp] theorem State.updCore_clusters (s : State) (c : Nat) (f : CoreSt → CoreSt) : (s.updCore c f).clusters = s.clusters := rfl
@[simp] theorem State.updCore_sendRings (s : State) (c : Nat) (f : CoreSt → CoreSt) : (s.updCore c f).sendRings = s.sendRings := rfl
@[simp] theorem State.updCore_dies (s : State) (c : Nat) (f : CoreSt → CoreSt) : (s.updCore c f).dies = s.dies := rfl
@[simp] theorem State.updCore_slices (s : State) (c : Nat) (f : CoreSt → CoreSt) : (s.updCore c f).slices = s.slices := rfl
@[simp] theorem State.updCore_tenants (s : State) (c : Nat) (f : CoreSt → CoreSt) : (s.updCore c f).tenants = s.tenants := rfl
@[simp] theorem State.updCore_trigs (s : State) (c : Nat) (f : CoreSt → CoreSt) : (s.updCore c f).trigs = s.trigs := rfl
@[simp] theorem State.updCore_counts (s : State) (c : Nat) (f : CoreSt → CoreSt) : (s.updCore c f).counts = s.counts := rfl
@[simp] theorem State.updCore_taskqs (s : State) (c : Nat) (f : CoreSt → CoreSt) : (s.updCore c f).taskqs = s.taskqs := rfl
@[simp] theorem State.updCore_swapped (s : State) (c : Nat) (f : CoreSt → CoreSt) : (s.updCore c f).swapped = s.swapped := rfl
@[simp] theorem State.updCore_kills (s : State) (c : Nat) (f : CoreSt → CoreSt) : (s.updCore c f).kills = s.kills := rfl
@[simp] theorem State.updCore_captures (s : State) (c : Nat) (f : CoreSt → CoreSt) : (s.updCore c f).captures = s.captures := rfl
@[simp] theorem State.updCore_held (s : State) (c : Nat) (f : CoreSt → CoreSt) : (s.updCore c f).held = s.held := rfl
@[simp] theorem State.updCore_parts (s : State) (c : Nat) (f : CoreSt → CoreSt) : (s.updCore c f).parts = s.parts := rfl
@[simp] theorem State.updCore_hostqs (s : State) (c : Nat) (f : CoreSt → CoreSt) : (s.updCore c f).hostqs = s.hostqs := rfl
@[simp] theorem State.updCore_packets (s : State) (c : Nat) (f : CoreSt → CoreSt) : (s.updCore c f).packets = s.packets := rfl
@[simp] theorem State.updCore_fe (s : State) (c : Nat) (f : CoreSt → CoreSt) : (s.updCore c f).fe = s.fe := rfl
@[simp] theorem State.updCore_plat (s : State) (c : Nat) (f : CoreSt → CoreSt) : (s.updCore c f).plat = s.plat := rfl
@[simp] theorem State.updCore_msix (s : State) (c : Nat) (f : CoreSt → CoreSt) : (s.updCore c f).msix = s.msix := rfl
@[simp] theorem State.updCore_mem (s : State) (c : Nat) (f : CoreSt → CoreSt) : (s.updCore c f).mem = s.mem := rfl
@[simp] theorem State.updCore_storeMem (s : State) (c : Nat) (f : CoreSt → CoreSt) : (s.updCore c f).storeMem = s.storeMem := rfl
@[simp] theorem State.updCore_scratch (s : State) (c : Nat) (f : CoreSt → CoreSt) : (s.updCore c f).scratch = s.scratch := rfl
@[simp] theorem State.updCore_tags (s : State) (c : Nat) (f : CoreSt → CoreSt) : (s.updCore c f).tags = s.tags := rfl

/-! `State.updCluster` changes `clusters` alone. -/
@[simp] theorem State.updCluster_sched (s : State) (c : Nat) (f : ClusterSt → ClusterSt) : (s.updCluster c f).sched = s.sched := rfl
@[simp] theorem State.updCluster_turnNo (s : State) (c : Nat) (f : ClusterSt → ClusterSt) : (s.updCluster c f).turnNo = s.turnNo := rfl
@[simp] theorem State.updCluster_freeCtr (s : State) (c : Nat) (f : ClusterSt → ClusterSt) : (s.updCluster c f).freeCtr = s.freeCtr := rfl
@[simp] theorem State.updCluster_nextUid (s : State) (c : Nat) (f : ClusterSt → ClusterSt) : (s.updCluster c f).nextUid = s.nextUid := rfl
@[simp] theorem State.updCluster_sel (s : State) (c : Nat) (f : ClusterSt → ClusterSt) : (s.updCluster c f).sel = s.sel := rfl
@[simp] theorem State.updCluster_clock (s : State) (c : Nat) (f : ClusterSt → ClusterSt) : (s.updCluster c f).clock = s.clock := rfl
@[simp] theorem State.updCluster_power (s : State) (c : Nat) (f : ClusterSt → ClusterSt) : (s.updCluster c f).power = s.power := rfl
@[simp] theorem State.updCluster_stall (s : State) (c : Nat) (f : ClusterSt → ClusterSt) : (s.updCluster c f).stall = s.stall := rfl
@[simp] theorem State.updCluster_acting (s : State) (c : Nat) (f : ClusterSt → ClusterSt) : (s.updCluster c f).acting = s.acting := rfl
@[simp] theorem State.updCluster_asks (s : State) (c : Nat) (f : ClusterSt → ClusterSt) : (s.updCluster c f).asks = s.asks := rfl
@[simp] theorem State.updCluster_granted (s : State) (c : Nat) (f : ClusterSt → ClusterSt) : (s.updCluster c f).granted = s.granted := rfl
@[simp] theorem State.updCluster_peerNo (s : State) (c : Nat) (f : ClusterSt → ClusterSt) : (s.updCluster c f).peerNo = s.peerNo := rfl
@[simp] theorem State.updCluster_liveCl (s : State) (c : Nat) (f : ClusterSt → ClusterSt) : (s.updCluster c f).liveCl = s.liveCl := rfl
@[simp] theorem State.updCluster_liveSl (s : State) (c : Nat) (f : ClusterSt → ClusterSt) : (s.updCluster c f).liveSl = s.liveSl := rfl
@[simp] theorem State.updCluster_groups (s : State) (c : Nat) (f : ClusterSt → ClusterSt) : (s.updCluster c f).groups = s.groups := rfl
@[simp] theorem State.updCluster_teams (s : State) (c : Nat) (f : ClusterSt → ClusterSt) : (s.updCluster c f).teams = s.teams := rfl
@[simp] theorem State.updCluster_grids (s : State) (c : Nat) (f : ClusterSt → ClusterSt) : (s.updCluster c f).grids = s.grids := rfl
@[simp] theorem State.updCluster_cores (s : State) (c : Nat) (f : ClusterSt → ClusterSt) : (s.updCluster c f).cores = s.cores := rfl
@[simp] theorem State.updCluster_sendRings (s : State) (c : Nat) (f : ClusterSt → ClusterSt) : (s.updCluster c f).sendRings = s.sendRings := rfl
@[simp] theorem State.updCluster_dies (s : State) (c : Nat) (f : ClusterSt → ClusterSt) : (s.updCluster c f).dies = s.dies := rfl
@[simp] theorem State.updCluster_slices (s : State) (c : Nat) (f : ClusterSt → ClusterSt) : (s.updCluster c f).slices = s.slices := rfl
@[simp] theorem State.updCluster_tenants (s : State) (c : Nat) (f : ClusterSt → ClusterSt) : (s.updCluster c f).tenants = s.tenants := rfl
@[simp] theorem State.updCluster_trigs (s : State) (c : Nat) (f : ClusterSt → ClusterSt) : (s.updCluster c f).trigs = s.trigs := rfl
@[simp] theorem State.updCluster_counts (s : State) (c : Nat) (f : ClusterSt → ClusterSt) : (s.updCluster c f).counts = s.counts := rfl
@[simp] theorem State.updCluster_taskqs (s : State) (c : Nat) (f : ClusterSt → ClusterSt) : (s.updCluster c f).taskqs = s.taskqs := rfl
@[simp] theorem State.updCluster_swapped (s : State) (c : Nat) (f : ClusterSt → ClusterSt) : (s.updCluster c f).swapped = s.swapped := rfl
@[simp] theorem State.updCluster_kills (s : State) (c : Nat) (f : ClusterSt → ClusterSt) : (s.updCluster c f).kills = s.kills := rfl
@[simp] theorem State.updCluster_captures (s : State) (c : Nat) (f : ClusterSt → ClusterSt) : (s.updCluster c f).captures = s.captures := rfl
@[simp] theorem State.updCluster_held (s : State) (c : Nat) (f : ClusterSt → ClusterSt) : (s.updCluster c f).held = s.held := rfl
@[simp] theorem State.updCluster_parts (s : State) (c : Nat) (f : ClusterSt → ClusterSt) : (s.updCluster c f).parts = s.parts := rfl
@[simp] theorem State.updCluster_hostqs (s : State) (c : Nat) (f : ClusterSt → ClusterSt) : (s.updCluster c f).hostqs = s.hostqs := rfl
@[simp] theorem State.updCluster_packets (s : State) (c : Nat) (f : ClusterSt → ClusterSt) : (s.updCluster c f).packets = s.packets := rfl
@[simp] theorem State.updCluster_fe (s : State) (c : Nat) (f : ClusterSt → ClusterSt) : (s.updCluster c f).fe = s.fe := rfl
@[simp] theorem State.updCluster_plat (s : State) (c : Nat) (f : ClusterSt → ClusterSt) : (s.updCluster c f).plat = s.plat := rfl
@[simp] theorem State.updCluster_msix (s : State) (c : Nat) (f : ClusterSt → ClusterSt) : (s.updCluster c f).msix = s.msix := rfl
@[simp] theorem State.updCluster_mem (s : State) (c : Nat) (f : ClusterSt → ClusterSt) : (s.updCluster c f).mem = s.mem := rfl
@[simp] theorem State.updCluster_storeMem (s : State) (c : Nat) (f : ClusterSt → ClusterSt) : (s.updCluster c f).storeMem = s.storeMem := rfl
@[simp] theorem State.updCluster_scratch (s : State) (c : Nat) (f : ClusterSt → ClusterSt) : (s.updCluster c f).scratch = s.scratch := rfl
@[simp] theorem State.updCluster_tags (s : State) (c : Nat) (f : ClusterSt → ClusterSt) : (s.updCluster c f).tags = s.tags := rfl

/-! `State.updDie` changes `dies` alone. -/
@[simp] theorem State.updDie_sched (s : State) (d : Nat) (f : DieSt → DieSt) : (s.updDie d f).sched = s.sched := rfl
@[simp] theorem State.updDie_turnNo (s : State) (d : Nat) (f : DieSt → DieSt) : (s.updDie d f).turnNo = s.turnNo := rfl
@[simp] theorem State.updDie_freeCtr (s : State) (d : Nat) (f : DieSt → DieSt) : (s.updDie d f).freeCtr = s.freeCtr := rfl
@[simp] theorem State.updDie_nextUid (s : State) (d : Nat) (f : DieSt → DieSt) : (s.updDie d f).nextUid = s.nextUid := rfl
@[simp] theorem State.updDie_sel (s : State) (d : Nat) (f : DieSt → DieSt) : (s.updDie d f).sel = s.sel := rfl
@[simp] theorem State.updDie_clock (s : State) (d : Nat) (f : DieSt → DieSt) : (s.updDie d f).clock = s.clock := rfl
@[simp] theorem State.updDie_power (s : State) (d : Nat) (f : DieSt → DieSt) : (s.updDie d f).power = s.power := rfl
@[simp] theorem State.updDie_stall (s : State) (d : Nat) (f : DieSt → DieSt) : (s.updDie d f).stall = s.stall := rfl
@[simp] theorem State.updDie_acting (s : State) (d : Nat) (f : DieSt → DieSt) : (s.updDie d f).acting = s.acting := rfl
@[simp] theorem State.updDie_asks (s : State) (d : Nat) (f : DieSt → DieSt) : (s.updDie d f).asks = s.asks := rfl
@[simp] theorem State.updDie_granted (s : State) (d : Nat) (f : DieSt → DieSt) : (s.updDie d f).granted = s.granted := rfl
@[simp] theorem State.updDie_peerNo (s : State) (d : Nat) (f : DieSt → DieSt) : (s.updDie d f).peerNo = s.peerNo := rfl
@[simp] theorem State.updDie_liveCl (s : State) (d : Nat) (f : DieSt → DieSt) : (s.updDie d f).liveCl = s.liveCl := rfl
@[simp] theorem State.updDie_liveSl (s : State) (d : Nat) (f : DieSt → DieSt) : (s.updDie d f).liveSl = s.liveSl := rfl
@[simp] theorem State.updDie_groups (s : State) (d : Nat) (f : DieSt → DieSt) : (s.updDie d f).groups = s.groups := rfl
@[simp] theorem State.updDie_teams (s : State) (d : Nat) (f : DieSt → DieSt) : (s.updDie d f).teams = s.teams := rfl
@[simp] theorem State.updDie_grids (s : State) (d : Nat) (f : DieSt → DieSt) : (s.updDie d f).grids = s.grids := rfl
@[simp] theorem State.updDie_cores (s : State) (d : Nat) (f : DieSt → DieSt) : (s.updDie d f).cores = s.cores := rfl
@[simp] theorem State.updDie_clusters (s : State) (d : Nat) (f : DieSt → DieSt) : (s.updDie d f).clusters = s.clusters := rfl
@[simp] theorem State.updDie_sendRings (s : State) (d : Nat) (f : DieSt → DieSt) : (s.updDie d f).sendRings = s.sendRings := rfl
@[simp] theorem State.updDie_slices (s : State) (d : Nat) (f : DieSt → DieSt) : (s.updDie d f).slices = s.slices := rfl
@[simp] theorem State.updDie_tenants (s : State) (d : Nat) (f : DieSt → DieSt) : (s.updDie d f).tenants = s.tenants := rfl
@[simp] theorem State.updDie_trigs (s : State) (d : Nat) (f : DieSt → DieSt) : (s.updDie d f).trigs = s.trigs := rfl
@[simp] theorem State.updDie_counts (s : State) (d : Nat) (f : DieSt → DieSt) : (s.updDie d f).counts = s.counts := rfl
@[simp] theorem State.updDie_taskqs (s : State) (d : Nat) (f : DieSt → DieSt) : (s.updDie d f).taskqs = s.taskqs := rfl
@[simp] theorem State.updDie_swapped (s : State) (d : Nat) (f : DieSt → DieSt) : (s.updDie d f).swapped = s.swapped := rfl
@[simp] theorem State.updDie_kills (s : State) (d : Nat) (f : DieSt → DieSt) : (s.updDie d f).kills = s.kills := rfl
@[simp] theorem State.updDie_captures (s : State) (d : Nat) (f : DieSt → DieSt) : (s.updDie d f).captures = s.captures := rfl
@[simp] theorem State.updDie_held (s : State) (d : Nat) (f : DieSt → DieSt) : (s.updDie d f).held = s.held := rfl
@[simp] theorem State.updDie_parts (s : State) (d : Nat) (f : DieSt → DieSt) : (s.updDie d f).parts = s.parts := rfl
@[simp] theorem State.updDie_hostqs (s : State) (d : Nat) (f : DieSt → DieSt) : (s.updDie d f).hostqs = s.hostqs := rfl
@[simp] theorem State.updDie_packets (s : State) (d : Nat) (f : DieSt → DieSt) : (s.updDie d f).packets = s.packets := rfl
@[simp] theorem State.updDie_fe (s : State) (d : Nat) (f : DieSt → DieSt) : (s.updDie d f).fe = s.fe := rfl
@[simp] theorem State.updDie_plat (s : State) (d : Nat) (f : DieSt → DieSt) : (s.updDie d f).plat = s.plat := rfl
@[simp] theorem State.updDie_msix (s : State) (d : Nat) (f : DieSt → DieSt) : (s.updDie d f).msix = s.msix := rfl
@[simp] theorem State.updDie_mem (s : State) (d : Nat) (f : DieSt → DieSt) : (s.updDie d f).mem = s.mem := rfl
@[simp] theorem State.updDie_storeMem (s : State) (d : Nat) (f : DieSt → DieSt) : (s.updDie d f).storeMem = s.storeMem := rfl
@[simp] theorem State.updDie_scratch (s : State) (d : Nat) (f : DieSt → DieSt) : (s.updDie d f).scratch = s.scratch := rfl
@[simp] theorem State.updDie_tags (s : State) (d : Nat) (f : DieSt → DieSt) : (s.updDie d f).tags = s.tags := rfl

/-! `State.updSlice` changes `slices` alone. -/
@[simp] theorem State.updSlice_sched (s : State) (n : Nat) (f : SliceSt → SliceSt) : (s.updSlice n f).sched = s.sched := rfl
@[simp] theorem State.updSlice_turnNo (s : State) (n : Nat) (f : SliceSt → SliceSt) : (s.updSlice n f).turnNo = s.turnNo := rfl
@[simp] theorem State.updSlice_freeCtr (s : State) (n : Nat) (f : SliceSt → SliceSt) : (s.updSlice n f).freeCtr = s.freeCtr := rfl
@[simp] theorem State.updSlice_nextUid (s : State) (n : Nat) (f : SliceSt → SliceSt) : (s.updSlice n f).nextUid = s.nextUid := rfl
@[simp] theorem State.updSlice_sel (s : State) (n : Nat) (f : SliceSt → SliceSt) : (s.updSlice n f).sel = s.sel := rfl
@[simp] theorem State.updSlice_clock (s : State) (n : Nat) (f : SliceSt → SliceSt) : (s.updSlice n f).clock = s.clock := rfl
@[simp] theorem State.updSlice_power (s : State) (n : Nat) (f : SliceSt → SliceSt) : (s.updSlice n f).power = s.power := rfl
@[simp] theorem State.updSlice_stall (s : State) (n : Nat) (f : SliceSt → SliceSt) : (s.updSlice n f).stall = s.stall := rfl
@[simp] theorem State.updSlice_acting (s : State) (n : Nat) (f : SliceSt → SliceSt) : (s.updSlice n f).acting = s.acting := rfl
@[simp] theorem State.updSlice_asks (s : State) (n : Nat) (f : SliceSt → SliceSt) : (s.updSlice n f).asks = s.asks := rfl
@[simp] theorem State.updSlice_granted (s : State) (n : Nat) (f : SliceSt → SliceSt) : (s.updSlice n f).granted = s.granted := rfl
@[simp] theorem State.updSlice_peerNo (s : State) (n : Nat) (f : SliceSt → SliceSt) : (s.updSlice n f).peerNo = s.peerNo := rfl
@[simp] theorem State.updSlice_liveCl (s : State) (n : Nat) (f : SliceSt → SliceSt) : (s.updSlice n f).liveCl = s.liveCl := rfl
@[simp] theorem State.updSlice_liveSl (s : State) (n : Nat) (f : SliceSt → SliceSt) : (s.updSlice n f).liveSl = s.liveSl := rfl
@[simp] theorem State.updSlice_groups (s : State) (n : Nat) (f : SliceSt → SliceSt) : (s.updSlice n f).groups = s.groups := rfl
@[simp] theorem State.updSlice_teams (s : State) (n : Nat) (f : SliceSt → SliceSt) : (s.updSlice n f).teams = s.teams := rfl
@[simp] theorem State.updSlice_grids (s : State) (n : Nat) (f : SliceSt → SliceSt) : (s.updSlice n f).grids = s.grids := rfl
@[simp] theorem State.updSlice_cores (s : State) (n : Nat) (f : SliceSt → SliceSt) : (s.updSlice n f).cores = s.cores := rfl
@[simp] theorem State.updSlice_clusters (s : State) (n : Nat) (f : SliceSt → SliceSt) : (s.updSlice n f).clusters = s.clusters := rfl
@[simp] theorem State.updSlice_sendRings (s : State) (n : Nat) (f : SliceSt → SliceSt) : (s.updSlice n f).sendRings = s.sendRings := rfl
@[simp] theorem State.updSlice_dies (s : State) (n : Nat) (f : SliceSt → SliceSt) : (s.updSlice n f).dies = s.dies := rfl
@[simp] theorem State.updSlice_tenants (s : State) (n : Nat) (f : SliceSt → SliceSt) : (s.updSlice n f).tenants = s.tenants := rfl
@[simp] theorem State.updSlice_trigs (s : State) (n : Nat) (f : SliceSt → SliceSt) : (s.updSlice n f).trigs = s.trigs := rfl
@[simp] theorem State.updSlice_counts (s : State) (n : Nat) (f : SliceSt → SliceSt) : (s.updSlice n f).counts = s.counts := rfl
@[simp] theorem State.updSlice_taskqs (s : State) (n : Nat) (f : SliceSt → SliceSt) : (s.updSlice n f).taskqs = s.taskqs := rfl
@[simp] theorem State.updSlice_swapped (s : State) (n : Nat) (f : SliceSt → SliceSt) : (s.updSlice n f).swapped = s.swapped := rfl
@[simp] theorem State.updSlice_kills (s : State) (n : Nat) (f : SliceSt → SliceSt) : (s.updSlice n f).kills = s.kills := rfl
@[simp] theorem State.updSlice_captures (s : State) (n : Nat) (f : SliceSt → SliceSt) : (s.updSlice n f).captures = s.captures := rfl
@[simp] theorem State.updSlice_held (s : State) (n : Nat) (f : SliceSt → SliceSt) : (s.updSlice n f).held = s.held := rfl
@[simp] theorem State.updSlice_parts (s : State) (n : Nat) (f : SliceSt → SliceSt) : (s.updSlice n f).parts = s.parts := rfl
@[simp] theorem State.updSlice_hostqs (s : State) (n : Nat) (f : SliceSt → SliceSt) : (s.updSlice n f).hostqs = s.hostqs := rfl
@[simp] theorem State.updSlice_packets (s : State) (n : Nat) (f : SliceSt → SliceSt) : (s.updSlice n f).packets = s.packets := rfl
@[simp] theorem State.updSlice_fe (s : State) (n : Nat) (f : SliceSt → SliceSt) : (s.updSlice n f).fe = s.fe := rfl
@[simp] theorem State.updSlice_plat (s : State) (n : Nat) (f : SliceSt → SliceSt) : (s.updSlice n f).plat = s.plat := rfl
@[simp] theorem State.updSlice_msix (s : State) (n : Nat) (f : SliceSt → SliceSt) : (s.updSlice n f).msix = s.msix := rfl
@[simp] theorem State.updSlice_mem (s : State) (n : Nat) (f : SliceSt → SliceSt) : (s.updSlice n f).mem = s.mem := rfl
@[simp] theorem State.updSlice_storeMem (s : State) (n : Nat) (f : SliceSt → SliceSt) : (s.updSlice n f).storeMem = s.storeMem := rfl
@[simp] theorem State.updSlice_scratch (s : State) (n : Nat) (f : SliceSt → SliceSt) : (s.updSlice n f).scratch = s.scratch := rfl
@[simp] theorem State.updSlice_tags (s : State) (n : Nat) (f : SliceSt → SliceSt) : (s.updSlice n f).tags = s.tags := rfl

/-! `State.updTenant` changes `tenants` alone. -/
@[simp] theorem State.updTenant_sched (s : State) (t : Nat) (f : TenantSt → TenantSt) : (s.updTenant t f).sched = s.sched := rfl
@[simp] theorem State.updTenant_turnNo (s : State) (t : Nat) (f : TenantSt → TenantSt) : (s.updTenant t f).turnNo = s.turnNo := rfl
@[simp] theorem State.updTenant_freeCtr (s : State) (t : Nat) (f : TenantSt → TenantSt) : (s.updTenant t f).freeCtr = s.freeCtr := rfl
@[simp] theorem State.updTenant_nextUid (s : State) (t : Nat) (f : TenantSt → TenantSt) : (s.updTenant t f).nextUid = s.nextUid := rfl
@[simp] theorem State.updTenant_sel (s : State) (t : Nat) (f : TenantSt → TenantSt) : (s.updTenant t f).sel = s.sel := rfl
@[simp] theorem State.updTenant_clock (s : State) (t : Nat) (f : TenantSt → TenantSt) : (s.updTenant t f).clock = s.clock := rfl
@[simp] theorem State.updTenant_power (s : State) (t : Nat) (f : TenantSt → TenantSt) : (s.updTenant t f).power = s.power := rfl
@[simp] theorem State.updTenant_stall (s : State) (t : Nat) (f : TenantSt → TenantSt) : (s.updTenant t f).stall = s.stall := rfl
@[simp] theorem State.updTenant_acting (s : State) (t : Nat) (f : TenantSt → TenantSt) : (s.updTenant t f).acting = s.acting := rfl
@[simp] theorem State.updTenant_asks (s : State) (t : Nat) (f : TenantSt → TenantSt) : (s.updTenant t f).asks = s.asks := rfl
@[simp] theorem State.updTenant_granted (s : State) (t : Nat) (f : TenantSt → TenantSt) : (s.updTenant t f).granted = s.granted := rfl
@[simp] theorem State.updTenant_peerNo (s : State) (t : Nat) (f : TenantSt → TenantSt) : (s.updTenant t f).peerNo = s.peerNo := rfl
@[simp] theorem State.updTenant_liveCl (s : State) (t : Nat) (f : TenantSt → TenantSt) : (s.updTenant t f).liveCl = s.liveCl := rfl
@[simp] theorem State.updTenant_liveSl (s : State) (t : Nat) (f : TenantSt → TenantSt) : (s.updTenant t f).liveSl = s.liveSl := rfl
@[simp] theorem State.updTenant_groups (s : State) (t : Nat) (f : TenantSt → TenantSt) : (s.updTenant t f).groups = s.groups := rfl
@[simp] theorem State.updTenant_teams (s : State) (t : Nat) (f : TenantSt → TenantSt) : (s.updTenant t f).teams = s.teams := rfl
@[simp] theorem State.updTenant_grids (s : State) (t : Nat) (f : TenantSt → TenantSt) : (s.updTenant t f).grids = s.grids := rfl
@[simp] theorem State.updTenant_cores (s : State) (t : Nat) (f : TenantSt → TenantSt) : (s.updTenant t f).cores = s.cores := rfl
@[simp] theorem State.updTenant_clusters (s : State) (t : Nat) (f : TenantSt → TenantSt) : (s.updTenant t f).clusters = s.clusters := rfl
@[simp] theorem State.updTenant_sendRings (s : State) (t : Nat) (f : TenantSt → TenantSt) : (s.updTenant t f).sendRings = s.sendRings := rfl
@[simp] theorem State.updTenant_dies (s : State) (t : Nat) (f : TenantSt → TenantSt) : (s.updTenant t f).dies = s.dies := rfl
@[simp] theorem State.updTenant_slices (s : State) (t : Nat) (f : TenantSt → TenantSt) : (s.updTenant t f).slices = s.slices := rfl
@[simp] theorem State.updTenant_trigs (s : State) (t : Nat) (f : TenantSt → TenantSt) : (s.updTenant t f).trigs = s.trigs := rfl
@[simp] theorem State.updTenant_counts (s : State) (t : Nat) (f : TenantSt → TenantSt) : (s.updTenant t f).counts = s.counts := rfl
@[simp] theorem State.updTenant_taskqs (s : State) (t : Nat) (f : TenantSt → TenantSt) : (s.updTenant t f).taskqs = s.taskqs := rfl
@[simp] theorem State.updTenant_swapped (s : State) (t : Nat) (f : TenantSt → TenantSt) : (s.updTenant t f).swapped = s.swapped := rfl
@[simp] theorem State.updTenant_kills (s : State) (t : Nat) (f : TenantSt → TenantSt) : (s.updTenant t f).kills = s.kills := rfl
@[simp] theorem State.updTenant_captures (s : State) (t : Nat) (f : TenantSt → TenantSt) : (s.updTenant t f).captures = s.captures := rfl
@[simp] theorem State.updTenant_held (s : State) (t : Nat) (f : TenantSt → TenantSt) : (s.updTenant t f).held = s.held := rfl
@[simp] theorem State.updTenant_parts (s : State) (t : Nat) (f : TenantSt → TenantSt) : (s.updTenant t f).parts = s.parts := rfl
@[simp] theorem State.updTenant_hostqs (s : State) (t : Nat) (f : TenantSt → TenantSt) : (s.updTenant t f).hostqs = s.hostqs := rfl
@[simp] theorem State.updTenant_packets (s : State) (t : Nat) (f : TenantSt → TenantSt) : (s.updTenant t f).packets = s.packets := rfl
@[simp] theorem State.updTenant_fe (s : State) (t : Nat) (f : TenantSt → TenantSt) : (s.updTenant t f).fe = s.fe := rfl
@[simp] theorem State.updTenant_plat (s : State) (t : Nat) (f : TenantSt → TenantSt) : (s.updTenant t f).plat = s.plat := rfl
@[simp] theorem State.updTenant_msix (s : State) (t : Nat) (f : TenantSt → TenantSt) : (s.updTenant t f).msix = s.msix := rfl
@[simp] theorem State.updTenant_mem (s : State) (t : Nat) (f : TenantSt → TenantSt) : (s.updTenant t f).mem = s.mem := rfl
@[simp] theorem State.updTenant_storeMem (s : State) (t : Nat) (f : TenantSt → TenantSt) : (s.updTenant t f).storeMem = s.storeMem := rfl
@[simp] theorem State.updTenant_scratch (s : State) (t : Nat) (f : TenantSt → TenantSt) : (s.updTenant t f).scratch = s.scratch := rfl
@[simp] theorem State.updTenant_tags (s : State) (t : Nat) (f : TenantSt → TenantSt) : (s.updTenant t f).tags = s.tags := rfl

/-! `State.updGrid` changes `grids` alone. -/
@[simp] theorem State.updGrid_sched (s : State) (n : Nat) (f : Grid → Grid) : (s.updGrid n f).sched = s.sched := rfl
@[simp] theorem State.updGrid_turnNo (s : State) (n : Nat) (f : Grid → Grid) : (s.updGrid n f).turnNo = s.turnNo := rfl
@[simp] theorem State.updGrid_freeCtr (s : State) (n : Nat) (f : Grid → Grid) : (s.updGrid n f).freeCtr = s.freeCtr := rfl
@[simp] theorem State.updGrid_nextUid (s : State) (n : Nat) (f : Grid → Grid) : (s.updGrid n f).nextUid = s.nextUid := rfl
@[simp] theorem State.updGrid_sel (s : State) (n : Nat) (f : Grid → Grid) : (s.updGrid n f).sel = s.sel := rfl
@[simp] theorem State.updGrid_clock (s : State) (n : Nat) (f : Grid → Grid) : (s.updGrid n f).clock = s.clock := rfl
@[simp] theorem State.updGrid_power (s : State) (n : Nat) (f : Grid → Grid) : (s.updGrid n f).power = s.power := rfl
@[simp] theorem State.updGrid_stall (s : State) (n : Nat) (f : Grid → Grid) : (s.updGrid n f).stall = s.stall := rfl
@[simp] theorem State.updGrid_acting (s : State) (n : Nat) (f : Grid → Grid) : (s.updGrid n f).acting = s.acting := rfl
@[simp] theorem State.updGrid_asks (s : State) (n : Nat) (f : Grid → Grid) : (s.updGrid n f).asks = s.asks := rfl
@[simp] theorem State.updGrid_granted (s : State) (n : Nat) (f : Grid → Grid) : (s.updGrid n f).granted = s.granted := rfl
@[simp] theorem State.updGrid_peerNo (s : State) (n : Nat) (f : Grid → Grid) : (s.updGrid n f).peerNo = s.peerNo := rfl
@[simp] theorem State.updGrid_liveCl (s : State) (n : Nat) (f : Grid → Grid) : (s.updGrid n f).liveCl = s.liveCl := rfl
@[simp] theorem State.updGrid_liveSl (s : State) (n : Nat) (f : Grid → Grid) : (s.updGrid n f).liveSl = s.liveSl := rfl
@[simp] theorem State.updGrid_groups (s : State) (n : Nat) (f : Grid → Grid) : (s.updGrid n f).groups = s.groups := rfl
@[simp] theorem State.updGrid_teams (s : State) (n : Nat) (f : Grid → Grid) : (s.updGrid n f).teams = s.teams := rfl
@[simp] theorem State.updGrid_cores (s : State) (n : Nat) (f : Grid → Grid) : (s.updGrid n f).cores = s.cores := rfl
@[simp] theorem State.updGrid_clusters (s : State) (n : Nat) (f : Grid → Grid) : (s.updGrid n f).clusters = s.clusters := rfl
@[simp] theorem State.updGrid_sendRings (s : State) (n : Nat) (f : Grid → Grid) : (s.updGrid n f).sendRings = s.sendRings := rfl
@[simp] theorem State.updGrid_dies (s : State) (n : Nat) (f : Grid → Grid) : (s.updGrid n f).dies = s.dies := rfl
@[simp] theorem State.updGrid_slices (s : State) (n : Nat) (f : Grid → Grid) : (s.updGrid n f).slices = s.slices := rfl
@[simp] theorem State.updGrid_tenants (s : State) (n : Nat) (f : Grid → Grid) : (s.updGrid n f).tenants = s.tenants := rfl
@[simp] theorem State.updGrid_trigs (s : State) (n : Nat) (f : Grid → Grid) : (s.updGrid n f).trigs = s.trigs := rfl
@[simp] theorem State.updGrid_counts (s : State) (n : Nat) (f : Grid → Grid) : (s.updGrid n f).counts = s.counts := rfl
@[simp] theorem State.updGrid_taskqs (s : State) (n : Nat) (f : Grid → Grid) : (s.updGrid n f).taskqs = s.taskqs := rfl
@[simp] theorem State.updGrid_swapped (s : State) (n : Nat) (f : Grid → Grid) : (s.updGrid n f).swapped = s.swapped := rfl
@[simp] theorem State.updGrid_kills (s : State) (n : Nat) (f : Grid → Grid) : (s.updGrid n f).kills = s.kills := rfl
@[simp] theorem State.updGrid_captures (s : State) (n : Nat) (f : Grid → Grid) : (s.updGrid n f).captures = s.captures := rfl
@[simp] theorem State.updGrid_held (s : State) (n : Nat) (f : Grid → Grid) : (s.updGrid n f).held = s.held := rfl
@[simp] theorem State.updGrid_parts (s : State) (n : Nat) (f : Grid → Grid) : (s.updGrid n f).parts = s.parts := rfl
@[simp] theorem State.updGrid_hostqs (s : State) (n : Nat) (f : Grid → Grid) : (s.updGrid n f).hostqs = s.hostqs := rfl
@[simp] theorem State.updGrid_packets (s : State) (n : Nat) (f : Grid → Grid) : (s.updGrid n f).packets = s.packets := rfl
@[simp] theorem State.updGrid_fe (s : State) (n : Nat) (f : Grid → Grid) : (s.updGrid n f).fe = s.fe := rfl
@[simp] theorem State.updGrid_plat (s : State) (n : Nat) (f : Grid → Grid) : (s.updGrid n f).plat = s.plat := rfl
@[simp] theorem State.updGrid_msix (s : State) (n : Nat) (f : Grid → Grid) : (s.updGrid n f).msix = s.msix := rfl
@[simp] theorem State.updGrid_mem (s : State) (n : Nat) (f : Grid → Grid) : (s.updGrid n f).mem = s.mem := rfl
@[simp] theorem State.updGrid_storeMem (s : State) (n : Nat) (f : Grid → Grid) : (s.updGrid n f).storeMem = s.storeMem := rfl
@[simp] theorem State.updGrid_scratch (s : State) (n : Nat) (f : Grid → Grid) : (s.updGrid n f).scratch = s.scratch := rfl
@[simp] theorem State.updGrid_tags (s : State) (n : Nat) (f : Grid → Grid) : (s.updGrid n f).tags = s.tags := rfl

/-! `State.updPart` changes `parts` alone. -/
@[simp] theorem State.updPart_sched (s : State) (p : Nat) (f : PartSt → PartSt) : (s.updPart p f).sched = s.sched := rfl
@[simp] theorem State.updPart_turnNo (s : State) (p : Nat) (f : PartSt → PartSt) : (s.updPart p f).turnNo = s.turnNo := rfl
@[simp] theorem State.updPart_freeCtr (s : State) (p : Nat) (f : PartSt → PartSt) : (s.updPart p f).freeCtr = s.freeCtr := rfl
@[simp] theorem State.updPart_nextUid (s : State) (p : Nat) (f : PartSt → PartSt) : (s.updPart p f).nextUid = s.nextUid := rfl
@[simp] theorem State.updPart_sel (s : State) (p : Nat) (f : PartSt → PartSt) : (s.updPart p f).sel = s.sel := rfl
@[simp] theorem State.updPart_clock (s : State) (p : Nat) (f : PartSt → PartSt) : (s.updPart p f).clock = s.clock := rfl
@[simp] theorem State.updPart_power (s : State) (p : Nat) (f : PartSt → PartSt) : (s.updPart p f).power = s.power := rfl
@[simp] theorem State.updPart_stall (s : State) (p : Nat) (f : PartSt → PartSt) : (s.updPart p f).stall = s.stall := rfl
@[simp] theorem State.updPart_acting (s : State) (p : Nat) (f : PartSt → PartSt) : (s.updPart p f).acting = s.acting := rfl
@[simp] theorem State.updPart_asks (s : State) (p : Nat) (f : PartSt → PartSt) : (s.updPart p f).asks = s.asks := rfl
@[simp] theorem State.updPart_granted (s : State) (p : Nat) (f : PartSt → PartSt) : (s.updPart p f).granted = s.granted := rfl
@[simp] theorem State.updPart_peerNo (s : State) (p : Nat) (f : PartSt → PartSt) : (s.updPart p f).peerNo = s.peerNo := rfl
@[simp] theorem State.updPart_liveCl (s : State) (p : Nat) (f : PartSt → PartSt) : (s.updPart p f).liveCl = s.liveCl := rfl
@[simp] theorem State.updPart_liveSl (s : State) (p : Nat) (f : PartSt → PartSt) : (s.updPart p f).liveSl = s.liveSl := rfl
@[simp] theorem State.updPart_groups (s : State) (p : Nat) (f : PartSt → PartSt) : (s.updPart p f).groups = s.groups := rfl
@[simp] theorem State.updPart_teams (s : State) (p : Nat) (f : PartSt → PartSt) : (s.updPart p f).teams = s.teams := rfl
@[simp] theorem State.updPart_grids (s : State) (p : Nat) (f : PartSt → PartSt) : (s.updPart p f).grids = s.grids := rfl
@[simp] theorem State.updPart_cores (s : State) (p : Nat) (f : PartSt → PartSt) : (s.updPart p f).cores = s.cores := rfl
@[simp] theorem State.updPart_clusters (s : State) (p : Nat) (f : PartSt → PartSt) : (s.updPart p f).clusters = s.clusters := rfl
@[simp] theorem State.updPart_sendRings (s : State) (p : Nat) (f : PartSt → PartSt) : (s.updPart p f).sendRings = s.sendRings := rfl
@[simp] theorem State.updPart_dies (s : State) (p : Nat) (f : PartSt → PartSt) : (s.updPart p f).dies = s.dies := rfl
@[simp] theorem State.updPart_slices (s : State) (p : Nat) (f : PartSt → PartSt) : (s.updPart p f).slices = s.slices := rfl
@[simp] theorem State.updPart_tenants (s : State) (p : Nat) (f : PartSt → PartSt) : (s.updPart p f).tenants = s.tenants := rfl
@[simp] theorem State.updPart_trigs (s : State) (p : Nat) (f : PartSt → PartSt) : (s.updPart p f).trigs = s.trigs := rfl
@[simp] theorem State.updPart_counts (s : State) (p : Nat) (f : PartSt → PartSt) : (s.updPart p f).counts = s.counts := rfl
@[simp] theorem State.updPart_taskqs (s : State) (p : Nat) (f : PartSt → PartSt) : (s.updPart p f).taskqs = s.taskqs := rfl
@[simp] theorem State.updPart_swapped (s : State) (p : Nat) (f : PartSt → PartSt) : (s.updPart p f).swapped = s.swapped := rfl
@[simp] theorem State.updPart_kills (s : State) (p : Nat) (f : PartSt → PartSt) : (s.updPart p f).kills = s.kills := rfl
@[simp] theorem State.updPart_captures (s : State) (p : Nat) (f : PartSt → PartSt) : (s.updPart p f).captures = s.captures := rfl
@[simp] theorem State.updPart_held (s : State) (p : Nat) (f : PartSt → PartSt) : (s.updPart p f).held = s.held := rfl
@[simp] theorem State.updPart_hostqs (s : State) (p : Nat) (f : PartSt → PartSt) : (s.updPart p f).hostqs = s.hostqs := rfl
@[simp] theorem State.updPart_packets (s : State) (p : Nat) (f : PartSt → PartSt) : (s.updPart p f).packets = s.packets := rfl
@[simp] theorem State.updPart_fe (s : State) (p : Nat) (f : PartSt → PartSt) : (s.updPart p f).fe = s.fe := rfl
@[simp] theorem State.updPart_plat (s : State) (p : Nat) (f : PartSt → PartSt) : (s.updPart p f).plat = s.plat := rfl
@[simp] theorem State.updPart_msix (s : State) (p : Nat) (f : PartSt → PartSt) : (s.updPart p f).msix = s.msix := rfl
@[simp] theorem State.updPart_mem (s : State) (p : Nat) (f : PartSt → PartSt) : (s.updPart p f).mem = s.mem := rfl
@[simp] theorem State.updPart_storeMem (s : State) (p : Nat) (f : PartSt → PartSt) : (s.updPart p f).storeMem = s.storeMem := rfl
@[simp] theorem State.updPart_scratch (s : State) (p : Nat) (f : PartSt → PartSt) : (s.updPart p f).scratch = s.scratch := rfl
@[simp] theorem State.updPart_tags (s : State) (p : Nat) (f : PartSt → PartSt) : (s.updPart p f).tags = s.tags := rfl

/-! `State.updTrig` changes `trigs` alone. -/
@[simp] theorem State.updTrig_sched (s : State) (e : Nat) (f : Trig → Trig) : (s.updTrig e f).sched = s.sched := rfl
@[simp] theorem State.updTrig_turnNo (s : State) (e : Nat) (f : Trig → Trig) : (s.updTrig e f).turnNo = s.turnNo := rfl
@[simp] theorem State.updTrig_freeCtr (s : State) (e : Nat) (f : Trig → Trig) : (s.updTrig e f).freeCtr = s.freeCtr := rfl
@[simp] theorem State.updTrig_nextUid (s : State) (e : Nat) (f : Trig → Trig) : (s.updTrig e f).nextUid = s.nextUid := rfl
@[simp] theorem State.updTrig_sel (s : State) (e : Nat) (f : Trig → Trig) : (s.updTrig e f).sel = s.sel := rfl
@[simp] theorem State.updTrig_clock (s : State) (e : Nat) (f : Trig → Trig) : (s.updTrig e f).clock = s.clock := rfl
@[simp] theorem State.updTrig_power (s : State) (e : Nat) (f : Trig → Trig) : (s.updTrig e f).power = s.power := rfl
@[simp] theorem State.updTrig_stall (s : State) (e : Nat) (f : Trig → Trig) : (s.updTrig e f).stall = s.stall := rfl
@[simp] theorem State.updTrig_acting (s : State) (e : Nat) (f : Trig → Trig) : (s.updTrig e f).acting = s.acting := rfl
@[simp] theorem State.updTrig_asks (s : State) (e : Nat) (f : Trig → Trig) : (s.updTrig e f).asks = s.asks := rfl
@[simp] theorem State.updTrig_granted (s : State) (e : Nat) (f : Trig → Trig) : (s.updTrig e f).granted = s.granted := rfl
@[simp] theorem State.updTrig_peerNo (s : State) (e : Nat) (f : Trig → Trig) : (s.updTrig e f).peerNo = s.peerNo := rfl
@[simp] theorem State.updTrig_liveCl (s : State) (e : Nat) (f : Trig → Trig) : (s.updTrig e f).liveCl = s.liveCl := rfl
@[simp] theorem State.updTrig_liveSl (s : State) (e : Nat) (f : Trig → Trig) : (s.updTrig e f).liveSl = s.liveSl := rfl
@[simp] theorem State.updTrig_groups (s : State) (e : Nat) (f : Trig → Trig) : (s.updTrig e f).groups = s.groups := rfl
@[simp] theorem State.updTrig_teams (s : State) (e : Nat) (f : Trig → Trig) : (s.updTrig e f).teams = s.teams := rfl
@[simp] theorem State.updTrig_grids (s : State) (e : Nat) (f : Trig → Trig) : (s.updTrig e f).grids = s.grids := rfl
@[simp] theorem State.updTrig_cores (s : State) (e : Nat) (f : Trig → Trig) : (s.updTrig e f).cores = s.cores := rfl
@[simp] theorem State.updTrig_clusters (s : State) (e : Nat) (f : Trig → Trig) : (s.updTrig e f).clusters = s.clusters := rfl
@[simp] theorem State.updTrig_sendRings (s : State) (e : Nat) (f : Trig → Trig) : (s.updTrig e f).sendRings = s.sendRings := rfl
@[simp] theorem State.updTrig_dies (s : State) (e : Nat) (f : Trig → Trig) : (s.updTrig e f).dies = s.dies := rfl
@[simp] theorem State.updTrig_slices (s : State) (e : Nat) (f : Trig → Trig) : (s.updTrig e f).slices = s.slices := rfl
@[simp] theorem State.updTrig_tenants (s : State) (e : Nat) (f : Trig → Trig) : (s.updTrig e f).tenants = s.tenants := rfl
@[simp] theorem State.updTrig_counts (s : State) (e : Nat) (f : Trig → Trig) : (s.updTrig e f).counts = s.counts := rfl
@[simp] theorem State.updTrig_taskqs (s : State) (e : Nat) (f : Trig → Trig) : (s.updTrig e f).taskqs = s.taskqs := rfl
@[simp] theorem State.updTrig_swapped (s : State) (e : Nat) (f : Trig → Trig) : (s.updTrig e f).swapped = s.swapped := rfl
@[simp] theorem State.updTrig_kills (s : State) (e : Nat) (f : Trig → Trig) : (s.updTrig e f).kills = s.kills := rfl
@[simp] theorem State.updTrig_captures (s : State) (e : Nat) (f : Trig → Trig) : (s.updTrig e f).captures = s.captures := rfl
@[simp] theorem State.updTrig_held (s : State) (e : Nat) (f : Trig → Trig) : (s.updTrig e f).held = s.held := rfl
@[simp] theorem State.updTrig_parts (s : State) (e : Nat) (f : Trig → Trig) : (s.updTrig e f).parts = s.parts := rfl
@[simp] theorem State.updTrig_hostqs (s : State) (e : Nat) (f : Trig → Trig) : (s.updTrig e f).hostqs = s.hostqs := rfl
@[simp] theorem State.updTrig_packets (s : State) (e : Nat) (f : Trig → Trig) : (s.updTrig e f).packets = s.packets := rfl
@[simp] theorem State.updTrig_fe (s : State) (e : Nat) (f : Trig → Trig) : (s.updTrig e f).fe = s.fe := rfl
@[simp] theorem State.updTrig_plat (s : State) (e : Nat) (f : Trig → Trig) : (s.updTrig e f).plat = s.plat := rfl
@[simp] theorem State.updTrig_msix (s : State) (e : Nat) (f : Trig → Trig) : (s.updTrig e f).msix = s.msix := rfl
@[simp] theorem State.updTrig_mem (s : State) (e : Nat) (f : Trig → Trig) : (s.updTrig e f).mem = s.mem := rfl
@[simp] theorem State.updTrig_storeMem (s : State) (e : Nat) (f : Trig → Trig) : (s.updTrig e f).storeMem = s.storeMem := rfl
@[simp] theorem State.updTrig_scratch (s : State) (e : Nat) (f : Trig → Trig) : (s.updTrig e f).scratch = s.scratch := rfl
@[simp] theorem State.updTrig_tags (s : State) (e : Nat) (f : Trig → Trig) : (s.updTrig e f).tags = s.tags := rfl

/-! `State.updTaskq` changes `taskqs` alone. -/
@[simp] theorem State.updTaskq_sched (s : State) (q : Nat) (f : TaskQ → TaskQ) : (s.updTaskq q f).sched = s.sched := rfl
@[simp] theorem State.updTaskq_turnNo (s : State) (q : Nat) (f : TaskQ → TaskQ) : (s.updTaskq q f).turnNo = s.turnNo := rfl
@[simp] theorem State.updTaskq_freeCtr (s : State) (q : Nat) (f : TaskQ → TaskQ) : (s.updTaskq q f).freeCtr = s.freeCtr := rfl
@[simp] theorem State.updTaskq_nextUid (s : State) (q : Nat) (f : TaskQ → TaskQ) : (s.updTaskq q f).nextUid = s.nextUid := rfl
@[simp] theorem State.updTaskq_sel (s : State) (q : Nat) (f : TaskQ → TaskQ) : (s.updTaskq q f).sel = s.sel := rfl
@[simp] theorem State.updTaskq_clock (s : State) (q : Nat) (f : TaskQ → TaskQ) : (s.updTaskq q f).clock = s.clock := rfl
@[simp] theorem State.updTaskq_power (s : State) (q : Nat) (f : TaskQ → TaskQ) : (s.updTaskq q f).power = s.power := rfl
@[simp] theorem State.updTaskq_stall (s : State) (q : Nat) (f : TaskQ → TaskQ) : (s.updTaskq q f).stall = s.stall := rfl
@[simp] theorem State.updTaskq_acting (s : State) (q : Nat) (f : TaskQ → TaskQ) : (s.updTaskq q f).acting = s.acting := rfl
@[simp] theorem State.updTaskq_asks (s : State) (q : Nat) (f : TaskQ → TaskQ) : (s.updTaskq q f).asks = s.asks := rfl
@[simp] theorem State.updTaskq_granted (s : State) (q : Nat) (f : TaskQ → TaskQ) : (s.updTaskq q f).granted = s.granted := rfl
@[simp] theorem State.updTaskq_peerNo (s : State) (q : Nat) (f : TaskQ → TaskQ) : (s.updTaskq q f).peerNo = s.peerNo := rfl
@[simp] theorem State.updTaskq_liveCl (s : State) (q : Nat) (f : TaskQ → TaskQ) : (s.updTaskq q f).liveCl = s.liveCl := rfl
@[simp] theorem State.updTaskq_liveSl (s : State) (q : Nat) (f : TaskQ → TaskQ) : (s.updTaskq q f).liveSl = s.liveSl := rfl
@[simp] theorem State.updTaskq_groups (s : State) (q : Nat) (f : TaskQ → TaskQ) : (s.updTaskq q f).groups = s.groups := rfl
@[simp] theorem State.updTaskq_teams (s : State) (q : Nat) (f : TaskQ → TaskQ) : (s.updTaskq q f).teams = s.teams := rfl
@[simp] theorem State.updTaskq_grids (s : State) (q : Nat) (f : TaskQ → TaskQ) : (s.updTaskq q f).grids = s.grids := rfl
@[simp] theorem State.updTaskq_cores (s : State) (q : Nat) (f : TaskQ → TaskQ) : (s.updTaskq q f).cores = s.cores := rfl
@[simp] theorem State.updTaskq_clusters (s : State) (q : Nat) (f : TaskQ → TaskQ) : (s.updTaskq q f).clusters = s.clusters := rfl
@[simp] theorem State.updTaskq_sendRings (s : State) (q : Nat) (f : TaskQ → TaskQ) : (s.updTaskq q f).sendRings = s.sendRings := rfl
@[simp] theorem State.updTaskq_dies (s : State) (q : Nat) (f : TaskQ → TaskQ) : (s.updTaskq q f).dies = s.dies := rfl
@[simp] theorem State.updTaskq_slices (s : State) (q : Nat) (f : TaskQ → TaskQ) : (s.updTaskq q f).slices = s.slices := rfl
@[simp] theorem State.updTaskq_tenants (s : State) (q : Nat) (f : TaskQ → TaskQ) : (s.updTaskq q f).tenants = s.tenants := rfl
@[simp] theorem State.updTaskq_trigs (s : State) (q : Nat) (f : TaskQ → TaskQ) : (s.updTaskq q f).trigs = s.trigs := rfl
@[simp] theorem State.updTaskq_counts (s : State) (q : Nat) (f : TaskQ → TaskQ) : (s.updTaskq q f).counts = s.counts := rfl
@[simp] theorem State.updTaskq_swapped (s : State) (q : Nat) (f : TaskQ → TaskQ) : (s.updTaskq q f).swapped = s.swapped := rfl
@[simp] theorem State.updTaskq_kills (s : State) (q : Nat) (f : TaskQ → TaskQ) : (s.updTaskq q f).kills = s.kills := rfl
@[simp] theorem State.updTaskq_captures (s : State) (q : Nat) (f : TaskQ → TaskQ) : (s.updTaskq q f).captures = s.captures := rfl
@[simp] theorem State.updTaskq_held (s : State) (q : Nat) (f : TaskQ → TaskQ) : (s.updTaskq q f).held = s.held := rfl
@[simp] theorem State.updTaskq_parts (s : State) (q : Nat) (f : TaskQ → TaskQ) : (s.updTaskq q f).parts = s.parts := rfl
@[simp] theorem State.updTaskq_hostqs (s : State) (q : Nat) (f : TaskQ → TaskQ) : (s.updTaskq q f).hostqs = s.hostqs := rfl
@[simp] theorem State.updTaskq_packets (s : State) (q : Nat) (f : TaskQ → TaskQ) : (s.updTaskq q f).packets = s.packets := rfl
@[simp] theorem State.updTaskq_fe (s : State) (q : Nat) (f : TaskQ → TaskQ) : (s.updTaskq q f).fe = s.fe := rfl
@[simp] theorem State.updTaskq_plat (s : State) (q : Nat) (f : TaskQ → TaskQ) : (s.updTaskq q f).plat = s.plat := rfl
@[simp] theorem State.updTaskq_msix (s : State) (q : Nat) (f : TaskQ → TaskQ) : (s.updTaskq q f).msix = s.msix := rfl
@[simp] theorem State.updTaskq_mem (s : State) (q : Nat) (f : TaskQ → TaskQ) : (s.updTaskq q f).mem = s.mem := rfl
@[simp] theorem State.updTaskq_storeMem (s : State) (q : Nat) (f : TaskQ → TaskQ) : (s.updTaskq q f).storeMem = s.storeMem := rfl
@[simp] theorem State.updTaskq_scratch (s : State) (q : Nat) (f : TaskQ → TaskQ) : (s.updTaskq q f).scratch = s.scratch := rfl
@[simp] theorem State.updTaskq_tags (s : State) (q : Nat) (f : TaskQ → TaskQ) : (s.updTaskq q f).tags = s.tags := rfl

/-! `State.updFe` changes `fe` alone. -/
@[simp] theorem State.updFe_sched (s : State) (f : FrontEnd → FrontEnd) : (s.updFe f).sched = s.sched := rfl
@[simp] theorem State.updFe_turnNo (s : State) (f : FrontEnd → FrontEnd) : (s.updFe f).turnNo = s.turnNo := rfl
@[simp] theorem State.updFe_freeCtr (s : State) (f : FrontEnd → FrontEnd) : (s.updFe f).freeCtr = s.freeCtr := rfl
@[simp] theorem State.updFe_nextUid (s : State) (f : FrontEnd → FrontEnd) : (s.updFe f).nextUid = s.nextUid := rfl
@[simp] theorem State.updFe_sel (s : State) (f : FrontEnd → FrontEnd) : (s.updFe f).sel = s.sel := rfl
@[simp] theorem State.updFe_clock (s : State) (f : FrontEnd → FrontEnd) : (s.updFe f).clock = s.clock := rfl
@[simp] theorem State.updFe_power (s : State) (f : FrontEnd → FrontEnd) : (s.updFe f).power = s.power := rfl
@[simp] theorem State.updFe_stall (s : State) (f : FrontEnd → FrontEnd) : (s.updFe f).stall = s.stall := rfl
@[simp] theorem State.updFe_acting (s : State) (f : FrontEnd → FrontEnd) : (s.updFe f).acting = s.acting := rfl
@[simp] theorem State.updFe_asks (s : State) (f : FrontEnd → FrontEnd) : (s.updFe f).asks = s.asks := rfl
@[simp] theorem State.updFe_granted (s : State) (f : FrontEnd → FrontEnd) : (s.updFe f).granted = s.granted := rfl
@[simp] theorem State.updFe_peerNo (s : State) (f : FrontEnd → FrontEnd) : (s.updFe f).peerNo = s.peerNo := rfl
@[simp] theorem State.updFe_liveCl (s : State) (f : FrontEnd → FrontEnd) : (s.updFe f).liveCl = s.liveCl := rfl
@[simp] theorem State.updFe_liveSl (s : State) (f : FrontEnd → FrontEnd) : (s.updFe f).liveSl = s.liveSl := rfl
@[simp] theorem State.updFe_groups (s : State) (f : FrontEnd → FrontEnd) : (s.updFe f).groups = s.groups := rfl
@[simp] theorem State.updFe_teams (s : State) (f : FrontEnd → FrontEnd) : (s.updFe f).teams = s.teams := rfl
@[simp] theorem State.updFe_grids (s : State) (f : FrontEnd → FrontEnd) : (s.updFe f).grids = s.grids := rfl
@[simp] theorem State.updFe_cores (s : State) (f : FrontEnd → FrontEnd) : (s.updFe f).cores = s.cores := rfl
@[simp] theorem State.updFe_clusters (s : State) (f : FrontEnd → FrontEnd) : (s.updFe f).clusters = s.clusters := rfl
@[simp] theorem State.updFe_sendRings (s : State) (f : FrontEnd → FrontEnd) : (s.updFe f).sendRings = s.sendRings := rfl
@[simp] theorem State.updFe_dies (s : State) (f : FrontEnd → FrontEnd) : (s.updFe f).dies = s.dies := rfl
@[simp] theorem State.updFe_slices (s : State) (f : FrontEnd → FrontEnd) : (s.updFe f).slices = s.slices := rfl
@[simp] theorem State.updFe_tenants (s : State) (f : FrontEnd → FrontEnd) : (s.updFe f).tenants = s.tenants := rfl
@[simp] theorem State.updFe_trigs (s : State) (f : FrontEnd → FrontEnd) : (s.updFe f).trigs = s.trigs := rfl
@[simp] theorem State.updFe_counts (s : State) (f : FrontEnd → FrontEnd) : (s.updFe f).counts = s.counts := rfl
@[simp] theorem State.updFe_taskqs (s : State) (f : FrontEnd → FrontEnd) : (s.updFe f).taskqs = s.taskqs := rfl
@[simp] theorem State.updFe_swapped (s : State) (f : FrontEnd → FrontEnd) : (s.updFe f).swapped = s.swapped := rfl
@[simp] theorem State.updFe_kills (s : State) (f : FrontEnd → FrontEnd) : (s.updFe f).kills = s.kills := rfl
@[simp] theorem State.updFe_captures (s : State) (f : FrontEnd → FrontEnd) : (s.updFe f).captures = s.captures := rfl
@[simp] theorem State.updFe_held (s : State) (f : FrontEnd → FrontEnd) : (s.updFe f).held = s.held := rfl
@[simp] theorem State.updFe_parts (s : State) (f : FrontEnd → FrontEnd) : (s.updFe f).parts = s.parts := rfl
@[simp] theorem State.updFe_hostqs (s : State) (f : FrontEnd → FrontEnd) : (s.updFe f).hostqs = s.hostqs := rfl
@[simp] theorem State.updFe_packets (s : State) (f : FrontEnd → FrontEnd) : (s.updFe f).packets = s.packets := rfl
@[simp] theorem State.updFe_plat (s : State) (f : FrontEnd → FrontEnd) : (s.updFe f).plat = s.plat := rfl
@[simp] theorem State.updFe_msix (s : State) (f : FrontEnd → FrontEnd) : (s.updFe f).msix = s.msix := rfl
@[simp] theorem State.updFe_mem (s : State) (f : FrontEnd → FrontEnd) : (s.updFe f).mem = s.mem := rfl
@[simp] theorem State.updFe_storeMem (s : State) (f : FrontEnd → FrontEnd) : (s.updFe f).storeMem = s.storeMem := rfl
@[simp] theorem State.updFe_scratch (s : State) (f : FrontEnd → FrontEnd) : (s.updFe f).scratch = s.scratch := rfl
@[simp] theorem State.updFe_tags (s : State) (f : FrontEnd → FrontEnd) : (s.updFe f).tags = s.tags := rfl

/-! `State.updPlat` changes `plat` alone. -/
@[simp] theorem State.updPlat_sched (s : State) (f : Platform → Platform) : (s.updPlat f).sched = s.sched := rfl
@[simp] theorem State.updPlat_turnNo (s : State) (f : Platform → Platform) : (s.updPlat f).turnNo = s.turnNo := rfl
@[simp] theorem State.updPlat_freeCtr (s : State) (f : Platform → Platform) : (s.updPlat f).freeCtr = s.freeCtr := rfl
@[simp] theorem State.updPlat_nextUid (s : State) (f : Platform → Platform) : (s.updPlat f).nextUid = s.nextUid := rfl
@[simp] theorem State.updPlat_sel (s : State) (f : Platform → Platform) : (s.updPlat f).sel = s.sel := rfl
@[simp] theorem State.updPlat_clock (s : State) (f : Platform → Platform) : (s.updPlat f).clock = s.clock := rfl
@[simp] theorem State.updPlat_power (s : State) (f : Platform → Platform) : (s.updPlat f).power = s.power := rfl
@[simp] theorem State.updPlat_stall (s : State) (f : Platform → Platform) : (s.updPlat f).stall = s.stall := rfl
@[simp] theorem State.updPlat_acting (s : State) (f : Platform → Platform) : (s.updPlat f).acting = s.acting := rfl
@[simp] theorem State.updPlat_asks (s : State) (f : Platform → Platform) : (s.updPlat f).asks = s.asks := rfl
@[simp] theorem State.updPlat_granted (s : State) (f : Platform → Platform) : (s.updPlat f).granted = s.granted := rfl
@[simp] theorem State.updPlat_peerNo (s : State) (f : Platform → Platform) : (s.updPlat f).peerNo = s.peerNo := rfl
@[simp] theorem State.updPlat_liveCl (s : State) (f : Platform → Platform) : (s.updPlat f).liveCl = s.liveCl := rfl
@[simp] theorem State.updPlat_liveSl (s : State) (f : Platform → Platform) : (s.updPlat f).liveSl = s.liveSl := rfl
@[simp] theorem State.updPlat_groups (s : State) (f : Platform → Platform) : (s.updPlat f).groups = s.groups := rfl
@[simp] theorem State.updPlat_teams (s : State) (f : Platform → Platform) : (s.updPlat f).teams = s.teams := rfl
@[simp] theorem State.updPlat_grids (s : State) (f : Platform → Platform) : (s.updPlat f).grids = s.grids := rfl
@[simp] theorem State.updPlat_cores (s : State) (f : Platform → Platform) : (s.updPlat f).cores = s.cores := rfl
@[simp] theorem State.updPlat_clusters (s : State) (f : Platform → Platform) : (s.updPlat f).clusters = s.clusters := rfl
@[simp] theorem State.updPlat_sendRings (s : State) (f : Platform → Platform) : (s.updPlat f).sendRings = s.sendRings := rfl
@[simp] theorem State.updPlat_dies (s : State) (f : Platform → Platform) : (s.updPlat f).dies = s.dies := rfl
@[simp] theorem State.updPlat_slices (s : State) (f : Platform → Platform) : (s.updPlat f).slices = s.slices := rfl
@[simp] theorem State.updPlat_tenants (s : State) (f : Platform → Platform) : (s.updPlat f).tenants = s.tenants := rfl
@[simp] theorem State.updPlat_trigs (s : State) (f : Platform → Platform) : (s.updPlat f).trigs = s.trigs := rfl
@[simp] theorem State.updPlat_counts (s : State) (f : Platform → Platform) : (s.updPlat f).counts = s.counts := rfl
@[simp] theorem State.updPlat_taskqs (s : State) (f : Platform → Platform) : (s.updPlat f).taskqs = s.taskqs := rfl
@[simp] theorem State.updPlat_swapped (s : State) (f : Platform → Platform) : (s.updPlat f).swapped = s.swapped := rfl
@[simp] theorem State.updPlat_kills (s : State) (f : Platform → Platform) : (s.updPlat f).kills = s.kills := rfl
@[simp] theorem State.updPlat_captures (s : State) (f : Platform → Platform) : (s.updPlat f).captures = s.captures := rfl
@[simp] theorem State.updPlat_held (s : State) (f : Platform → Platform) : (s.updPlat f).held = s.held := rfl
@[simp] theorem State.updPlat_parts (s : State) (f : Platform → Platform) : (s.updPlat f).parts = s.parts := rfl
@[simp] theorem State.updPlat_hostqs (s : State) (f : Platform → Platform) : (s.updPlat f).hostqs = s.hostqs := rfl
@[simp] theorem State.updPlat_packets (s : State) (f : Platform → Platform) : (s.updPlat f).packets = s.packets := rfl
@[simp] theorem State.updPlat_fe (s : State) (f : Platform → Platform) : (s.updPlat f).fe = s.fe := rfl
@[simp] theorem State.updPlat_msix (s : State) (f : Platform → Platform) : (s.updPlat f).msix = s.msix := rfl
@[simp] theorem State.updPlat_mem (s : State) (f : Platform → Platform) : (s.updPlat f).mem = s.mem := rfl
@[simp] theorem State.updPlat_storeMem (s : State) (f : Platform → Platform) : (s.updPlat f).storeMem = s.storeMem := rfl
@[simp] theorem State.updPlat_scratch (s : State) (f : Platform → Platform) : (s.updPlat f).scratch = s.scratch := rfl
@[simp] theorem State.updPlat_tags (s : State) (f : Platform → Platform) : (s.updPlat f).tags = s.tags := rfl

/-! `State.fresh` changes `nextUid` alone. -/
@[simp] theorem State.fresh_sched (s : State) : (s.fresh).sched = s.sched := rfl
@[simp] theorem State.fresh_turnNo (s : State) : (s.fresh).turnNo = s.turnNo := rfl
@[simp] theorem State.fresh_freeCtr (s : State) : (s.fresh).freeCtr = s.freeCtr := rfl
@[simp] theorem State.fresh_sel (s : State) : (s.fresh).sel = s.sel := rfl
@[simp] theorem State.fresh_clock (s : State) : (s.fresh).clock = s.clock := rfl
@[simp] theorem State.fresh_power (s : State) : (s.fresh).power = s.power := rfl
@[simp] theorem State.fresh_stall (s : State) : (s.fresh).stall = s.stall := rfl
@[simp] theorem State.fresh_acting (s : State) : (s.fresh).acting = s.acting := rfl
@[simp] theorem State.fresh_asks (s : State) : (s.fresh).asks = s.asks := rfl
@[simp] theorem State.fresh_granted (s : State) : (s.fresh).granted = s.granted := rfl
@[simp] theorem State.fresh_peerNo (s : State) : (s.fresh).peerNo = s.peerNo := rfl
@[simp] theorem State.fresh_liveCl (s : State) : (s.fresh).liveCl = s.liveCl := rfl
@[simp] theorem State.fresh_liveSl (s : State) : (s.fresh).liveSl = s.liveSl := rfl
@[simp] theorem State.fresh_groups (s : State) : (s.fresh).groups = s.groups := rfl
@[simp] theorem State.fresh_teams (s : State) : (s.fresh).teams = s.teams := rfl
@[simp] theorem State.fresh_grids (s : State) : (s.fresh).grids = s.grids := rfl
@[simp] theorem State.fresh_cores (s : State) : (s.fresh).cores = s.cores := rfl
@[simp] theorem State.fresh_clusters (s : State) : (s.fresh).clusters = s.clusters := rfl
@[simp] theorem State.fresh_sendRings (s : State) : (s.fresh).sendRings = s.sendRings := rfl
@[simp] theorem State.fresh_dies (s : State) : (s.fresh).dies = s.dies := rfl
@[simp] theorem State.fresh_slices (s : State) : (s.fresh).slices = s.slices := rfl
@[simp] theorem State.fresh_tenants (s : State) : (s.fresh).tenants = s.tenants := rfl
@[simp] theorem State.fresh_trigs (s : State) : (s.fresh).trigs = s.trigs := rfl
@[simp] theorem State.fresh_counts (s : State) : (s.fresh).counts = s.counts := rfl
@[simp] theorem State.fresh_taskqs (s : State) : (s.fresh).taskqs = s.taskqs := rfl
@[simp] theorem State.fresh_swapped (s : State) : (s.fresh).swapped = s.swapped := rfl
@[simp] theorem State.fresh_kills (s : State) : (s.fresh).kills = s.kills := rfl
@[simp] theorem State.fresh_captures (s : State) : (s.fresh).captures = s.captures := rfl
@[simp] theorem State.fresh_held (s : State) : (s.fresh).held = s.held := rfl
@[simp] theorem State.fresh_parts (s : State) : (s.fresh).parts = s.parts := rfl
@[simp] theorem State.fresh_hostqs (s : State) : (s.fresh).hostqs = s.hostqs := rfl
@[simp] theorem State.fresh_packets (s : State) : (s.fresh).packets = s.packets := rfl
@[simp] theorem State.fresh_fe (s : State) : (s.fresh).fe = s.fe := rfl
@[simp] theorem State.fresh_plat (s : State) : (s.fresh).plat = s.plat := rfl
@[simp] theorem State.fresh_msix (s : State) : (s.fresh).msix = s.msix := rfl
@[simp] theorem State.fresh_mem (s : State) : (s.fresh).mem = s.mem := rfl
@[simp] theorem State.fresh_storeMem (s : State) : (s.fresh).storeMem = s.storeMem := rfl
@[simp] theorem State.fresh_scratch (s : State) : (s.fresh).scratch = s.scratch := rfl
@[simp] theorem State.fresh_tags (s : State) : (s.fresh).tags = s.tags := rfl

/-! `State.mustWait` changes `stall` alone. -/
@[simp] theorem State.mustWait_sched (s : State) : (s.mustWait).sched = s.sched := rfl
@[simp] theorem State.mustWait_turnNo (s : State) : (s.mustWait).turnNo = s.turnNo := rfl
@[simp] theorem State.mustWait_freeCtr (s : State) : (s.mustWait).freeCtr = s.freeCtr := rfl
@[simp] theorem State.mustWait_nextUid (s : State) : (s.mustWait).nextUid = s.nextUid := rfl
@[simp] theorem State.mustWait_sel (s : State) : (s.mustWait).sel = s.sel := rfl
@[simp] theorem State.mustWait_clock (s : State) : (s.mustWait).clock = s.clock := rfl
@[simp] theorem State.mustWait_power (s : State) : (s.mustWait).power = s.power := rfl
@[simp] theorem State.mustWait_acting (s : State) : (s.mustWait).acting = s.acting := rfl
@[simp] theorem State.mustWait_asks (s : State) : (s.mustWait).asks = s.asks := rfl
@[simp] theorem State.mustWait_granted (s : State) : (s.mustWait).granted = s.granted := rfl
@[simp] theorem State.mustWait_peerNo (s : State) : (s.mustWait).peerNo = s.peerNo := rfl
@[simp] theorem State.mustWait_liveCl (s : State) : (s.mustWait).liveCl = s.liveCl := rfl
@[simp] theorem State.mustWait_liveSl (s : State) : (s.mustWait).liveSl = s.liveSl := rfl
@[simp] theorem State.mustWait_groups (s : State) : (s.mustWait).groups = s.groups := rfl
@[simp] theorem State.mustWait_teams (s : State) : (s.mustWait).teams = s.teams := rfl
@[simp] theorem State.mustWait_grids (s : State) : (s.mustWait).grids = s.grids := rfl
@[simp] theorem State.mustWait_cores (s : State) : (s.mustWait).cores = s.cores := rfl
@[simp] theorem State.mustWait_clusters (s : State) : (s.mustWait).clusters = s.clusters := rfl
@[simp] theorem State.mustWait_sendRings (s : State) : (s.mustWait).sendRings = s.sendRings := rfl
@[simp] theorem State.mustWait_dies (s : State) : (s.mustWait).dies = s.dies := rfl
@[simp] theorem State.mustWait_slices (s : State) : (s.mustWait).slices = s.slices := rfl
@[simp] theorem State.mustWait_tenants (s : State) : (s.mustWait).tenants = s.tenants := rfl
@[simp] theorem State.mustWait_trigs (s : State) : (s.mustWait).trigs = s.trigs := rfl
@[simp] theorem State.mustWait_counts (s : State) : (s.mustWait).counts = s.counts := rfl
@[simp] theorem State.mustWait_taskqs (s : State) : (s.mustWait).taskqs = s.taskqs := rfl
@[simp] theorem State.mustWait_swapped (s : State) : (s.mustWait).swapped = s.swapped := rfl
@[simp] theorem State.mustWait_kills (s : State) : (s.mustWait).kills = s.kills := rfl
@[simp] theorem State.mustWait_captures (s : State) : (s.mustWait).captures = s.captures := rfl
@[simp] theorem State.mustWait_held (s : State) : (s.mustWait).held = s.held := rfl
@[simp] theorem State.mustWait_parts (s : State) : (s.mustWait).parts = s.parts := rfl
@[simp] theorem State.mustWait_hostqs (s : State) : (s.mustWait).hostqs = s.hostqs := rfl
@[simp] theorem State.mustWait_packets (s : State) : (s.mustWait).packets = s.packets := rfl
@[simp] theorem State.mustWait_fe (s : State) : (s.mustWait).fe = s.fe := rfl
@[simp] theorem State.mustWait_plat (s : State) : (s.mustWait).plat = s.plat := rfl
@[simp] theorem State.mustWait_msix (s : State) : (s.mustWait).msix = s.msix := rfl
@[simp] theorem State.mustWait_mem (s : State) : (s.mustWait).mem = s.mem := rfl
@[simp] theorem State.mustWait_storeMem (s : State) : (s.mustWait).storeMem = s.storeMem := rfl
@[simp] theorem State.mustWait_scratch (s : State) : (s.mustWait).scratch = s.scratch := rfl
@[simp] theorem State.mustWait_tags (s : State) : (s.mustWait).tags = s.tags := rfl

/-! `State.note` changes `asks` alone. -/
@[simp] theorem State.note_sched (s : State) (k : Ask) : (s.note k).sched = s.sched := rfl
@[simp] theorem State.note_turnNo (s : State) (k : Ask) : (s.note k).turnNo = s.turnNo := rfl
@[simp] theorem State.note_freeCtr (s : State) (k : Ask) : (s.note k).freeCtr = s.freeCtr := rfl
@[simp] theorem State.note_nextUid (s : State) (k : Ask) : (s.note k).nextUid = s.nextUid := rfl
@[simp] theorem State.note_sel (s : State) (k : Ask) : (s.note k).sel = s.sel := rfl
@[simp] theorem State.note_clock (s : State) (k : Ask) : (s.note k).clock = s.clock := rfl
@[simp] theorem State.note_power (s : State) (k : Ask) : (s.note k).power = s.power := rfl
@[simp] theorem State.note_stall (s : State) (k : Ask) : (s.note k).stall = s.stall := rfl
@[simp] theorem State.note_acting (s : State) (k : Ask) : (s.note k).acting = s.acting := rfl
@[simp] theorem State.note_granted (s : State) (k : Ask) : (s.note k).granted = s.granted := rfl
@[simp] theorem State.note_peerNo (s : State) (k : Ask) : (s.note k).peerNo = s.peerNo := rfl
@[simp] theorem State.note_liveCl (s : State) (k : Ask) : (s.note k).liveCl = s.liveCl := rfl
@[simp] theorem State.note_liveSl (s : State) (k : Ask) : (s.note k).liveSl = s.liveSl := rfl
@[simp] theorem State.note_groups (s : State) (k : Ask) : (s.note k).groups = s.groups := rfl
@[simp] theorem State.note_teams (s : State) (k : Ask) : (s.note k).teams = s.teams := rfl
@[simp] theorem State.note_grids (s : State) (k : Ask) : (s.note k).grids = s.grids := rfl
@[simp] theorem State.note_cores (s : State) (k : Ask) : (s.note k).cores = s.cores := rfl
@[simp] theorem State.note_clusters (s : State) (k : Ask) : (s.note k).clusters = s.clusters := rfl
@[simp] theorem State.note_sendRings (s : State) (k : Ask) : (s.note k).sendRings = s.sendRings := rfl
@[simp] theorem State.note_dies (s : State) (k : Ask) : (s.note k).dies = s.dies := rfl
@[simp] theorem State.note_slices (s : State) (k : Ask) : (s.note k).slices = s.slices := rfl
@[simp] theorem State.note_tenants (s : State) (k : Ask) : (s.note k).tenants = s.tenants := rfl
@[simp] theorem State.note_trigs (s : State) (k : Ask) : (s.note k).trigs = s.trigs := rfl
@[simp] theorem State.note_counts (s : State) (k : Ask) : (s.note k).counts = s.counts := rfl
@[simp] theorem State.note_taskqs (s : State) (k : Ask) : (s.note k).taskqs = s.taskqs := rfl
@[simp] theorem State.note_swapped (s : State) (k : Ask) : (s.note k).swapped = s.swapped := rfl
@[simp] theorem State.note_kills (s : State) (k : Ask) : (s.note k).kills = s.kills := rfl
@[simp] theorem State.note_captures (s : State) (k : Ask) : (s.note k).captures = s.captures := rfl
@[simp] theorem State.note_held (s : State) (k : Ask) : (s.note k).held = s.held := rfl
@[simp] theorem State.note_parts (s : State) (k : Ask) : (s.note k).parts = s.parts := rfl
@[simp] theorem State.note_hostqs (s : State) (k : Ask) : (s.note k).hostqs = s.hostqs := rfl
@[simp] theorem State.note_packets (s : State) (k : Ask) : (s.note k).packets = s.packets := rfl
@[simp] theorem State.note_fe (s : State) (k : Ask) : (s.note k).fe = s.fe := rfl
@[simp] theorem State.note_plat (s : State) (k : Ask) : (s.note k).plat = s.plat := rfl
@[simp] theorem State.note_msix (s : State) (k : Ask) : (s.note k).msix = s.msix := rfl
@[simp] theorem State.note_mem (s : State) (k : Ask) : (s.note k).mem = s.mem := rfl
@[simp] theorem State.note_storeMem (s : State) (k : Ask) : (s.note k).storeMem = s.storeMem := rfl
@[simp] theorem State.note_scratch (s : State) (k : Ask) : (s.note k).scratch = s.scratch := rfl
@[simp] theorem State.note_tags (s : State) (k : Ask) : (s.note k).tags = s.tags := rfl

/-! `State.again` changes `stall` and `asks` alone. -/
@[simp] theorem State.again_sched (s t : State) : (s.again t).sched = s.sched := rfl
@[simp] theorem State.again_turnNo (s t : State) : (s.again t).turnNo = s.turnNo := rfl
@[simp] theorem State.again_freeCtr (s t : State) : (s.again t).freeCtr = s.freeCtr := rfl
@[simp] theorem State.again_nextUid (s t : State) : (s.again t).nextUid = s.nextUid := rfl
@[simp] theorem State.again_sel (s t : State) : (s.again t).sel = s.sel := rfl
@[simp] theorem State.again_clock (s t : State) : (s.again t).clock = s.clock := rfl
@[simp] theorem State.again_power (s t : State) : (s.again t).power = s.power := rfl
@[simp] theorem State.again_acting (s t : State) : (s.again t).acting = s.acting := rfl
@[simp] theorem State.again_granted (s t : State) : (s.again t).granted = s.granted := rfl
@[simp] theorem State.again_peerNo (s t : State) : (s.again t).peerNo = s.peerNo := rfl
@[simp] theorem State.again_liveCl (s t : State) : (s.again t).liveCl = s.liveCl := rfl
@[simp] theorem State.again_liveSl (s t : State) : (s.again t).liveSl = s.liveSl := rfl
@[simp] theorem State.again_groups (s t : State) : (s.again t).groups = s.groups := rfl
@[simp] theorem State.again_teams (s t : State) : (s.again t).teams = s.teams := rfl
@[simp] theorem State.again_grids (s t : State) : (s.again t).grids = s.grids := rfl
@[simp] theorem State.again_cores (s t : State) : (s.again t).cores = s.cores := rfl
@[simp] theorem State.again_clusters (s t : State) : (s.again t).clusters = s.clusters := rfl
@[simp] theorem State.again_sendRings (s t : State) : (s.again t).sendRings = s.sendRings := rfl
@[simp] theorem State.again_dies (s t : State) : (s.again t).dies = s.dies := rfl
@[simp] theorem State.again_slices (s t : State) : (s.again t).slices = s.slices := rfl
@[simp] theorem State.again_tenants (s t : State) : (s.again t).tenants = s.tenants := rfl
@[simp] theorem State.again_trigs (s t : State) : (s.again t).trigs = s.trigs := rfl
@[simp] theorem State.again_counts (s t : State) : (s.again t).counts = s.counts := rfl
@[simp] theorem State.again_taskqs (s t : State) : (s.again t).taskqs = s.taskqs := rfl
@[simp] theorem State.again_swapped (s t : State) : (s.again t).swapped = s.swapped := rfl
@[simp] theorem State.again_kills (s t : State) : (s.again t).kills = s.kills := rfl
@[simp] theorem State.again_captures (s t : State) : (s.again t).captures = s.captures := rfl
@[simp] theorem State.again_held (s t : State) : (s.again t).held = s.held := rfl
@[simp] theorem State.again_parts (s t : State) : (s.again t).parts = s.parts := rfl
@[simp] theorem State.again_hostqs (s t : State) : (s.again t).hostqs = s.hostqs := rfl
@[simp] theorem State.again_packets (s t : State) : (s.again t).packets = s.packets := rfl
@[simp] theorem State.again_fe (s t : State) : (s.again t).fe = s.fe := rfl
@[simp] theorem State.again_plat (s t : State) : (s.again t).plat = s.plat := rfl
@[simp] theorem State.again_msix (s t : State) : (s.again t).msix = s.msix := rfl
@[simp] theorem State.again_mem (s t : State) : (s.again t).mem = s.mem := rfl
@[simp] theorem State.again_storeMem (s t : State) : (s.again t).storeMem = s.storeMem := rfl
@[simp] theorem State.again_scratch (s t : State) : (s.again t).scratch = s.scratch := rfl
@[simp] theorem State.again_tags (s t : State) : (s.again t).tags = s.tags := rfl

/-! `State.used` changes `freeCtr` alone. -/
@[simp] theorem State.used_sched (s : State) : (s.used).sched = s.sched := rfl
@[simp] theorem State.used_turnNo (s : State) : (s.used).turnNo = s.turnNo := rfl
@[simp] theorem State.used_nextUid (s : State) : (s.used).nextUid = s.nextUid := rfl
@[simp] theorem State.used_sel (s : State) : (s.used).sel = s.sel := rfl
@[simp] theorem State.used_clock (s : State) : (s.used).clock = s.clock := rfl
@[simp] theorem State.used_power (s : State) : (s.used).power = s.power := rfl
@[simp] theorem State.used_stall (s : State) : (s.used).stall = s.stall := rfl
@[simp] theorem State.used_acting (s : State) : (s.used).acting = s.acting := rfl
@[simp] theorem State.used_asks (s : State) : (s.used).asks = s.asks := rfl
@[simp] theorem State.used_granted (s : State) : (s.used).granted = s.granted := rfl
@[simp] theorem State.used_peerNo (s : State) : (s.used).peerNo = s.peerNo := rfl
@[simp] theorem State.used_liveCl (s : State) : (s.used).liveCl = s.liveCl := rfl
@[simp] theorem State.used_liveSl (s : State) : (s.used).liveSl = s.liveSl := rfl
@[simp] theorem State.used_groups (s : State) : (s.used).groups = s.groups := rfl
@[simp] theorem State.used_teams (s : State) : (s.used).teams = s.teams := rfl
@[simp] theorem State.used_grids (s : State) : (s.used).grids = s.grids := rfl
@[simp] theorem State.used_cores (s : State) : (s.used).cores = s.cores := rfl
@[simp] theorem State.used_clusters (s : State) : (s.used).clusters = s.clusters := rfl
@[simp] theorem State.used_sendRings (s : State) : (s.used).sendRings = s.sendRings := rfl
@[simp] theorem State.used_dies (s : State) : (s.used).dies = s.dies := rfl
@[simp] theorem State.used_slices (s : State) : (s.used).slices = s.slices := rfl
@[simp] theorem State.used_tenants (s : State) : (s.used).tenants = s.tenants := rfl
@[simp] theorem State.used_trigs (s : State) : (s.used).trigs = s.trigs := rfl
@[simp] theorem State.used_counts (s : State) : (s.used).counts = s.counts := rfl
@[simp] theorem State.used_taskqs (s : State) : (s.used).taskqs = s.taskqs := rfl
@[simp] theorem State.used_swapped (s : State) : (s.used).swapped = s.swapped := rfl
@[simp] theorem State.used_kills (s : State) : (s.used).kills = s.kills := rfl
@[simp] theorem State.used_captures (s : State) : (s.used).captures = s.captures := rfl
@[simp] theorem State.used_held (s : State) : (s.used).held = s.held := rfl
@[simp] theorem State.used_parts (s : State) : (s.used).parts = s.parts := rfl
@[simp] theorem State.used_hostqs (s : State) : (s.used).hostqs = s.hostqs := rfl
@[simp] theorem State.used_packets (s : State) : (s.used).packets = s.packets := rfl
@[simp] theorem State.used_fe (s : State) : (s.used).fe = s.fe := rfl
@[simp] theorem State.used_plat (s : State) : (s.used).plat = s.plat := rfl
@[simp] theorem State.used_msix (s : State) : (s.used).msix = s.msix := rfl
@[simp] theorem State.used_mem (s : State) : (s.used).mem = s.mem := rfl
@[simp] theorem State.used_storeMem (s : State) : (s.used).storeMem = s.storeMem := rfl
@[simp] theorem State.used_scratch (s : State) : (s.used).scratch = s.scratch := rfl
@[simp] theorem State.used_tags (s : State) : (s.used).tags = s.tags := rfl

/-! `Group.setFrag` changes `frags` alone. -/
@[simp] theorem Group.setFrag_uid (g : Group) (f : Frag) : (g.setFrag f).uid = g.uid := rfl
@[simp] theorem Group.setFrag_unit (g : Group) (f : Frag) : (g.setFrag f).unit = g.unit := rfl
@[simp] theorem Group.setFrag_grid (g : Group) (f : Frag) : (g.setFrag f).grid = g.grid := rfl
@[simp] theorem Group.setFrag_role (g : Group) (f : Frag) : (g.setFrag f).role = g.role := rfl
@[simp] theorem Group.setFrag_gnum (g : Group) (f : Frag) : (g.setFrag f).gnum = g.gnum := rfl
@[simp] theorem Group.setFrag_lin (g : Group) (f : Frag) : (g.setFrag f).lin = g.lin := rfl
@[simp] theorem Group.setFrag_tx (g : Group) (f : Frag) : (g.setFrag f).tx = g.tx := rfl
@[simp] theorem Group.setFrag_ty (g : Group) (f : Frag) : (g.setFrag f).ty = g.ty := rfl
@[simp] theorem Group.setFrag_tz (g : Group) (f : Frag) : (g.setFrag f).tz = g.tz := rfl
@[simp] theorem Group.setFrag_asid (g : Group) (f : Frag) : (g.setFrag f).asid = g.asid := rfl
@[simp] theorem Group.setFrag_tenant (g : Group) (f : Frag) : (g.setFrag f).tenant = g.tenant := rfl
@[simp] theorem Group.setFrag_part (g : Group) (f : Frag) : (g.setFrag f).part = g.part := rfl
@[simp] theorem Group.setFrag_prio (g : Group) (f : Frag) : (g.setFrag f).prio = g.prio := rfl
@[simp] theorem Group.setFrag_budget (g : Group) (f : Frag) : (g.setFrag f).budget = g.budget := rfl
@[simp] theorem Group.setFrag_task (g : Group) (f : Frag) : (g.setFrag f).task = g.task := rfl
@[simp] theorem Group.setFrag_swapt (g : Group) (f : Frag) : (g.setFrag f).swapt = g.swapt := rfl
@[simp] theorem Group.setFrag_fpmode (g : Group) (f : Frag) : (g.setFrag f).fpmode = g.fpmode := rfl
@[simp] theorem Group.setFrag_fpflags (g : Group) (f : Frag) : (g.setFrag f).fpflags = g.fpflags := rfl
@[simp] theorem Group.setFrag_regs (g : Group) (f : Frag) : (g.setFrag f).regs = g.regs := rfl
@[simp] theorem Group.setFrag_trap (g : Group) (f : Frag) : (g.setFrag f).trap = g.trap := rfl
@[simp] theorem Group.setFrag_flags (g : Group) (f : Frag) : (g.setFrag f).flags = g.flags := rfl
@[simp] theorem Group.setFrag_flagErr (g : Group) (f : Frag) : (g.setFrag f).flagErr = g.flagErr := rfl
@[simp] theorem Group.setFrag_deferred (g : Group) (f : Frag) : (g.setFrag f).deferred = g.deferred := rfl
@[simp] theorem Group.setFrag_nextFrag (g : Group) (f : Frag) : (g.setFrag f).nextFrag = g.nextFrag := rfl
@[simp] theorem Group.setFrag_nextOrder (g : Group) (f : Frag) : (g.setFrag f).nextOrder = g.nextOrder := rfl
@[simp] theorem Group.setFrag_exited (g : Group) (f : Frag) : (g.setFrag f).exited = g.exited := rfl
@[simp] theorem Group.setFrag_arrgen (g : Group) (f : Frag) : (g.setFrag f).arrgen = g.arrgen := rfl
@[simp] theorem Group.setFrag_guardRep (g : Group) (f : Frag) : (g.setFrag f).guardRep = g.guardRep := rfl
@[simp] theorem Group.setFrag_fenced (g : Group) (f : Frag) : (g.setFrag f).fenced = g.fenced := rfl
@[simp] theorem Group.setFrag_arrivedAt (g : Group) (f : Frag) : (g.setFrag f).arrivedAt = g.arrivedAt := rfl
@[simp] theorem Group.setFrag_ops (g : Group) (f : Frag) : (g.setFrag f).ops = g.ops := rfl
@[simp] theorem Group.setFrag_ending (g : Group) (f : Frag) : (g.setFrag f).ending = g.ending := rfl
@[simp] theorem Group.setFrag_halted (g : Group) (f : Frag) : (g.setFrag f).halted = g.halted := rfl
@[simp] theorem Group.setFrag_usedMx (g : Group) (f : Frag) : (g.setFrag f).usedMx = g.usedMx := rfl
@[simp] theorem Group.setFrag_draining (g : Group) (f : Frag) : (g.setFrag f).draining = g.draining := rfl

/-! `Group.startOp` changes `flags` and `ops` alone. -/
@[simp] theorem Group.startOp_uid (g : Group) (id n fid : Nat) (k : OpKind) : (g.startOp id n fid k).uid = g.uid := rfl
@[simp] theorem Group.startOp_unit (g : Group) (id n fid : Nat) (k : OpKind) : (g.startOp id n fid k).unit = g.unit := rfl
@[simp] theorem Group.startOp_grid (g : Group) (id n fid : Nat) (k : OpKind) : (g.startOp id n fid k).grid = g.grid := rfl
@[simp] theorem Group.startOp_role (g : Group) (id n fid : Nat) (k : OpKind) : (g.startOp id n fid k).role = g.role := rfl
@[simp] theorem Group.startOp_gnum (g : Group) (id n fid : Nat) (k : OpKind) : (g.startOp id n fid k).gnum = g.gnum := rfl
@[simp] theorem Group.startOp_lin (g : Group) (id n fid : Nat) (k : OpKind) : (g.startOp id n fid k).lin = g.lin := rfl
@[simp] theorem Group.startOp_tx (g : Group) (id n fid : Nat) (k : OpKind) : (g.startOp id n fid k).tx = g.tx := rfl
@[simp] theorem Group.startOp_ty (g : Group) (id n fid : Nat) (k : OpKind) : (g.startOp id n fid k).ty = g.ty := rfl
@[simp] theorem Group.startOp_tz (g : Group) (id n fid : Nat) (k : OpKind) : (g.startOp id n fid k).tz = g.tz := rfl
@[simp] theorem Group.startOp_asid (g : Group) (id n fid : Nat) (k : OpKind) : (g.startOp id n fid k).asid = g.asid := rfl
@[simp] theorem Group.startOp_tenant (g : Group) (id n fid : Nat) (k : OpKind) : (g.startOp id n fid k).tenant = g.tenant := rfl
@[simp] theorem Group.startOp_part (g : Group) (id n fid : Nat) (k : OpKind) : (g.startOp id n fid k).part = g.part := rfl
@[simp] theorem Group.startOp_prio (g : Group) (id n fid : Nat) (k : OpKind) : (g.startOp id n fid k).prio = g.prio := rfl
@[simp] theorem Group.startOp_budget (g : Group) (id n fid : Nat) (k : OpKind) : (g.startOp id n fid k).budget = g.budget := rfl
@[simp] theorem Group.startOp_task (g : Group) (id n fid : Nat) (k : OpKind) : (g.startOp id n fid k).task = g.task := rfl
@[simp] theorem Group.startOp_swapt (g : Group) (id n fid : Nat) (k : OpKind) : (g.startOp id n fid k).swapt = g.swapt := rfl
@[simp] theorem Group.startOp_fpmode (g : Group) (id n fid : Nat) (k : OpKind) : (g.startOp id n fid k).fpmode = g.fpmode := rfl
@[simp] theorem Group.startOp_fpflags (g : Group) (id n fid : Nat) (k : OpKind) : (g.startOp id n fid k).fpflags = g.fpflags := rfl
@[simp] theorem Group.startOp_regs (g : Group) (id n fid : Nat) (k : OpKind) : (g.startOp id n fid k).regs = g.regs := rfl
@[simp] theorem Group.startOp_trap (g : Group) (id n fid : Nat) (k : OpKind) : (g.startOp id n fid k).trap = g.trap := rfl
@[simp] theorem Group.startOp_flagErr (g : Group) (id n fid : Nat) (k : OpKind) : (g.startOp id n fid k).flagErr = g.flagErr := rfl
@[simp] theorem Group.startOp_frags (g : Group) (id n fid : Nat) (k : OpKind) : (g.startOp id n fid k).frags = g.frags := rfl
@[simp] theorem Group.startOp_deferred (g : Group) (id n fid : Nat) (k : OpKind) : (g.startOp id n fid k).deferred = g.deferred := rfl
@[simp] theorem Group.startOp_nextFrag (g : Group) (id n fid : Nat) (k : OpKind) : (g.startOp id n fid k).nextFrag = g.nextFrag := rfl
@[simp] theorem Group.startOp_nextOrder (g : Group) (id n fid : Nat) (k : OpKind) : (g.startOp id n fid k).nextOrder = g.nextOrder := rfl
@[simp] theorem Group.startOp_exited (g : Group) (id n fid : Nat) (k : OpKind) : (g.startOp id n fid k).exited = g.exited := rfl
@[simp] theorem Group.startOp_arrgen (g : Group) (id n fid : Nat) (k : OpKind) : (g.startOp id n fid k).arrgen = g.arrgen := rfl
@[simp] theorem Group.startOp_guardRep (g : Group) (id n fid : Nat) (k : OpKind) : (g.startOp id n fid k).guardRep = g.guardRep := rfl
@[simp] theorem Group.startOp_fenced (g : Group) (id n fid : Nat) (k : OpKind) : (g.startOp id n fid k).fenced = g.fenced := rfl
@[simp] theorem Group.startOp_arrivedAt (g : Group) (id n fid : Nat) (k : OpKind) : (g.startOp id n fid k).arrivedAt = g.arrivedAt := rfl
@[simp] theorem Group.startOp_ending (g : Group) (id n fid : Nat) (k : OpKind) : (g.startOp id n fid k).ending = g.ending := rfl
@[simp] theorem Group.startOp_halted (g : Group) (id n fid : Nat) (k : OpKind) : (g.startOp id n fid k).halted = g.halted := rfl
@[simp] theorem Group.startOp_usedMx (g : Group) (id n fid : Nat) (k : OpKind) : (g.startOp id n fid k).usedMx = g.usedMx := rfl
@[simp] theorem Group.startOp_draining (g : Group) (id n fid : Nat) (k : OpKind) : (g.startOp id n fid k).draining = g.draining := rfl

/-! `Group.setOp` changes `ops` alone. -/
@[simp] theorem Group.setOp_uid (g : Group) (id : Nat) (k : OpKind) : (g.setOp id k).uid = g.uid := rfl
@[simp] theorem Group.setOp_unit (g : Group) (id : Nat) (k : OpKind) : (g.setOp id k).unit = g.unit := rfl
@[simp] theorem Group.setOp_grid (g : Group) (id : Nat) (k : OpKind) : (g.setOp id k).grid = g.grid := rfl
@[simp] theorem Group.setOp_role (g : Group) (id : Nat) (k : OpKind) : (g.setOp id k).role = g.role := rfl
@[simp] theorem Group.setOp_gnum (g : Group) (id : Nat) (k : OpKind) : (g.setOp id k).gnum = g.gnum := rfl
@[simp] theorem Group.setOp_lin (g : Group) (id : Nat) (k : OpKind) : (g.setOp id k).lin = g.lin := rfl
@[simp] theorem Group.setOp_tx (g : Group) (id : Nat) (k : OpKind) : (g.setOp id k).tx = g.tx := rfl
@[simp] theorem Group.setOp_ty (g : Group) (id : Nat) (k : OpKind) : (g.setOp id k).ty = g.ty := rfl
@[simp] theorem Group.setOp_tz (g : Group) (id : Nat) (k : OpKind) : (g.setOp id k).tz = g.tz := rfl
@[simp] theorem Group.setOp_asid (g : Group) (id : Nat) (k : OpKind) : (g.setOp id k).asid = g.asid := rfl
@[simp] theorem Group.setOp_tenant (g : Group) (id : Nat) (k : OpKind) : (g.setOp id k).tenant = g.tenant := rfl
@[simp] theorem Group.setOp_part (g : Group) (id : Nat) (k : OpKind) : (g.setOp id k).part = g.part := rfl
@[simp] theorem Group.setOp_prio (g : Group) (id : Nat) (k : OpKind) : (g.setOp id k).prio = g.prio := rfl
@[simp] theorem Group.setOp_budget (g : Group) (id : Nat) (k : OpKind) : (g.setOp id k).budget = g.budget := rfl
@[simp] theorem Group.setOp_task (g : Group) (id : Nat) (k : OpKind) : (g.setOp id k).task = g.task := rfl
@[simp] theorem Group.setOp_swapt (g : Group) (id : Nat) (k : OpKind) : (g.setOp id k).swapt = g.swapt := rfl
@[simp] theorem Group.setOp_fpmode (g : Group) (id : Nat) (k : OpKind) : (g.setOp id k).fpmode = g.fpmode := rfl
@[simp] theorem Group.setOp_fpflags (g : Group) (id : Nat) (k : OpKind) : (g.setOp id k).fpflags = g.fpflags := rfl
@[simp] theorem Group.setOp_regs (g : Group) (id : Nat) (k : OpKind) : (g.setOp id k).regs = g.regs := rfl
@[simp] theorem Group.setOp_trap (g : Group) (id : Nat) (k : OpKind) : (g.setOp id k).trap = g.trap := rfl
@[simp] theorem Group.setOp_flags (g : Group) (id : Nat) (k : OpKind) : (g.setOp id k).flags = g.flags := rfl
@[simp] theorem Group.setOp_flagErr (g : Group) (id : Nat) (k : OpKind) : (g.setOp id k).flagErr = g.flagErr := rfl
@[simp] theorem Group.setOp_frags (g : Group) (id : Nat) (k : OpKind) : (g.setOp id k).frags = g.frags := rfl
@[simp] theorem Group.setOp_deferred (g : Group) (id : Nat) (k : OpKind) : (g.setOp id k).deferred = g.deferred := rfl
@[simp] theorem Group.setOp_nextFrag (g : Group) (id : Nat) (k : OpKind) : (g.setOp id k).nextFrag = g.nextFrag := rfl
@[simp] theorem Group.setOp_nextOrder (g : Group) (id : Nat) (k : OpKind) : (g.setOp id k).nextOrder = g.nextOrder := rfl
@[simp] theorem Group.setOp_exited (g : Group) (id : Nat) (k : OpKind) : (g.setOp id k).exited = g.exited := rfl
@[simp] theorem Group.setOp_arrgen (g : Group) (id : Nat) (k : OpKind) : (g.setOp id k).arrgen = g.arrgen := rfl
@[simp] theorem Group.setOp_guardRep (g : Group) (id : Nat) (k : OpKind) : (g.setOp id k).guardRep = g.guardRep := rfl
@[simp] theorem Group.setOp_fenced (g : Group) (id : Nat) (k : OpKind) : (g.setOp id k).fenced = g.fenced := rfl
@[simp] theorem Group.setOp_arrivedAt (g : Group) (id : Nat) (k : OpKind) : (g.setOp id k).arrivedAt = g.arrivedAt := rfl
@[simp] theorem Group.setOp_ending (g : Group) (id : Nat) (k : OpKind) : (g.setOp id k).ending = g.ending := rfl
@[simp] theorem Group.setOp_halted (g : Group) (id : Nat) (k : OpKind) : (g.setOp id k).halted = g.halted := rfl
@[simp] theorem Group.setOp_usedMx (g : Group) (id : Nat) (k : OpKind) : (g.setOp id k).usedMx = g.usedMx := rfl
@[simp] theorem Group.setOp_draining (g : Group) (id : Nat) (k : OpKind) : (g.setOp id k).draining = g.draining := rfl

/-! `Group.endOp` changes `flags` and `ops` alone. -/
@[simp] theorem Group.endOp_uid (g : Group) (o : Op) : (g.endOp o).uid = g.uid := rfl
@[simp] theorem Group.endOp_unit (g : Group) (o : Op) : (g.endOp o).unit = g.unit := rfl
@[simp] theorem Group.endOp_grid (g : Group) (o : Op) : (g.endOp o).grid = g.grid := rfl
@[simp] theorem Group.endOp_role (g : Group) (o : Op) : (g.endOp o).role = g.role := rfl
@[simp] theorem Group.endOp_gnum (g : Group) (o : Op) : (g.endOp o).gnum = g.gnum := rfl
@[simp] theorem Group.endOp_lin (g : Group) (o : Op) : (g.endOp o).lin = g.lin := rfl
@[simp] theorem Group.endOp_tx (g : Group) (o : Op) : (g.endOp o).tx = g.tx := rfl
@[simp] theorem Group.endOp_ty (g : Group) (o : Op) : (g.endOp o).ty = g.ty := rfl
@[simp] theorem Group.endOp_tz (g : Group) (o : Op) : (g.endOp o).tz = g.tz := rfl
@[simp] theorem Group.endOp_asid (g : Group) (o : Op) : (g.endOp o).asid = g.asid := rfl
@[simp] theorem Group.endOp_tenant (g : Group) (o : Op) : (g.endOp o).tenant = g.tenant := rfl
@[simp] theorem Group.endOp_part (g : Group) (o : Op) : (g.endOp o).part = g.part := rfl
@[simp] theorem Group.endOp_prio (g : Group) (o : Op) : (g.endOp o).prio = g.prio := rfl
@[simp] theorem Group.endOp_budget (g : Group) (o : Op) : (g.endOp o).budget = g.budget := rfl
@[simp] theorem Group.endOp_task (g : Group) (o : Op) : (g.endOp o).task = g.task := rfl
@[simp] theorem Group.endOp_swapt (g : Group) (o : Op) : (g.endOp o).swapt = g.swapt := rfl
@[simp] theorem Group.endOp_fpmode (g : Group) (o : Op) : (g.endOp o).fpmode = g.fpmode := rfl
@[simp] theorem Group.endOp_fpflags (g : Group) (o : Op) : (g.endOp o).fpflags = g.fpflags := rfl
@[simp] theorem Group.endOp_regs (g : Group) (o : Op) : (g.endOp o).regs = g.regs := rfl
@[simp] theorem Group.endOp_trap (g : Group) (o : Op) : (g.endOp o).trap = g.trap := rfl
@[simp] theorem Group.endOp_flagErr (g : Group) (o : Op) : (g.endOp o).flagErr = g.flagErr := rfl
@[simp] theorem Group.endOp_frags (g : Group) (o : Op) : (g.endOp o).frags = g.frags := rfl
@[simp] theorem Group.endOp_deferred (g : Group) (o : Op) : (g.endOp o).deferred = g.deferred := rfl
@[simp] theorem Group.endOp_nextFrag (g : Group) (o : Op) : (g.endOp o).nextFrag = g.nextFrag := rfl
@[simp] theorem Group.endOp_nextOrder (g : Group) (o : Op) : (g.endOp o).nextOrder = g.nextOrder := rfl
@[simp] theorem Group.endOp_exited (g : Group) (o : Op) : (g.endOp o).exited = g.exited := rfl
@[simp] theorem Group.endOp_arrgen (g : Group) (o : Op) : (g.endOp o).arrgen = g.arrgen := rfl
@[simp] theorem Group.endOp_guardRep (g : Group) (o : Op) : (g.endOp o).guardRep = g.guardRep := rfl
@[simp] theorem Group.endOp_fenced (g : Group) (o : Op) : (g.endOp o).fenced = g.fenced := rfl
@[simp] theorem Group.endOp_arrivedAt (g : Group) (o : Op) : (g.endOp o).arrivedAt = g.arrivedAt := rfl
@[simp] theorem Group.endOp_ending (g : Group) (o : Op) : (g.endOp o).ending = g.ending := rfl
@[simp] theorem Group.endOp_halted (g : Group) (o : Op) : (g.endOp o).halted = g.halted := rfl
@[simp] theorem Group.endOp_usedMx (g : Group) (o : Op) : (g.endOp o).usedMx = g.usedMx := rfl
@[simp] theorem Group.endOp_draining (g : Group) (o : Op) : (g.endOp o).draining = g.draining := rfl

/-! `Group.completeFlag` changes `flags` alone. -/
@[simp] theorem Group.completeFlag_uid (g : Group) (n : Nat) : (g.completeFlag n).uid = g.uid := rfl
@[simp] theorem Group.completeFlag_unit (g : Group) (n : Nat) : (g.completeFlag n).unit = g.unit := rfl
@[simp] theorem Group.completeFlag_grid (g : Group) (n : Nat) : (g.completeFlag n).grid = g.grid := rfl
@[simp] theorem Group.completeFlag_role (g : Group) (n : Nat) : (g.completeFlag n).role = g.role := rfl
@[simp] theorem Group.completeFlag_gnum (g : Group) (n : Nat) : (g.completeFlag n).gnum = g.gnum := rfl
@[simp] theorem Group.completeFlag_lin (g : Group) (n : Nat) : (g.completeFlag n).lin = g.lin := rfl
@[simp] theorem Group.completeFlag_tx (g : Group) (n : Nat) : (g.completeFlag n).tx = g.tx := rfl
@[simp] theorem Group.completeFlag_ty (g : Group) (n : Nat) : (g.completeFlag n).ty = g.ty := rfl
@[simp] theorem Group.completeFlag_tz (g : Group) (n : Nat) : (g.completeFlag n).tz = g.tz := rfl
@[simp] theorem Group.completeFlag_asid (g : Group) (n : Nat) : (g.completeFlag n).asid = g.asid := rfl
@[simp] theorem Group.completeFlag_tenant (g : Group) (n : Nat) : (g.completeFlag n).tenant = g.tenant := rfl
@[simp] theorem Group.completeFlag_part (g : Group) (n : Nat) : (g.completeFlag n).part = g.part := rfl
@[simp] theorem Group.completeFlag_prio (g : Group) (n : Nat) : (g.completeFlag n).prio = g.prio := rfl
@[simp] theorem Group.completeFlag_budget (g : Group) (n : Nat) : (g.completeFlag n).budget = g.budget := rfl
@[simp] theorem Group.completeFlag_task (g : Group) (n : Nat) : (g.completeFlag n).task = g.task := rfl
@[simp] theorem Group.completeFlag_swapt (g : Group) (n : Nat) : (g.completeFlag n).swapt = g.swapt := rfl
@[simp] theorem Group.completeFlag_fpmode (g : Group) (n : Nat) : (g.completeFlag n).fpmode = g.fpmode := rfl
@[simp] theorem Group.completeFlag_fpflags (g : Group) (n : Nat) : (g.completeFlag n).fpflags = g.fpflags := rfl
@[simp] theorem Group.completeFlag_regs (g : Group) (n : Nat) : (g.completeFlag n).regs = g.regs := rfl
@[simp] theorem Group.completeFlag_trap (g : Group) (n : Nat) : (g.completeFlag n).trap = g.trap := rfl
@[simp] theorem Group.completeFlag_flagErr (g : Group) (n : Nat) : (g.completeFlag n).flagErr = g.flagErr := rfl
@[simp] theorem Group.completeFlag_frags (g : Group) (n : Nat) : (g.completeFlag n).frags = g.frags := rfl
@[simp] theorem Group.completeFlag_deferred (g : Group) (n : Nat) : (g.completeFlag n).deferred = g.deferred := rfl
@[simp] theorem Group.completeFlag_nextFrag (g : Group) (n : Nat) : (g.completeFlag n).nextFrag = g.nextFrag := rfl
@[simp] theorem Group.completeFlag_nextOrder (g : Group) (n : Nat) : (g.completeFlag n).nextOrder = g.nextOrder := rfl
@[simp] theorem Group.completeFlag_exited (g : Group) (n : Nat) : (g.completeFlag n).exited = g.exited := rfl
@[simp] theorem Group.completeFlag_arrgen (g : Group) (n : Nat) : (g.completeFlag n).arrgen = g.arrgen := rfl
@[simp] theorem Group.completeFlag_guardRep (g : Group) (n : Nat) : (g.completeFlag n).guardRep = g.guardRep := rfl
@[simp] theorem Group.completeFlag_fenced (g : Group) (n : Nat) : (g.completeFlag n).fenced = g.fenced := rfl
@[simp] theorem Group.completeFlag_arrivedAt (g : Group) (n : Nat) : (g.completeFlag n).arrivedAt = g.arrivedAt := rfl
@[simp] theorem Group.completeFlag_ops (g : Group) (n : Nat) : (g.completeFlag n).ops = g.ops := rfl
@[simp] theorem Group.completeFlag_ending (g : Group) (n : Nat) : (g.completeFlag n).ending = g.ending := rfl
@[simp] theorem Group.completeFlag_halted (g : Group) (n : Nat) : (g.completeFlag n).halted = g.halted := rfl
@[simp] theorem Group.completeFlag_usedMx (g : Group) (n : Nat) : (g.completeFlag n).usedMx = g.usedMx := rfl
@[simp] theorem Group.completeFlag_draining (g : Group) (n : Nat) : (g.completeFlag n).draining = g.draining := rfl

/-! `Group.record` changes `trap` alone. -/
@[simp] theorem Group.record_uid (g : Group) (c : Nat) (r : CauseRec) : (g.record c r).uid = g.uid := rfl
@[simp] theorem Group.record_unit (g : Group) (c : Nat) (r : CauseRec) : (g.record c r).unit = g.unit := rfl
@[simp] theorem Group.record_grid (g : Group) (c : Nat) (r : CauseRec) : (g.record c r).grid = g.grid := rfl
@[simp] theorem Group.record_role (g : Group) (c : Nat) (r : CauseRec) : (g.record c r).role = g.role := rfl
@[simp] theorem Group.record_gnum (g : Group) (c : Nat) (r : CauseRec) : (g.record c r).gnum = g.gnum := rfl
@[simp] theorem Group.record_lin (g : Group) (c : Nat) (r : CauseRec) : (g.record c r).lin = g.lin := rfl
@[simp] theorem Group.record_tx (g : Group) (c : Nat) (r : CauseRec) : (g.record c r).tx = g.tx := rfl
@[simp] theorem Group.record_ty (g : Group) (c : Nat) (r : CauseRec) : (g.record c r).ty = g.ty := rfl
@[simp] theorem Group.record_tz (g : Group) (c : Nat) (r : CauseRec) : (g.record c r).tz = g.tz := rfl
@[simp] theorem Group.record_asid (g : Group) (c : Nat) (r : CauseRec) : (g.record c r).asid = g.asid := rfl
@[simp] theorem Group.record_tenant (g : Group) (c : Nat) (r : CauseRec) : (g.record c r).tenant = g.tenant := rfl
@[simp] theorem Group.record_part (g : Group) (c : Nat) (r : CauseRec) : (g.record c r).part = g.part := rfl
@[simp] theorem Group.record_prio (g : Group) (c : Nat) (r : CauseRec) : (g.record c r).prio = g.prio := rfl
@[simp] theorem Group.record_budget (g : Group) (c : Nat) (r : CauseRec) : (g.record c r).budget = g.budget := rfl
@[simp] theorem Group.record_task (g : Group) (c : Nat) (r : CauseRec) : (g.record c r).task = g.task := rfl
@[simp] theorem Group.record_swapt (g : Group) (c : Nat) (r : CauseRec) : (g.record c r).swapt = g.swapt := rfl
@[simp] theorem Group.record_fpmode (g : Group) (c : Nat) (r : CauseRec) : (g.record c r).fpmode = g.fpmode := rfl
@[simp] theorem Group.record_fpflags (g : Group) (c : Nat) (r : CauseRec) : (g.record c r).fpflags = g.fpflags := rfl
@[simp] theorem Group.record_regs (g : Group) (c : Nat) (r : CauseRec) : (g.record c r).regs = g.regs := rfl
@[simp] theorem Group.record_flags (g : Group) (c : Nat) (r : CauseRec) : (g.record c r).flags = g.flags := rfl
@[simp] theorem Group.record_flagErr (g : Group) (c : Nat) (r : CauseRec) : (g.record c r).flagErr = g.flagErr := rfl
@[simp] theorem Group.record_frags (g : Group) (c : Nat) (r : CauseRec) : (g.record c r).frags = g.frags := rfl
@[simp] theorem Group.record_deferred (g : Group) (c : Nat) (r : CauseRec) : (g.record c r).deferred = g.deferred := rfl
@[simp] theorem Group.record_nextFrag (g : Group) (c : Nat) (r : CauseRec) : (g.record c r).nextFrag = g.nextFrag := rfl
@[simp] theorem Group.record_nextOrder (g : Group) (c : Nat) (r : CauseRec) : (g.record c r).nextOrder = g.nextOrder := rfl
@[simp] theorem Group.record_exited (g : Group) (c : Nat) (r : CauseRec) : (g.record c r).exited = g.exited := rfl
@[simp] theorem Group.record_arrgen (g : Group) (c : Nat) (r : CauseRec) : (g.record c r).arrgen = g.arrgen := rfl
@[simp] theorem Group.record_guardRep (g : Group) (c : Nat) (r : CauseRec) : (g.record c r).guardRep = g.guardRep := rfl
@[simp] theorem Group.record_fenced (g : Group) (c : Nat) (r : CauseRec) : (g.record c r).fenced = g.fenced := rfl
@[simp] theorem Group.record_arrivedAt (g : Group) (c : Nat) (r : CauseRec) : (g.record c r).arrivedAt = g.arrivedAt := rfl
@[simp] theorem Group.record_ops (g : Group) (c : Nat) (r : CauseRec) : (g.record c r).ops = g.ops := rfl
@[simp] theorem Group.record_ending (g : Group) (c : Nat) (r : CauseRec) : (g.record c r).ending = g.ending := rfl
@[simp] theorem Group.record_halted (g : Group) (c : Nat) (r : CauseRec) : (g.record c r).halted = g.halted := rfl
@[simp] theorem Group.record_usedMx (g : Group) (c : Nat) (r : CauseRec) : (g.record c r).usedMx = g.usedMx := rfl
@[simp] theorem Group.record_draining (g : Group) (c : Nat) (r : CauseRec) : (g.record c r).draining = g.draining := rfl

end Sys2Proof.Machine
end

