-- ==== Sys2Proof/Laws/Tables.lean ====
section
/-! SUPPORT. Tables and memories: read after write, and the canonical form that every operation keeps. -/
namespace Sys2Proof.Machine

/-! ## Tables -/

/-- What was put is found. -/
@[simp] theorem Tab.find_put {α : Type} (t : Tab α) (k : Nat) (v : α) : Tab.find (Tab.put t k v) k = some v := by
  induction t with
  | nil => simp [Tab.put, Tab.find]
  | cons x xs ih =>
    unfold Tab.put
    split
    · simp [Tab.find]
    · split
      · simp [Tab.find]
      · simp only [Tab.find]; rw [if_neg (by omega)]; exact ih

/-- A put leaves every other key alone. -/
theorem Tab.find_put_ne {α : Type} (t : Tab α) (k j : Nat) (v : α) (h : j ≠ k) :
    Tab.find (Tab.put t k v) j = Tab.find t j := by
  induction t with
  | nil => simp only [Tab.put, Tab.find]; rw [if_neg (by omega)]
  | cons x xs ih =>
    unfold Tab.put
    split
    · simp only [Tab.find]; rw [if_neg (by omega)]
    · split
      · subst_vars; simp only [Tab.find]; rw [if_neg (by omega), if_neg (by omega)]
      · simp only [Tab.find, ih]

/-- Removing a key leaves every other key alone. -/
theorem Tab.find_del_ne {α : Type} (t : Tab α) (k j : Nat) (h : j ≠ k) : Tab.find (Tab.del t k) j = Tab.find t j := by
  induction t with
  | nil => rfl
  | cons x xs ih =>
    unfold Tab.del
    split
    · simp only [Tab.find]; rw [if_neg (by omega)]
    · simp only [Tab.find, ih]

/-- A higher bound is a stronger one. -/
theorem Tab.above_mono {α : Type} (t : Tab α) (a b : Nat) (h : a ≤ b) (ht : Tab.above b t = true) :
    Tab.above a t = true := by
  cases t with
  | nil => rfl
  | cons x xs =>
    simp only [Tab.above, Bool.and_eq_true, decide_eq_true_eq] at ht ⊢
    exact ⟨by omega, ht.2⟩

/-- A key below the bound is not listed. -/
theorem Tab.find_below {α : Type} (t : Tab α) (b k : Nat) (h : k < b) (ht : Tab.above b t = true) :
    Tab.find t k = none := by
  induction t generalizing b with
  | nil => rfl
  | cons x xs ih =>
    simp only [Tab.above, Bool.and_eq_true, decide_eq_true_eq] at ht
    simp only [Tab.find]
    rw [if_neg (by omega)]
    exact ih _ (by omega) ht.2

/-- Putting a key at or above the bound keeps the keys rising. -/
theorem Tab.above_put {α : Type} (t : Tab α) (b k : Nat) (v : α) (h : b ≤ k) (ht : Tab.above b t = true) :
    Tab.above b (Tab.put t k v) = true := by
  induction t generalizing b with
  | nil => simp [Tab.put, Tab.above, h]
  | cons x xs ih =>
    simp only [Tab.above, Bool.and_eq_true, decide_eq_true_eq] at ht
    unfold Tab.put
    split
    · simp only [Tab.above, Bool.and_eq_true, decide_eq_true_eq]; exact ⟨h, by omega, ht.2⟩
    · split
      · subst_vars; simp only [Tab.above, Bool.and_eq_true, decide_eq_true_eq]; exact ⟨h, ht.2⟩
      · simp only [Tab.above, Bool.and_eq_true, decide_eq_true_eq]; exact ⟨ht.1, ih _ (by omega) ht.2⟩

/-- Removing a key keeps the keys rising. -/
theorem Tab.above_del {α : Type} (t : Tab α) (b k : Nat) (ht : Tab.above b t = true) :
    Tab.above b (Tab.del t k) = true := by
  induction t generalizing b with
  | nil => rfl
  | cons x xs ih =>
    simp only [Tab.above, Bool.and_eq_true, decide_eq_true_eq] at ht
    unfold Tab.del
    split
    · exact Tab.above_mono _ _ _ (by omega) ht.2
    · simp only [Tab.above, Bool.and_eq_true, decide_eq_true_eq]; exact ⟨ht.1, ih _ ht.2⟩

/-- A put keeps a table well formed. -/
theorem Tab.wf_put {α : Type} (t : Tab α) (k : Nat) (v : α) (h : Tab.wf t = true) : Tab.wf (Tab.put t k v) = true :=
  Tab.above_put t 0 k v (Nat.zero_le k) h
/-- A removal keeps a table well formed. -/
theorem Tab.wf_del {α : Type} (t : Tab α) (k : Nat) (h : Tab.wf t = true) : Tab.wf (Tab.del t k) = true :=
  Tab.above_del t 0 k h

/-- A removed key is not found, in a well-formed table. -/
theorem Tab.find_del {α : Type} (t : Tab α) (b k : Nat) (ht : Tab.above b t = true) : Tab.find (Tab.del t k) k = none := by
  induction t generalizing b with
  | nil => rfl
  | cons x xs ih =>
    simp only [Tab.above, Bool.and_eq_true, decide_eq_true_eq] at ht
    unfold Tab.del
    split
    · subst_vars; exact Tab.find_below _ _ _ (by omega) ht.2
    · simp only [Tab.find]; rw [if_neg (by omega)]; exact ih _ ht.2

/-- A set keeps a table well formed. -/
theorem Tab.wf_set {α : Type} [DecidableEq α] (d : α) (t : Tab α) (k : Nat) (v : α) (h : Tab.wf t = true) :
    Tab.wf (Tab.set d t k v) = true := by
  unfold Tab.set; split
  · exact Tab.wf_del t k h
  · exact Tab.wf_put t k v h
/-- Reading what was set, in a well-formed table. -/
theorem Tab.get_set {α : Type} [DecidableEq α] (d : α) (t : Tab α) (k : Nat) (v : α) (h : Tab.wf t = true) :
    Tab.get d (Tab.set d t k v) k = v := by
  unfold Tab.set Tab.get; split
  · rw [Tab.find_del t 0 k h]; simp_all
  · simp
/-- A set leaves every other key alone. -/
theorem Tab.get_set_ne {α : Type} [DecidableEq α] (d : α) (t : Tab α) (k j : Nat) (v : α) (h : j ≠ k) :
    Tab.get d (Tab.set d t k v) j = Tab.get d t j := by
  unfold Tab.set Tab.get; split
  · rw [Tab.find_del_ne t k j h]
  · rw [Tab.find_put_ne t k j v h]

/-! ## Memories -/

/-- A byte reads as it was written. -/
theorem Memory.read_write (m : Memory) (a : Nat) (b : Byte) (h : Tab.wf m = true) : Memory.read (Memory.write m a b) a = b :=
  Tab.get_set _ m a b h
/-- A write leaves every other byte alone. -/
theorem Memory.read_write_ne (m : Memory) (a c : Nat) (b : Byte) (h : c ≠ a) :
    Memory.read (Memory.write m a b) c = Memory.read m c := Tab.get_set_ne _ m a c b h

/-- Every entry of a table that is put into stays as a test wants it, where the new one does. -/
theorem Tab.all_put {α : Type} (p : Nat × α → Bool) (t : Tab α) (k : Nat) (v : α) (hv : p (k, v) = true)
    (h : t.all p = true) : (Tab.put t k v).all p = true := by
  induction t with
  | nil => simp [Tab.put, hv]
  | cons x xs ih =>
    simp only [List.all_cons, Bool.and_eq_true] at h
    unfold Tab.put
    split
    · simp [hv, h.1]; exact List.all_eq_true.mp h.2 |> fun f => by simpa using f
    · split
      · simp [hv]; exact List.all_eq_true.mp h.2 |> fun f => by simpa using f
      · simp only [List.all_cons, Bool.and_eq_true]; exact ⟨h.1, ih h.2⟩
/-- What stays after a removal is as a test wants it. -/
theorem Tab.all_del {α : Type} (p : Nat × α → Bool) (t : Tab α) (k : Nat) (h : t.all p = true) :
    (Tab.del t k).all p = true := by
  induction t with
  | nil => rfl
  | cons x xs ih =>
    simp only [List.all_cons, Bool.and_eq_true] at h
    unfold Tab.del
    split
    · exact h.2
    · simp only [List.all_cons, Bool.and_eq_true]; exact ⟨h.1, ih h.2⟩

/-- A write keeps the canonical form. -/
theorem Memory.wf_write (m : Memory) (a : Nat) (b : Byte) (h : Memory.wf m = true) : Memory.wf (Memory.write m a b) = true := by
  unfold Memory.wf at *
  rw [Bool.and_eq_true] at *
  refine ⟨Tab.wf_set _ _ _ _ h.1, ?_⟩
  unfold Memory.write Tab.set
  split
  · exact Tab.all_del _ _ _ h.2
  · exact Tab.all_put _ _ _ _ (by simpa using ‹_›) h.2
/-- Writing several bytes keeps the canonical form. -/
theorem Memory.wf_writeN (bs : List Byte) (m : Memory) (a : Nat) (h : Memory.wf m = true) :
    Memory.wf (Memory.writeN m a bs) = true := by
  induction bs generalizing m a with
  | nil => exact h
  | cons b bs ih => exact ih _ _ (Memory.wf_write m a b h)
/-- Writing several bytes leaves every byte outside them alone. -/
theorem Memory.read_writeN_ne (bs : List Byte) (m : Memory) (a c : Nat) (h : c < a ∨ a + bs.length ≤ c) :
    Memory.read (Memory.writeN m a bs) c = Memory.read m c := by
  induction bs generalizing m a with
  | nil => rfl
  | cons b bs ih =>
    simp only [List.length_cons] at h
    simp only [Memory.writeN]
    rw [ih _ _ (by omega), Memory.read_write_ne _ _ _ _ (by omega)]
/-- A written byte reads back. -/
theorem Memory.read_writeN (bs : List Byte) (m : Memory) (a i : Nat) (hm : Memory.wf m = true) (hi : i < bs.length) :
    Memory.read (Memory.writeN m a bs) (a + i) = bs.getD i 0 := by
  induction bs generalizing m a i with
  | nil => simp at hi
  | cons b bs ih =>
    simp only [Memory.writeN]
    cases i with
    | zero =>
      rw [Memory.read_writeN_ne _ _ _ _ (by omega)]
      have h := hm; unfold Memory.wf at h; rw [Bool.and_eq_true] at h
      simpa using Memory.read_write m a b h.1
    | succ j =>
      have h := ih (Memory.write m a b) (a + 1) j (Memory.wf_write m a b hm) (by simpa using hi)
      rw [show a + (j + 1) = a + 1 + j by omega, h]; simp
/-- Dropping bytes keeps the canonical form. -/
theorem Tab.above_filter {α : Type} (p : Nat × α → Bool) (t : Tab α) (b : Nat) (ht : Tab.above b t = true) :
    Tab.above b (t.filter p) = true := by
  induction t generalizing b with
  | nil => rfl
  | cons x xs ih =>
    simp only [Tab.above, Bool.and_eq_true, decide_eq_true_eq] at ht
    rw [List.filter_cons]
    split
    · simp only [Tab.above, Bool.and_eq_true, decide_eq_true_eq]; exact ⟨ht.1, ih _ ht.2⟩
    · exact Tab.above_mono _ _ _ (by omega) (ih _ ht.2)
/-- Dropping bytes keeps the canonical form. -/
theorem Memory.wf_filter (m : Memory) (p : Host.Cell → Bool) (h : Memory.wf m = true) :
    Memory.wf (List.filter p m) = true := by
  unfold Memory.wf at *
  rw [Bool.and_eq_true] at *
  refine ⟨Tab.above_filter p m 0 h.1, ?_⟩
  rw [List.all_eq_true] at *
  intro x hx
  exact h.2 x (List.mem_filter.mp hx).1

end Sys2Proof.Machine
end

