-- ==== Sys2Proof/Laws/Words.lean ====
section
/-! SUPPORT. What the operations that every word shares can do: group lookup, the interval of matrix requests, traps, the
checks at issue, fixed-latency words and tracked words. -/
namespace Sys2Proof.Machine

/-! ## Groups -/

@[simp] theorem State.group_setGroup (s : State) (gk : Nat) (g : Group) : (s.setGroup gk g).group gk = some g :=
  Tab.find_put _ _ _
theorem State.group_setGroup_ne (s : State) (gk k : Nat) (g : Group) (h : k ≠ gk) :
    (s.setGroup gk g).group k = s.group k := Tab.find_put_ne _ _ _ _ h

/-! ## The interval of matrix requests -/

/-- A fold over a list keeps what each step keeps. -/
theorem foldl_keeps {α β γ : Type} (p : β → γ) (f : β → α → β) (h : ∀ s x, p (f s x) = p s) (l : List α) (s : β) :
    p (l.foldl f s) = p s := by
  induction l generalizing s with
  | nil => rfl
  | cons x xs ih => rw [List.foldl_cons, ih, h]

/-- Spoiling an accumulator keeps everything but the cores and the count of free values. -/
theorem State.taintReqs_keeps {γ : Type} (p : State → γ) (hc : ∀ s c f, p (State.updCluster s c f) = p s)
    (hk : ∀ s c f, p (State.updCore s c f) = p s) (hu : ∀ s, p (State.used s) = p s) (s : State) (cl : Nat)
    (q : MxReq → Bool) : p (s.taintReqs cl q) = p s := by
  unfold State.taintReqs
  refine foldl_keeps p _ ?_ _ _
  intro s x
  dsimp only
  split
  · rfl
  · split
    · split
      · exact foldl_keeps p _ (fun s d => by unfold State.spoilAcc; rw [hu, hk]) _ _
      · rfl
    · exact hc _ _ _
/-- Taint for written vector registers keeps what its updates keep. -/
theorem State.taintV_keeps {γ : Type} (p : State → γ) (hc : ∀ s c f, p (State.updCluster s c f) = p s)
    (hk : ∀ s c f, p (State.updCore s c f) = p s) (hu : ∀ s, p (State.used s) = p s) (s : State) (gk : Nat)
    (ns : List Nat) : p (s.taintV gk ns) = p s := by
  unfold State.taintV
  split
  · rfl
  · split
    · exact foldl_keeps p _ (fun s (x : Nat × ClusterSt) => State.taintReqs_keeps p hc hk hu s x.1 _) _ _
    · rfl
/-- Taint for written bytes keeps what its updates keep. -/
theorem State.taintB_keeps {γ : Type} (p : State → γ) (hc : ∀ s c f, p (State.updCluster s c f) = p s)
    (hk : ∀ s c f, p (State.updCore s c f) = p s) (hu : ∀ s, p (State.used s) = p s) (s : State) (cl : Nat)
    (os : List Nat) : p (s.taintB cl os) = p s := by
  unfold State.taintB
  split
  · rfl
  · exact State.taintReqs_keeps p hc hk hu _ _ _
@[simp] theorem State.taintV_groups (s : State) (gk : Nat) (ns : List Nat) : (s.taintV gk ns).groups = s.groups :=
  State.taintV_keeps State.groups (fun _ _ _ => rfl) (fun _ _ _ => rfl) (fun _ => rfl) s gk ns
@[simp] theorem State.taintV_group (s : State) (gk : Nat) (ns : List Nat) (k : Nat) :
    (s.taintV gk ns).group k = s.group k := by unfold State.group; rw [State.taintV_groups]

/-! ## Traps -/

/-- Taking a trap changes the groups and the kills alone. -/
theorem takeTrap_keeps {γ : Type} (p : State → γ) (hg : ∀ s gk g, p (State.setGroup s gk g) = p s)
    (hk : ∀ s ks, p { (s : State) with kills := ks } = p s) (s : State) (gk : Nat) (g : Group) (f : Frag)
    (cs : List (Nat × CauseRec)) : p (takeTrap s gk g f cs) = p s := by
  have kill : ∀ s core g c pk, p (State.killUnit s core g c pk) = p s := by
    intro s core g c pk; unfold State.killUnit; split
    · rfl
    · exact hk _ _
  unfold takeTrap
  dsimp only
  split
  · unfold State.killAt; rw [kill, hg]
  · split
    · unfold State.killVector; dsimp only; rw [kill, hg]
    · exact hg _ _ _

/-! ## Words -/

/-- A group as its word issues keeps its registers, flags and fragments. -/
@[simp] theorem Group.issuing_regs (g : Group) (f : Frag) (i : Instr) : (g.issuing f i).regs = g.regs := by
  unfold Group.issuing; dsimp only; split <;> rfl
@[simp] theorem Group.issuing_frags (g : Group) (f : Frag) (i : Instr) : (g.issuing f i).frags = g.frags := by
  unfold Group.issuing; dsimp only; split <;> rfl
@[simp] theorem Group.issuing_flags (g : Group) (f : Frag) (i : Instr) : (g.issuing f i).flags = g.flags := by
  unfold Group.issuing; dsimp only; split <;> rfl
@[simp] theorem Group.issuing_budget (g : Group) (f : Frag) (i : Instr) : (g.issuing f i).budget = g.budget := by
  unfold Group.issuing; dsimp only; split <;> rfl
@[simp] theorem Group.issuing_fpmode (g : Group) (f : Frag) (i : Instr) : (g.issuing f i).fpmode = g.fpmode := by
  unfold Group.issuing; dsimp only; split <;> rfl
@[simp] theorem Group.issuing_unit (g : Group) (f : Frag) (i : Instr) : (g.issuing f i).unit = g.unit := by
  unfold Group.issuing; dsimp only; split <;> rfl
/-- Whether sources are sound depends on the registers alone. -/
theorem readsBad_regs (g h : Group) (f : Frag) (i : Instr) (e : g.regs = h.regs) : readsBad i g f = readsBad i h f := by
  unfold readsBad; rw [e]
/-- Without an uncorrectable error in a source, a word notes that it issues, and nothing else. -/
theorem Group.issuing_sound (g : Group) (f : Frag) (i : Instr) (h : readsBad i g f = false) :
    g.issuing f i = { g with fenced := g.fenced && !Instr.writesV i, usedMx := g.usedMx || Instr.isMatrix i } := by
  unfold Group.issuing; rw [h]; rfl
/-- A word's sources are as sound in the group as it issues. -/
theorem readsBad_issuing (g : Group) (f f' : Frag) (i j : Instr) : readsBad j (g.issuing f i) f' = readsBad j g f' := by
  unfold readsBad; rw [Group.issuing_regs]

/-- What the checks at issue come to (R80): the word runs, or causes are taken. -/
theorem onWord_cases (i : Instr) (s : State) (il pr : State → Nat → Group → Frag → Bool)
    (run : Nat → Group → Frag → State) :
    onWord i s il pr run = s
    ∨ (∃ gk g f cs, selected s = some (gk, g, f) ∧ cs ≠ [] ∧ onWord i s il pr run = takeTrap s gk g f cs)
    ∨ ∃ gk g f, selected s = some (gk, g, f) ∧ illegalAtIssue i f = false ∧ il s gk g f = false ∧ pr s gk g f = false
        ∧ regRange i g = [] ∧ onWord i s il pr run = (if readsBad i g f then (run gk (g.issuing f i) f).spoilt gk i g f else run gk (g.issuing f i) f) := by
  unfold onWord
  cases h : selected s with
  | none => exact .inl rfl
  | some x =>
    obtain ⟨gk, g, f⟩ := x
    refine .inr ?_
    dsimp only
    by_cases h1 : (illegalAtIssue i f || il s gk g f) = true
    · exact .inl ⟨gk, g, f, [plainCause 0], rfl, by simp, by rw [if_pos h1]⟩
    · rw [if_neg h1]
      simp only [Bool.or_eq_true, not_or, Bool.not_eq_true] at h1
      by_cases hp : pr s gk g f = true
      · exact .inl ⟨gk, g, f, plainCause 1 :: regRange i g, rfl, by simp, by simp [hp]⟩
      · by_cases hr : regRange i g = []
        · exact .inr ⟨gk, g, f, rfl, h1.1, h1.2, by simpa using hp, hr, by simp [hp, hr]⟩
        · exact .inl ⟨gk, g, f, regRange i g, rfl, hr, by simp [hp, hr]⟩
/-- A word that passes its checks runs. -/
theorem onWord_runs {i : Instr} {s : State} {gk : Nat} {g : Group} {f : Frag} (il pr : State → Nat → Group → Frag → Bool)
    (run : Nat → Group → Frag → State) (hs : selected s = some (gk, g, f)) (hl : illegalAtIssue i f = false)
    (hr : regRange i g = []) (hi : il s gk g f = false) (hp : pr s gk g f = false) (hb : readsBad i g f = false) :
    onWord i s il pr run = run gk (g.issuing f i) f := by
  unfold onWord; simp [hs, hl, hr, hi, hp, hb]
/-- What undefined destinations leave as it was: all but the word's group and the free values' counter. -/
theorem spoilt_keeps {γ : Type} (p : State → γ) (hg : ∀ s gk g, p (State.setGroup s gk g) = p s)
    (hu : ∀ s, p (State.used s) = p s) (t : State) (gk : Nat) (i : Instr) (g : Group) (f : Frag) :
    p (t.spoilt gk i g f) = p t := by
  unfold State.spoilt
  split
  · rfl
  · exact (hu _).trans (hg _ _ _)
/-- What a word that passes its checks keeps: what its run keeps and a trap keeps. -/
theorem onWord_keeps {γ : Type} (p : State → γ) (hg : ∀ s gk g, p (State.setGroup s gk g) = p s)
    (hk : ∀ s ks, p { (s : State) with kills := ks } = p s) (i : Instr) (s : State)
    (il pr : State → Nat → Group → Frag → Bool) (run : Nat → Group → Frag → State)
    (hu : ∀ s, p (State.used s) = p s) (hr : ∀ gk g f, p (run gk g f) = p s) : p (onWord i s il pr run) = p s := by
  obtain h | ⟨gk, g, f, cs, _, _, h⟩ | ⟨gk, g, f, _, _, _, _, _, h⟩ := onWord_cases i s il pr run <;> rw [h]
  · exact takeTrap_keeps p hg hk _ _ _ _ _
  · split
    · exact (spoilt_keeps p hg hu _ _ _ _ _).trans (hr _ _ _)
    · exact hr _ _ _

/-- A fixed-latency word that passes its checks: its effect is applied to its group. -/
theorem aluWord_runs {i : Instr} {s : State} {gk : Nat} {g : Group} {f : Frag} (eff : Group → Frag → Eff)
    (hs : selected s = some (gk, g, f)) (hl : illegalAtIssue i f = false) (hr : regRange i g = [])
    (hb : readsBad i g f = false) :
    aluWord i s eff = (s.setGroup gk (applyEff s.clock (g.issuing f i) f (eff (g.issuing f i) f))).taintV gk
      ((eff (g.issuing f i) f).v.map fun w => w.1) := by
  unfold aluWord
  rw [onWord_runs _ _ _ hs hl hr rfl rfl hb]
  dsimp only; rw [readsBad_issuing, hb]
  rfl
/-- A tracked word whose flag is below 63 becomes outstanding, and its fragment advances. -/
theorem trackWord_starts {s : State} {gk : Nat} {g : Group} {f : Frag} {fs : Bool} {n : Nat} (k : OpKind)
    (hf : selFlag f fs = some n) (hn : g.flag n < 63) :
    trackWord s gk g f fs k = { (s.setGroup gk ((g.startOp s.nextUid n f.id k).setFrag f.advance)) with nextUid := s.nextUid + 1 } := by
  unfold trackWord; rw [hf]; dsimp only; rw [if_neg (by omega)]

end Sys2Proof.Machine
end

