-- ==== Sys2Proof/Laws/Memory.lean ====
section
/-! SUPPORT. The canonical form of the memories: every operation that writes memory keeps it. -/
namespace Sys2Proof.Machine

/-- A fold keeps a property that each step keeps. -/
theorem foldl_inv {α β : Type} (P : β → Prop) (f : β → α → β) (h : ∀ s x, P s → P (f s x)) (l : List α) (s : β)
    (hs : P s) : P (l.foldl f s) := by
  induction l generalizing s with
  | nil => exact hs
  | cons x xs ih => rw [List.foldl_cons]; exact ih _ (h s x hs)

/-- A state with the same memories is as canonical. -/
theorem canonical_same {s t : State} (hm : t.mem = s.mem) (hv : t.storeMem = s.storeMem) (hc : t.scratch = s.scratch)
    (h : Canonical s) : Canonical t := by
  unfold Canonical at *; rw [hm, hv, hc]; exact h

/-- Either branch. -/
theorem canonical_ite {c : Prop} [Decidable c] {s t : State} (hs : Canonical s) (ht : Canonical t) :
    Canonical (if c then s else t) := by split <;> assumption

/-- At reset the memories list nothing. -/
theorem canonical_reset : Canonical State.reset := ⟨rfl, rfl, rfl⟩

/-! ## Updates of one field -/

theorem canonical_setGroup (s : State) (gk : Nat) (g : Group) : Canonical (s.setGroup gk g) ↔ Canonical s := Iff.rfl
theorem canonical_updGroup (s : State) (gk : Nat) (f : Group → Group) : Canonical (s.updGroup gk f) ↔ Canonical s := Iff.rfl
theorem canonical_updTeam (s : State) (k : Nat) (f : Team → Team) : Canonical (s.updTeam k f) ↔ Canonical s := Iff.rfl
theorem canonical_updCore (s : State) (k : Nat) (f : CoreSt → CoreSt) : Canonical (s.updCore k f) ↔ Canonical s := Iff.rfl
theorem canonical_updCluster (s : State) (k : Nat) (f : ClusterSt → ClusterSt) :
    Canonical (s.updCluster k f) ↔ Canonical s := Iff.rfl
theorem canonical_updDie (s : State) (k : Nat) (f : DieSt → DieSt) : Canonical (s.updDie k f) ↔ Canonical s := Iff.rfl
theorem canonical_updSlice (s : State) (k : Nat) (f : SliceSt → SliceSt) : Canonical (s.updSlice k f) ↔ Canonical s := Iff.rfl
theorem canonical_updTenant (s : State) (k : Nat) (f : TenantSt → TenantSt) :
    Canonical (s.updTenant k f) ↔ Canonical s := Iff.rfl
theorem canonical_updGrid (s : State) (k : Nat) (f : Grid → Grid) : Canonical (s.updGrid k f) ↔ Canonical s := Iff.rfl
theorem canonical_updPart (s : State) (k : Nat) (f : PartSt → PartSt) : Canonical (s.updPart k f) ↔ Canonical s := Iff.rfl
theorem canonical_updTrig (s : State) (k : Nat) (f : Trig → Trig) : Canonical (s.updTrig k f) ↔ Canonical s := Iff.rfl
theorem canonical_updTaskq (s : State) (k : Nat) (f : TaskQ → TaskQ) : Canonical (s.updTaskq k f) ↔ Canonical s := Iff.rfl
theorem canonical_updFe (s : State) (f : FrontEnd → FrontEnd) : Canonical (s.updFe f) ↔ Canonical s := Iff.rfl
theorem canonical_updPlat (s : State) (f : Platform → Platform) : Canonical (s.updPlat f) ↔ Canonical s := Iff.rfl
theorem canonical_updUid (s : State) (k : Nat) (f : Group → Group) : Canonical (s.updUid k f) ↔ Canonical s := Iff.rfl
theorem canonical_used (s : State) : Canonical s.used ↔ Canonical s := Iff.rfl

/-- Taint for written bytes writes no memory. -/
theorem canonical_taintB (s : State) (cl : Nat) (os : List Nat) : Canonical (s.taintB cl os) ↔ Canonical s := by
  unfold Canonical
  rw [State.taintB_keeps State.mem (fun _ _ _ => rfl) (fun _ _ _ => rfl) (fun _ => rfl),
    State.taintB_keeps State.storeMem (fun _ _ _ => rfl) (fun _ _ _ => rfl) (fun _ => rfl),
    State.taintB_keeps State.scratch (fun _ _ _ => rfl) (fun _ _ _ => rfl) (fun _ => rfl)]

/-! ## The operations that write memory -/

/-- A write of one byte at a home address. -/
theorem canonical_putHome (s : State) (a : Nat) (b : Byte) (h : Canonical s) : Canonical (s.putHome a b) := by
  unfold State.putHome
  split
  · exact ⟨h.1, Memory.wf_write _ _ _ h.2.1, h.2.2⟩
  · exact ⟨Memory.wf_write _ _ _ h.1, h.2.1, h.2.2⟩

/-- A ring's control block that is touched writes no memory. -/
theorem canonical_touchRings (s : State) (ks : List Nat) : Canonical (s.touchRings ks) ↔ Canonical s := by
  unfold State.touchRings; split <;> exact Iff.rfl

/-- A bank's put. -/
theorem canonical_bankPut (s : State) (k : Nat) (bs : List Byte) (tag : Nat) (h : Canonical s) :
    Canonical (s.bankPut k bs tag) := by
  unfold State.bankPut
  dsimp only
  split
  · rw [canonical_touchRings, canonical_taintB]
    exact ⟨h.1, h.2.1, foldl_inv (fun m => Memory.wf m = true) _ (fun m w hm => Memory.wf_write m w.1 w.2 hm) _ _ h.2.2⟩
  · rw [canonical_updPlat, canonical_touchRings, canonical_taintB]
    exact ⟨h.1, h.2.1, foldl_inv (fun m => Memory.wf m = true) _ (fun m w hm => Memory.wf_write m w.1 w.2 hm) _ _ h.2.2⟩

/-- A bank's write. -/
theorem canonical_bankWrite (s : State) (k : Nat) (bs : List Byte) (tag : Nat) (h : Canonical s) :
    Canonical (s.bankWrite k bs tag) := by
  have hp := canonical_bankPut s k bs tag h
  unfold State.bankWrite State.touchSend
  dsimp only
  split
  · exact ⟨hp.1, hp.2.1, foldl_inv (fun m => Memory.wf m = true) _ (fun m w hm => Memory.wf_writeN _ _ _ hm) _ _ hp.2.2⟩
  · exact hp

/-- The copy engine's own write of a ring's control block. -/
theorem canonical_ownWrite (s : State) (k : Nat) (bs : List Byte) (h : Canonical s) : Canonical (s.ownWrite k bs) := by
  unfold State.ownWrite
  rw [canonical_taintB]
  exact ⟨h.1, h.2.1, Memory.wf_writeN _ _ _ h.2.2⟩

/-- The replacement of a run of scratchpad bytes. -/
theorem canonical_loadScratch (s : State) (key n : Nat) (bs : List Byte) (h : Canonical s) :
    Canonical (s.loadScratch key n bs) := by
  unfold State.loadScratch
  dsimp only
  split
  · exact ⟨h.1, h.2.1, Memory.wf_writeN _ _ _ (Memory.wf_filter _ _ h.2.2)⟩
  · rw [canonical_updPlat]
    exact ⟨h.1, h.2.1, Memory.wf_writeN _ _ _ (Memory.wf_filter _ _ h.2.2)⟩

/-- The loss of a layer's bytes. -/
theorem canonical_clearLayer (s : State) (d l : Nat) (h : Canonical s) : Canonical (s.clearLayer d l) :=
  ⟨h.1, Memory.wf_filter _ _ h.2.1, h.2.2⟩

/-- The zeroing of extents. -/
theorem canonical_zeroExtents (s : State) (xs : List Extent) (h : Canonical s) : Canonical (s.zeroExtents xs) :=
  ⟨h.1, Memory.wf_filter _ _ h.2.1, h.2.2⟩

/-- A package reset. -/
theorem canonical_afterReset (s : State) (h : Canonical s) : Canonical s.afterReset :=
  ⟨Memory.wf_filter _ _ h.1, rfl, rfl⟩

/-- The word placed for the next step. -/
theorem canonical_withFetchWord (s : State) (nbits w : Nat) (h : Canonical s) : Canonical (s.withFetchWord nbits w) := by
  unfold State.withFetchWord State.place
  dsimp only
  rw [canonical_updCore]
  refine ⟨Memory.wf_writeN _ _ _ ?_, h.2.1, h.2.2⟩
  split
  · exact Memory.wf_writeN _ _ _ h.1
  · exact h.1

/-- One write at its home slice. -/
theorem canonical_applyQuiet (s : State) (ws : List (Nat × Byte)) (h : Canonical s) : Canonical (s.applyQuiet ws) := by
  have key : ∀ (u : State) (as : List Nat), Canonical u → Canonical
      (u.tenants.foldl (fun (s : State) (t : Nat × TenantSt) => s.endContracts t.1 fun c => c.expired s as) u) := by
    intro u as hu
    refine foldl_inv Canonical _ ?_ _ _ hu
    intro v x hv
    unfold State.endContracts
    split
    · exact hv
    · exact hv
  have heal : ∀ (u : State) (as : List Nat), Canonical u →
      Canonical (if u.plat.bad = [] then u else u.updPlat fun p => { p with bad := healBy as p.bad }) := by
    intro u as hu; split <;> exact hu
  have base := heal _ (ws.map fun (w : Nat × Byte) => w.1)
    (foldl_inv Canonical (fun (s : State) (w : Nat × Byte) => State.putHome s w.1 w.2)
      (fun u w => canonical_putHome u w.1 w.2) ws s h)
  unfold State.applyQuiet
  cases ws with
  | nil => exact h
  | cons x xs =>
    dsimp only
    refine canonical_ite h (canonical_ite ?_ ?_)
    · refine key _ _ ?_; exact base
    · rw [canonical_updFe]; refine key _ _ ?_; exact base

/-- Records left undefined by a foreign write to their ring. -/
theorem canonical_freeBytes (s : State) (as : List Nat) (h : Canonical s) : Canonical (s.freeBytes as) := by
  unfold State.freeBytes
  split
  · exact h
  · exact (canonical_used _).mpr (foldl_inv Canonical _ (fun v _ hv => canonical_putHome v _ _ hv) _ _ h)

/-- Queue records left undefined by a foreign write to their ring. -/
theorem canonical_spoilQueues (s : State) (as : List Nat) (h : Canonical s) : Canonical (s.spoilQueues as) := by
  have same : (s.spoilQueues as).mem = s.mem ∧ (s.spoilQueues as).storeMem = s.storeMem
      ∧ (s.spoilQueues as).scratch = s.scratch := by
    simp only [State.spoilQueues]
    split
    · exact ⟨rfl, rfl, rfl⟩
    · exact ⟨rfl, rfl, rfl⟩
  exact canonical_same same.1 same.2.1 same.2.2 h

/-- A write, with what it leaves undefined in rings. -/
theorem canonical_applyHome (s : State) (ws : List (Nat × Byte)) (h : Canonical s) : Canonical (s.applyHome ws) :=
  canonical_freeBytes _ _ (canonical_spoilQueues _ _ (canonical_applyQuiet s ws h))

/-- A run of bytes written at a home address. -/
theorem canonical_writeHomeN (s : State) (a : Nat) (bs : List Byte) (h : Canonical s) : Canonical (s.writeHomeN a bs) :=
  canonical_applyHome s _ h

/-- A fault-log record. -/
theorem canonical_faultLog (s : State) (t : Nat) (r : FaultRec) (h : Canonical s) : Canonical (s.faultLog t r) := by
  unfold State.faultLog
  dsimp only
  rw [canonical_updTenant]
  split
  · exact h
  · exact canonical_writeHomeN _ _ _ h

/-- The beginning of a turn writes no memory. -/
theorem canonical_begin (s : State) (h : Canonical s) : Canonical s.begin := by
  have key : ∀ dt, Canonical (s.countTokwait dt) := by
    intro dt
    unfold State.countTokwait
    refine foldl_inv Canonical _ ?_ _ _ h
    intro u c hu
    dsimp only
    split
    · exact hu
    · refine foldl_inv Canonical _ ?_ _ _ hu
      intro v k hv
      split <;> exact hv
  exact key _

/-- The wake of a layer writes no memory. -/
theorem canonical_wakeFor (s : State) (t a : Nat) (h : Canonical s) : Canonical ((s.wakeFor t a).getD s) := by
  unfold State.wakeFor
  dsimp only
  split
  · refine foldl_inv Canonical _ ?_ _ _ h
    intro u d hu
    rw [canonical_updTenant]
    split <;> exact hu
  · split <;> exact h
/-- A late fill that is counted writes no memory. -/
theorem canonical_countLate (s : State) (line : Nat) (h : Canonical s) : Canonical (s.countLate line) := by
  unfold State.countLate
  split
  · exact h
  · exact (canonical_updTenant _ _ _).mpr h
/-- A request for a line writes no memory. -/
theorem canonical_joinMiss (s : State) (slice line t : Nat) (w : Waiter) (h : Canonical s) :
    Canonical (s.joinMiss slice line t w) := by
  unfold State.joinMiss
  split
  · split
    · exact h
    · dsimp only
      split
      · exact h
      · exact canonical_countLate s line h
  · split
    · exact h
    · exact canonical_countLate s line h
/-- What a waiting step asks for writes no memory. -/
theorem canonical_requests (s : State) (h : Canonical s) : Canonical s.requests := by
  unfold State.requests
  split
  · exact h
  · dsimp only
    refine foldl_inv Canonical (fun s k => s.grant _ k) ?_ _ _ ?_
    · intro u k hu
      cases k with
      | wake t a => exact canonical_wakeFor u t a hu
      | join slice line t => exact canonical_joinMiss u slice line t _ hu
      | late slice line t => exact canonical_joinMiss u slice line t _ hu
    · split <;> exact h
/-- What follows a turn writes no memory. -/
theorem canonical_settle (s : State) (h : Canonical s) : Canonical s.settle := by
  unfold State.settle State.markDue
  have hr := canonical_requests s h
  dsimp only
  split <;> exact hr

end Sys2Proof.Machine
end

