-- ==== Sys2Proof/Tests/Slice0.lean ====
section
/-! SUPPORT. Tests of decoding, of ill-formed terms and of single steps, with results from the manual; and for each
statement a state and operands that meet its hypotheses. -/
namespace Sys2Proof.Tests
set_option Elab.async false
open Sys2Proof Sys2Proof.Machine Sys2Proof.Claims

/-! ## Small states -/

/-- A fragment with all lanes at the first word of a clause of one word with SETA f0 and SETB f1. -/
def fr : Frag := placeFrag 1
/-- A team's group with that fragment, and registers that read 0 where nothing is listed. -/
def gr : Group := Group.launch 0 (.team 0) 2048 0 fr false
/-- A state whose group 0 is `g`, its fragment 0 at issue. -/
def st (g : Group) : State := { State.reset with groups := [(0, g)], sel := some { gk := 0, fid := 0 } }
/-- Operands of a format F word, with the D, A and B that a test names. -/
def fo (d : BitVec 11) (a : Src) (b : SrcB) : FOp := plainF d a b
/-- Operands of a format M word. -/
def mo (size : Size) (d : BitVec 11) (a : Src) : MOp :=
  { guard := .always, uni := false, fs := false, x := 0, tag := 0, scope := .group, ord := .plain, size := size, c := 0
    a := a, d := d }
/-- The operands under U = 1. -/
def FOpU (o : FOp) : FOp := { o with uni := true }

/-- A word at issue in such a state. -/
theorem atIssue_st (i : Instr) (g : Group) (f : Frag) (hs : selected (st g) = some (0, g, f)) (hl : illegalAtIssue i f = false)
    (hr : regRange i g = []) (hb : readsBad i g f = false) : AtIssue i (st g) 0 g f := ⟨hs, hl, hr, hb⟩
/-- The same word at issue in a state that shares the group and the selection. -/
theorem atIssue_of (i : Instr) (s : State) (g : Group) (f : Frag) (hs : selected s = some (0, g, f))
    (hl : illegalAtIssue i f = false) (hr : regRange i g = []) (hb : readsBad i g f = false) : AtIssue i s 0 g f :=
  ⟨hs, hl, hr, hb⟩

/-! ## Witnesses: encoding -/

theorem witness_FormatFRoundTrip : (Instr.iadd (fo 1 (.v 2) (.imm 5))).fword.isSome = true
    ∧ (Instr.iadd (fo 1 (.v 2) (.imm 5))).wf = true := by decide
theorem witness_FormatMRoundTrip : (Instr.ldl (mo .b4 6 (.v 8))).mword.isSome = true
    ∧ (Instr.ldl (mo .b4 6 (.v 8))).wf = true := by decide
theorem witness_PairAndHeaderRoundTrip :
    pairOk { op := .iadd, d := 4, a := 2, pm := 0 } { op := .imin, d := 6, a := 9, pm := 5 } = true
    ∧ ({ yld := true, seta := some 3, setb := none, waitmask := 9, len := 12 } : Header).ok = true := by decide
theorem witness_DecodedIsWellFormed : (decodeWord 0x0000001802002E40).toOption.isSome = true
    ∧ (decodeHeader 0xC700000000100001).toOption.isSome = true := by decide

/-! ## Witnesses: vector words -/

theorem witness_AluWords : aluEff (.iadd (fo 1 (.v 2) (.v 3))) = some (effIadd (fo 1 (.v 2) (.v 3)))
    ∧ AtIssue (.iadd (fo 1 (.v 2) (.v 3))) (st gr) 0 gr fr ∧ (Instr.iadd (fo 1 (.v 2) (.v 3))).wf = true
    ∧ (Instr.iadd (fo 1 (.v 2) (.v 3))).fword.isSome = true ∧ ∃ t, exec (.iadd (fo 1 (.v 2) (.v 3))) (st gr) = .next t :=
  ⟨rfl, ⟨rfl, by decide, by decide, by decide⟩, by decide, by decide, ⟨_, rfl⟩⟩
theorem witness_IntegerResults : (intResult (.isub (FOpU (fo 124 (.s 2) (.imm 3))))).isSome = true
    ∧ (Instr.isub (FOpU (fo 124 (.s 2) (.imm 3)))).wf = true
    ∧ AtIssue (.isub (FOpU (fo 124 (.s 2) (.imm 3)))) (st gr) 0 gr fr
    ∧ (124 : BitVec 11).toNat + (FOpU (fo 124 (.s 2) (.imm 3))).w ≤ 125 :=
  ⟨rfl, by decide, ⟨rfl, by decide, by decide, by decide⟩, by decide⟩
theorem witness_SaturatingAdd : ({ fo 1 (.v 2) (.v 3) with c := 1 } : FOp).fn % 2 = 1
    ∧ (Instr.iadd { fo 1 (.v 2) (.v 3) with c := 1 }).wf = true
    ∧ AtIssue (.iadd { fo 1 (.v 2) (.v 3) with c := 1 }) (st gr) 0 gr fr :=
  ⟨by decide, by decide, ⟨rfl, by decide, by decide, by decide⟩⟩
theorem witness_CarryChain : (Instr.iaddx { fo 1 (.v 2) (.v 3) with c := 7 + 8 * 6 }).wf = true
    ∧ AtIssue (.iaddx { fo 1 (.v 2) (.v 3) with c := 7 + 8 * 6 }) (st gr) 0 gr fr :=
  ⟨by decide, ⟨rfl, by decide, by decide, by decide⟩⟩
/-- s2 holds `n`, and lane 0 alone is active. -/
def grMask (n : W32) : Group :=
  { gr with regs := { gr.regs with s := [(2, n)] }, frags := [{ fr with mask := 1 }] }
/-- MOV s125, s2: the fragment keeps a lane, or none. -/
def movMask : FOp := FOpU (fo 125 (.s 2) (.s 0))
theorem witness_ActivityMaskWrites : aluEff (.mov movMask) = some (effMov movMask)
    ∧ AtIssue (.mov movMask) (st (grMask 6)) 0 (grMask 6) { fr with mask := 1 }
    ∧ writeMask 1 allLanes (effMov movMask ((grMask 6).issuing fr (.mov movMask)) { fr with mask := 1 }).s &&& allLanes ≠ 0
    ∧ AtIssue (.mov movMask) (st (grMask 0)) 0 (grMask 0) { fr with mask := 1 }
    ∧ writeMask 1 allLanes (effMov movMask ((grMask 0).issuing fr (.mov movMask)) { fr with mask := 1 }).s &&& allLanes = 0
    ∧ ∀ x ∈ (grMask 0).frags, x.id < (grMask 0).nextFrag :=
  ⟨rfl, ⟨rfl, by decide, by decide, by decide⟩, by decide, ⟨rfl, by decide, by decide, by decide⟩, by decide, by decide⟩
theorem witness_CompareSetsPredicate : (Instr.icmp (fo 6 (.v 2) (.v 3))).wf = true
    ∧ AtIssue (.icmp (fo 6 (.v 2) (.v 3))) (st gr) 0 gr fr
    ∧ (Instr.icmp (FOpU (fo 124 (.s 2) (.s 3)))).wf = true
    ∧ AtIssue (.icmp (FOpU (fo 124 (.s 2) (.s 3)))) (st gr) 0 gr fr
    ∧ (Instr.sel { fo 6 (.v 2) (.v 3) with x := 1 }).wf = true
    ∧ AtIssue (.sel { fo 6 (.v 2) (.v 3) with x := 1 }) (st gr) 0 gr fr :=
  ⟨by decide, ⟨rfl, by decide, by decide, by decide⟩, by decide, ⟨rfl, by decide, by decide, by decide⟩,
   by decide, ⟨rfl, by decide, by decide, by decide⟩⟩
theorem witness_PeerAndBroadcast : (Instr.peer (fo 6 (.v 2) (.v 0))).wf = true
    ∧ AtIssue (.peer (fo 6 (.v 2) (.v 0))) (st gr) 0 gr fr
    ∧ (Instr.bcast (fo 6 (.v 2) (.imm 95))).wf = true ∧ AtIssue (.bcast (fo 6 (.v 2) (.imm 95))) (st gr) 0 gr fr :=
  ⟨by decide, ⟨rfl, by decide, by decide, by decide⟩, by decide, ⟨rfl, by decide, by decide, by decide⟩⟩
theorem witness_FcWordsIssue : (fcEff (.rcp (fo 2 (.v 3) (.v 0)))).isSome = true
    ∧ AtIssue (.rcp (fo 2 (.v 3) (.v 0))) (st gr) 0 gr fr ∧ selFlag fr false = some 0 ∧ gr.flag 0 < 63 :=
  ⟨rfl, ⟨rfl, by decide, by decide, by decide⟩, by decide, by decide⟩
/-- A group with an outstanding function word that writes v2 of lane 0, on flag 0. -/
def grFc : Group := { gr with flags := [(0, 1)], ops := [{ id := 4, flag := 0, kind := .fc [(192, 9)] 1 0 }] }
theorem witness_FcWordCompletes : (st grFc).group 0 = some grFc
    ∧ grFc.op 4 = some { id := 4, flag := 0, kind := .fc [(192, 9)] 1 0 } ∧ Tab.wf ([(192, 9)] : Tab W32) = true
    ∧ Tab.wf grFc.flags = true := ⟨rfl, rfl, rfl, rfl⟩
theorem witness_ConversionsIgnoreFtz : (fcEff (.f2f (fo 2 (.v 3) (.v 0)))).isSome = true
    ∧ ∀ k : Nat, k ≠ 2 → (4 : W32).getLsbD k = gr.fpmode.getLsbD k := by
  refine ⟨rfl, fun k hk => ?_⟩
  by_cases h : k < 32
  · have key : ∀ k : Fin 32, k.val ≠ 2 → (4 : W32).getLsbD k.val = gr.fpmode.getLsbD k.val := by decide
    exact key ⟨k, h⟩ hk
  · rw [BitVec.getLsbD_of_ge (4 : W32) k (by omega), BitVec.getLsbD_of_ge gr.fpmode k (by omega)]

/-! ## Witnesses: the sequencer -/

/-- A group whose fragment stands at its header, with flag 0 pending or not. -/
def grHdr (n : Nat) : Group :=
  { gr with frags := [{ fr with word := 0, hw := none }], flags := if n = 0 then [] else [(0, n)] }
theorem witness_HeaderBeginsClause :
    selected (st (grHdr 0)) = some (0, grHdr 0, { fr with word := 0, hw := none })
    ∧ selected (st (grHdr 1)) = some (0, grHdr 1, { fr with word := 0, hw := none })
    ∧ ({ placeHeader with waitmask := 1 } : Header).ok = true
    ∧ (∀ n < 12, ({ placeHeader with waitmask := 1 } : Header).waitmask.getLsbD n = true → (grHdr 0).flag n = 0)
    ∧ ¬ (∀ n < 12, ({ placeHeader with waitmask := 1 } : Header).waitmask.getLsbD n = true → (grHdr 1).flag n = 0)
    ∧ ({ placeHeader with len := 0 } : Header).ok = false :=
  ⟨rfl, rfl, by decide, by decide, by decide, by decide⟩
/-- Operands that no lane is Enabled for: guard not p7. -/
def never (d : BitVec 11) (b : SrcB) : FOp := { fo d (.v 0) b with guard := { prd := 7, pn := true } }
/-- A group at level 1. -/
def grL1 : Group := { gr with trap := { gr.trap with plevel := 1, hvec := 64, epc := 16, epcHdr := 8, epcHw := true } }
theorem witness_NoLaneNoEffect : enabled gr fr (never 0 (.imm 0)).guard = 0
    ∧ AtIssue (.nop (never 0 (.imm 0))) (st gr) 0 gr fr ∧ AtIssue (.bararv (never 3 (.imm 2))) (st gr) 0 gr fr
    ∧ (∃ tk, gr.unit = .team tk) ∧ AtIssue (.causeclr (never 0 (.imm 1))) (st grL1) 0 grL1 fr ∧ grL1.trap.plevel = 1
    ∧ AtIssue (.wrsr (never 14 (.imm 1))) (st gr) 0 gr fr :=
  ⟨by decide, ⟨rfl, by decide, by decide, by decide⟩, ⟨rfl, by decide, by decide, by decide⟩, ⟨0, rfl⟩,
    ⟨rfl, by decide, by decide, by decide⟩, rfl, ⟨rfl, by decide, by decide, by decide⟩⟩
theorem witness_WaitingWords : AtIssue (.nop (fo 0 (.v 0) (.v 0))) (st gr) 0 gr fr
    ∧ AtIssue (.elect (fo 6 (.v 0) (.v 0))) (st gr) 0 gr fr ∧ fr.mask &&& fr.members ≠ 0
    ∧ AtIssue (.yield (fo 0 (.v 0) (.v 0))) (st gr) 0 gr fr ∧ enabled gr fr .always ≠ 0
    ∧ AtIssue (.sleep (fo 0 (.v 0) (.imm 0))) (st gr) 0 gr fr ∧ AtIssue (.sleep (fo 0 (.v 0) (.imm 20))) (st gr) 0 gr fr
    ∧ AtIssue (.waitf (fo 0 (.v 0) (.imm 1))) (st gr) 0 gr fr ∧ gr.flag 0 = 0 ∧ gr.flagErr = []
    ∧ AtIssue (.waitf (fo 0 (.v 0) (.imm 1))) (st grFc) 0 grFc fr ∧ grFc.flag 0 ≠ 0 := by
  refine ⟨⟨rfl, ?_, ?_, ?_⟩, ⟨rfl, ?_, ?_, ?_⟩, ?_, ⟨rfl, ?_, ?_, ?_⟩, ?_, ⟨rfl, ?_, ?_, ?_⟩, ⟨rfl, ?_, ?_, ?_⟩,
    ⟨rfl, ?_, ?_, ?_⟩, rfl, rfl, ⟨rfl, ?_, ?_, ?_⟩, ?_⟩ <;> decide
theorem witness_ControlTransfers : AtIssue (.bra (fo 0 (.v 0) (.imm 5))) (st gr) 0 gr fr ∧ liveLanes fr ≠ 0
    ∧ fr.nextHdr % 8 = 0 ∧ fr.nextHdr < 2 ^ 64 ∧ AtIssue (.brx (fo 0 (.s 2) (.v 0))) (st gr) 0 gr fr
    ∧ (∀ l ∈ laneList (enabled gr fr .always), opA gr fr (fo 0 (.s 2) (.v 0)) 2 l % 8 = 0)
    ∧ (Instr.call { fo 122 (.v 0) (.imm 5) with x := 1 }).wf = true
    ∧ AtIssue (.call { fo 122 (.v 0) (.imm 5) with x := 1 }) (st gr) 0 gr fr
    ∧ (∀ l ∈ laneList (enabled gr fr .always), offTarget { fo 122 (.v 0) (.imm 5) with x := 1 } gr fr l % 8 = 0)
    ∧ (Instr.callx (fo 6 (.s 2) (.v 0))).wf = true ∧ AtIssue (.callx (fo 6 (.s 2) (.v 0))) (st gr) 0 gr fr
    ∧ (∀ l ∈ laneList (enabled gr fr .always), regTarget (fo 6 (.s 2) (.v 0)) gr fr l % 8 = 0) := by
  refine ⟨⟨rfl, ?_, ?_, ?_⟩, ?_, ?_, ?_, ⟨rfl, ?_, ?_, ?_⟩, ?_, ?_, ⟨rfl, ?_, ?_, ?_⟩, ?_, ?_, ⟨rfl, ?_, ?_, ?_⟩, ?_⟩ <;> decide
theorem witness_UniformTransfer : fr.members ≠ 0 ∧ (∀ l, (liveLanes fr).getLsbD l = true → (liveLanes fr).getLsbD l = true)
    ∧ ∀ k < 24, fr.members &&& sliceLanes k ≠ 0 → liveLanes fr &&& sliceLanes k ≠ 0 :=
  ⟨by decide, fun _ h => h, by decide⟩
/-- A group in which p0 is true in lanes 0 and 1. -/
def grP : Group := { gr with regs := { gr.regs with p := [(0, 3)] } }
theorem witness_ExitLeavesLanes : AtIssue (.exit (fo 0 (.v 0) (.v 0))) (st gr) 0 gr fr
    ∧ fr.mask &&& (fr.members &&& ~~~ enabled gr fr .always) = 0
    ∧ AtIssue (.exit { fo 0 (.v 0) (.v 0) with guard := { prd := 0, pn := false } }) (st grP) 0 grP fr
    ∧ fr.mask &&& (fr.members &&& ~~~ enabled grP fr { prd := 0, pn := false }) ≠ 0 := by
  refine ⟨⟨rfl, ?_, ?_, ?_⟩, ?_, ⟨rfl, ?_, ?_, ?_⟩, ?_⟩ <;> decide
/-- Lanes 0 to 3 at a REGANG, lanes 4 to 7 deferred; and both as fragments that wait at it. -/
def frLow : Frag := { fr with members := 0xF, mask := 0xF }
def frHigh : Frag := { fr with id := 1, members := 0xF0, mask := 0xF0 }
def grDef : Group :=
  { gr with frags := [frLow], deferred := [{ slice := 1, lanes := 0xF0, hdr := 0, order := 0, heldTrap := false, heldUi := false }],
            nextFrag := 1, nextOrder := 1 }
/-- Lanes 0 and 1 at a REGANG, and lanes 2 and 3 of their slice deferred. -/
def frTwo : Frag := { fr with members := 3, mask := 3 }
def grDef0 : Group :=
  { gr with frags := [frTwo], deferred := [{ slice := 0, lanes := 0xC, hdr := 8, order := 0, heldTrap := false, heldUi := false }],
            nextFrag := 1, nextOrder := 1 }
def grGang : Group := { gr with frags := [{ frLow with wait := .regang }, { frHigh with wait := .regang }], nextFrag := 2 }
theorem witness_RegangReleasesAndFuses : AtIssue (.regang (fo 0 (.v 0) (.v 0))) (st grDef) 0 grDef frLow
    ∧ (grDef.deferred.map fun d => d.order).Nodup ∧ (st grGang).group 0 = some grGang ∧ (st grGang).stopped grGang = false
    ∧ ({ frLow with wait := .regang } : Frag).hw.isSome = true ∧ ({ frHigh with wait := .regang } : Frag).hw.isSome = true
    ∧ frLow.addr = frHigh.addr ∧ frLow.nextHdr = frHigh.nextHdr ∧ AtIssue (.regang (fo 0 (.v 0) (.v 0))) (st grDef0) 0 grDef0 frTwo
    ∧ (grDef0.deferred.map fun d => d.order).Nodup ∧ 0 ∈ slicesOf frTwo.members ∧ (youngest grDef0.deferred 0).isSome = true
    ∧ (∀ f ∈ grGang.frags, f.wait = .regang ∧ f.hw.isSome = true) := by
  refine ⟨⟨rfl, ?_, ?_, ?_⟩, ?_, rfl, ?_, rfl, rfl, rfl, rfl, ⟨rfl, ?_, ?_, ?_⟩, ?_, ?_, ?_, ?_⟩ <;> decide

/-! ## Witnesses: budgets, barriers, registers, traps -/

/-- A team of one group, with a reserve of 4 units, on core 0. -/
def tm : Team :=
  { grid := 0, linear := 0, tx := 0, ty := 0, tz := 0, tenant := 0, asid := 0, part := 0, prio := 0, codeObj := 0, groups := 1
    live := 1, reserve := 4, base := 0, size := 0, guardFront := (0, 0), guardBack := (0, 0), ring := none, ctable := none
    barriers := [], usedMatrix := false, copyErr := none, begun := true }
/-- A group with 64 registers. -/
def gr64 : Group := { gr with budget := 64 }
/-- A state with that team. -/
def stT (g : Group) : State := { st g with teams := [(0, tm)] }
/-- A task's group with 64 registers. -/
def grT64 : Group := { gr64 with unit := .task 0 }
theorem witness_BudgetWords : AtIssue (.claim (fo 6 (.v 0) (.imm 4))) (stT gr64) 0 gr64 fr ∧ enabled gr64 fr .always ≠ 0
    ∧ claimOk (stT gr64) 0 gr64 (seqB gr64 fr (fo 6 (.v 0) (.imm 4))) = true
    ∧ claimOk (stT gr64) 0 gr64 (seqB gr64 fr (fo 6 (.v 0) (.imm 0))) = false
    ∧ AtIssue (.giveback (fo 6 (.v 0) (.imm 7))) (stT gr64) 0 gr64 fr ∧ (∀ n < 12, gr64.flag n = 0)
    ∧ 8 * seqB gr64 fr (fo 6 (.v 0) (.imm 7)) < gr64.budget ∧ gr64.budget ≤ 8 * seqB gr64 fr (fo 6 (.v 0) (.imm 8))
    ∧ (stT gr64).team 0 = some tm
    ∧ AtIssue (.giveback (fo 6 (.v 0) (.imm 1))) (stT grFc) 0 grFc fr ∧ (∀ n < 1, grFc.flag n ≠ 0)
    ∧ gr64.unit = .team 0 ∧ Tab.wf (stT gr64).groups = true ∧ Tab.wf (stT gr64).teams = true ∧ 0 / 8 = coreOf 0
    ∧ AtIssue (.claim (fo 6 (.v 0) (.imm 4))) (stT grT64) 0 grT64 fr ∧ claimOk (stT grT64) 0 grT64 4 = true := by
  refine ⟨⟨rfl, ?_, ?_, ?_⟩, ?_, ?_, ?_, ⟨rfl, ?_, ?_, ?_⟩, ?_, ?_, ?_, rfl, ⟨rfl, ?_, ?_, ?_⟩, ?_, rfl, ?_, ?_, ?_,
    ⟨rfl, ?_, ?_, ?_⟩, ?_⟩ <;> decide
/-- A task's group. -/
def grTask : Group := { gr with unit := .task 0 }
theorem witness_BarrierWords : AtIssue (.bararv (fo 3 (.v 0) (.imm 17))) (stT gr) 0 gr fr ∧ enabled gr fr .always ≠ 0
    ∧ gr.unit = .team 0 ∧ (stT gr).team 0 = some tm ∧ gr.allPerformed = true
    ∧ AtIssue (.barwt (fo 15 (.v 0) (.v 0))) (stT gr) 0 gr fr ∧ AtIssue (.barsyn (fo 3 (.v 0) (.imm 0))) (stT gr) 0 gr fr
    ∧ selected (st grTask) = some (0, grTask, fr) ∧ (∀ tk, grTask.unit ≠ .team tk) := by
  refine ⟨⟨rfl, ?_, ?_, ?_⟩, ?_, rfl, rfl, ?_, ⟨rfl, ?_, ?_, ?_⟩, ⟨rfl, ?_, ?_, ?_⟩, rfl, fun _ h => by cases h⟩ <;> decide
/-- A team of three whose barrier 2 expects 3, group 0 arrived. -/
def tmBar : Team := { tm with groups := 3, live := 3, barriers := [(2, { expect := 3, arrived := 1, gen := 7 })] }
theorem witness_BarrierArrival : (tmBar.barrier 2).arrived.getLsbD 0 = true ∧ (tmBar.barrier 2).arrived.getLsbD 15 = false
    ∧ (tmBar.barrier 2).count + 1 < 3 ∧ (tmBar.barrier 3).arrived.getLsbD 15 = false
    ∧ (tmBar.barrier 3).arrived = 0 ∧ 1 ≤ (tmBar.barrier 3).count + 1 := by decide
theorem witness_SpecialRegisters : (Instr.rdsr (fo 6 (.v 19) (.v 0))).wf = true
    ∧ AtIssue (.rdsr (fo 6 (.v 19) (.v 0))) (st gr) 0 gr fr
    ∧ (Instr.rdsr { fo 122 (.v 19) (.v 0) with x := 1 }).wf = true
    ∧ AtIssue (.rdsr { fo 122 (.v 19) (.v 0) with x := 1 }) (st gr) 0 gr fr
    ∧ (Instr.wrsr (fo 26 (.v 0) (.imm 1))).wf = true ∧ AtIssue (.wrsr (fo 26 (.v 0) (.imm 1))) (st gr) 0 gr fr
    ∧ (Instr.wrsr (fo 19 (.v 0) (.imm 1))).wf = true ∧ AtIssue (.wrsr (fo 19 (.v 0) (.imm 1))) (st grL1) 0 grL1 fr
    ∧ grL1.trap.plevel ≠ 0 ∧ enabled gr fr .always ≠ 0 := by
  refine ⟨?_, ⟨rfl, ?_, ?_, ?_⟩, ?_, ⟨rfl, ?_, ?_, ?_⟩, ?_, ⟨rfl, ?_, ?_, ?_⟩, ?_, ⟨rfl, ?_, ?_, ?_⟩, ?_, ?_⟩ <;> decide
theorem witness_TrapControlWords : AtIssue (.causeclr (fo 0 (.v 0) (.imm 8))) (st grL1) 0 grL1 fr ∧ grL1.trap.plevel ≠ 0
    ∧ (Instr.tmask { fo 124 (.v 0) (.imm 0x40) with x := 2 }).wf = true
    ∧ AtIssue (.tmask { fo 124 (.v 0) (.imm 0x40) with x := 2 }) (st gr) 0 gr fr
    ∧ (Instr.uimask (fo 0 (.v 0) (.imm 1))).wf = true ∧ AtIssue (.uimask (fo 0 (.v 0) (.imm 1))) (st gr) 0 gr fr := by
  refine ⟨⟨rfl, ?_, ?_, ?_⟩, ?_, ?_, ⟨rfl, ?_, ?_, ?_⟩, ?_, ⟨rfl, ?_, ?_, ?_⟩⟩ <;> decide
/-- A group at level 0 with a handler. -/
def grH : Group := { gr with trap := { gr.trap with hvec := 64 } }
theorem witness_ExceptionEntry : grH.frag fr.id = some fr ∧ grH.trap.plevel = 0 ∧ grH.trap.hvec ≠ 0
    ∧ (∀ n, grH.unit ≠ .slalom n) ∧ grL1.trap.plevel ≠ 0 ∧ gr.trap.hvec = 0 ∧ (∀ k ∈ (st gr).kills, k.unit ≠ gr.unit) :=
  ⟨rfl, rfl, by decide, fun _ h => (by cases h), by decide, rfl, by decide⟩
/-- A state in which a debugger has claimed partition 0. -/
def stClaim (g : Group) : State := { st g with fe := { FrontEnd.reset with claim := some 0 } }
theorem witness_TrapAndBreakpoint : AtIssue (.trap (fo 0 (.v 0) (.imm 5))) (st gr) 0 gr fr
    ∧ AtIssue (.bkpt (fo 0 (.v 0) (.imm 5))) (st gr) 0 gr fr ∧ (st gr).fe.claim ≠ some gr.part
    ∧ AtIssue (.bkpt (fo 0 (.v 0) (.imm 5))) (stClaim gr) 0 gr fr ∧ (stClaim gr).fe.claim = some gr.part
    ∧ enabled gr fr .always ≠ 0 := by
  refine ⟨⟨rfl, ?_, ?_, ?_⟩, ⟨rfl, ?_, ?_, ?_⟩, ?_, ⟨rfl, ?_, ?_, ?_⟩, rfl, ?_⟩ <;> decide
/-- The same with every lane in the saved mask. -/
def grL1m : Group := { grL1 with trap := { grL1.trap with savedMask := allLanes } }
theorem witness_TretResumes_mask : AtIssue (.tretResume (fo 0 (.v 0) (.v 0))) (st grL1m) 0 grL1m fr
    ∧ grL1m.trap.savedMask &&& fr.members ≠ 0 ∧ grL1m.trap.plevel ≠ 0 ∧ grL1m.trap.epcHw = true
    ∧ grL1m.trap.epcHdr ≤ grL1m.trap.epc.toNat ∧ (grL1m.trap.epc.toNat - grL1m.trap.epcHdr) % 8 = 0
    ∧ (∀ c < 20, grL1m.trap.cause.getLsbD c = true → grL1m.trap.tmask.getLsbD c = true)
    ∧ grL1.trap.savedMask &&& fr.members = 0 ∧ (∀ x ∈ grL1.frags, x.id < grL1.nextFrag) := by
  refine ⟨⟨rfl, ?_, ?_, ?_⟩, ?_, ?_, ?_, ?_, ?_, ?_, ?_, ?_⟩ <;> decide
theorem witness_TretResumes : AtIssue (.tretResume (fo 0 (.v 0) (.v 0))) (st grL1) 0 grL1 fr ∧ grL1.trap.plevel ≠ 0
    ∧ grL1.trap.epcHw = true ∧ grL1.trap.epcHdr ≤ grL1.trap.epc.toNat ∧ (grL1.trap.epc.toNat - grL1.trap.epcHdr) % 8 = 0
    ∧ ∀ c < 20, grL1.trap.cause.getLsbD c = true → grL1.trap.tmask.getLsbD c = true := by
  refine ⟨⟨rfl, ?_, ?_, ?_⟩, ?_, ?_, ?_, ?_, ?_⟩ <;> decide
/-- A task's group and a team's group at level 1; the latter's SR.EPC at a header of memory, or at its first word. -/
def grTask1 : Group := { grL1 with unit := .task 0 }
def grL1at (e : W64) : Group := { grL1m with trap := { grL1m.trap with epc := e, epcHdr := 0 } }
/-- A state whose memory holds a header at 0 and whose core 0 maps page 0. -/
def stMem (g : Group) : State :=
  { State.reset.withFetchWord 64 0 with groups := [(0, g)], sel := some { gk := 0, fid := 0 } }
theorem witness_TretSkipsAndKills : AtIssue (.tretSkip (fo 0 (.v 0) (.v 0))) (st grTask1) 0 grTask1 fr
    ∧ grTask1.trap.plevel ≠ 0 ∧ grTask1.unit = .task 0
    ∧ AtIssue (.tretSkip (fo 0 (.v 0) (.v 0))) (stMem (grL1at 8)) 0 (grL1at 8) fr ∧ (grL1at 8).unit = .team 0
    ∧ (grL1at 8).trap.epcHdr < (grL1at 8).trap.epc.toNat
    ∧ ((stMem (grL1at 8)).fetchHeader 0 ((grL1at 8).issuing fr (.tretSkip (fo 0 (.v 0) (.v 0)))) fr 0).2.toOption.isSome = true
    ∧ ((stMem (grL1at 8)).fetchHeader 0 ((grL1at 8).issuing fr (.tretSkip (fo 0 (.v 0) (.v 0)))) fr 0).1.stall = (stMem (grL1at 8)).stall
    ∧ (grL1at 8).trap.savedMask &&& fr.members ≠ 0 ∧ (grL1at 8).trap.epcHw = true
    ∧ ((grL1at 8).trap.epc.toNat - (grL1at 8).trap.epcHdr) % 8 = 0
    ∧ (∀ c < 20, (grL1at 8).trap.cause.getLsbD c = true → (grL1at 8).trap.tmask.getLsbD c = true)
    ∧ AtIssue (.tretSkip (fo 0 (.v 0) (.v 0))) (st (grL1at 0)) 0 (grL1at 0) fr ∧ (∀ n, (grL1at 0).unit ≠ .task n)
    ∧ (grL1at 0).trap.epc.toNat = (grL1at 0).trap.epcHdr
    ∧ AtIssue (.tretKill (fo 0 (.v 0) (.v 0))) (st (grL1at 0)) 0 (grL1at 0) fr
    ∧ (∀ k ∈ (st (grL1at 0)).kills, k.unit ≠ (grL1at 0).unit) := by
  refine ⟨⟨rfl, ?_, ?_, ?_⟩, ?_, rfl, ⟨rfl, ?_, ?_, ?_⟩, rfl, ?_, ?_, ?_, ?_, ?_, ?_, ?_, ⟨rfl, ?_, ?_, ?_⟩, fun _ h => (by cases h), ?_,
    ⟨rfl, ?_, ?_, ?_⟩, ?_⟩ <;> decide
theorem witness_PrivilegedWordsTrap : AtIssue (.tretKill (fo 0 (.v 0) (.v 0))) (st gr) 0 gr fr ∧ gr.trap.plevel = 0
    ∧ AtIssue (.wrsr (fo 20 (.v 0) (.imm 1))) (st grL1) 0 grL1 fr
    ∧ AtIssue (.wrsr (fo 19 (.v 0) (.imm 1))) (st gr) 0 gr fr := by
  refine ⟨⟨rfl, ?_, ?_, ?_⟩, rfl, ⟨rfl, ?_, ?_, ?_⟩, ⟨rfl, ?_, ?_, ?_⟩⟩ <;> decide
/-- A header that sets no flag, so that a tracked word is illegal. -/
def frNo : Frag := { fr with hw := some { placeHeader with seta := none } }
def grNo : Group := { gr with frags := [frNo] }
theorem witness_IssueChecksInOrder : (fcEff (.rcp (fo 2 (.v 3) (.v 0)))).isSome = true
    ∧ selected (st grNo) = some (0, grNo, frNo) ∧ illegalAtIssue (.rcp (fo 2 (.v 3) (.v 0))) frNo = true
    ∧ (aluEff (.iadd (fo 64 (.v 2) (.v 3)))).isSome = true ∧ selected (st gr64) = some (0, gr64, fr)
    ∧ illegalAtIssue (.iadd (fo 64 (.v 2) (.v 3))) fr = false
    ∧ (Instr.refs (.iadd (fo 64 (.v 2) (.v 3)))).find? (fun r => gr64.budget < r.1 + r.2) = some (64, 1) :=
  ⟨rfl, rfl, by decide, rfl, rfl, by decide, by decide⟩
/-- A group with a user interrupt active. -/
def grUi : Group := { gr with trap := { gr.trap with uiact := true, uiepc := 8, uiepcHdr := 0, uiepcHw := true } }
theorem witness_UretEndsInterrupt : AtIssue (.uret (fo 0 (.v 0) (.v 0))) (st grUi) 0 grUi fr ∧ grUi.trap.uiact = true
    ∧ grUi.trap.uiepcHw = true ∧ grUi.trap.uiepcHdr ≤ grUi.trap.uiepc.toNat
    ∧ (grUi.trap.uiepc.toNat - grUi.trap.uiepcHdr) % 8 = 0
    ∧ selected (st gr) = some (0, gr, fr) ∧ gr.trap.uiact = false := by
  refine ⟨⟨rfl, ?_, ?_, ?_⟩, rfl, rfl, ?_, ?_, rfl, rfl⟩ <;> decide

/-! ## Witnesses: waits and deliveries -/

/-- A group with one fragment that waits. -/
def grW (w : Wait) : Group := { gr with frags := [{ fr with wait := w }] }
/-- A waiting fragment of such a group. -/
def frW (w : Wait) : Frag := { fr with wait := w }
/-- Group 0 arrived at barrier 2 in generation 6. -/
def grBar : Group := { grW (.barrier 2) with arrgen := [(2, 6)] }
/-- A state with the team whose barrier 2 is in generation 7. -/
def stBar (g : Group) : State := { st g with teams := [(0, tmBar)] }
theorem witness_WaitsEnd : Waiting (stBar grBar) 0 grBar (frW (.barrier 2)) ∧ grBar.passed tmBar 2 = true
    ∧ (stBar grBar).team 0 = some tmBar ∧ Waiting (st (grW (.sleep 0))) 0 (grW (.sleep 0)) (frW (.sleep 0))
    ∧ Waiting (st (grW (.sleep 9))) 0 (grW (.sleep 9)) (frW (.sleep 9)) ∧ (0 : Nat) ≤ (st gr).clock ∧ (st gr).clock < 9 :=
  ⟨⟨rfl, rfl, rfl, rfl, rfl⟩, by decide, rfl, ⟨rfl, rfl, rfl, rfl, rfl⟩, ⟨rfl, rfl, rfl, rfl, rfl⟩, by decide, by decide⟩
/-- A partition whose wait limit is 1,024 cycles, at clock 2,000. -/
def stLim (g : Group) : State := { st g with clock := 2000, parts := [(0, { PartSt.empty with cfg := 1 <<< 96 })] }
/-- A waiting group with TIMEOUT masked; and one with a handler, unmasked. -/
def grMasked : Group := { grBar with trap := { grBar.trap with tmask := 0x80000 } }
def grOpen : Group := { grBar with trap := { grBar.trap with tmask := 0, hvec := 64 } }
theorem witness_WaitTimeouts : Waiting (stLim grMasked) 0 grMasked (frW (.barrier 2))
    ∧ 0 < bits ((stLim grMasked).partn grMasked.part).cfg 127 96
    ∧ fr.since + 1024 * bits ((stLim grMasked).partn grMasked.part).cfg 127 96 < (stLim grMasked).clock
    ∧ grMasked.trap.tmask.getLsbD 19 = true ∧ Waiting (stLim grOpen) 0 grOpen (frW (.barrier 2))
    ∧ dueCauses grOpen.trap = [] ∧ grOpen.trap.tmask.getLsbD 19 = false ∧ grOpen.trap.plevel = 0 ∧ grOpen.trap.hvec ≠ 0 :=
  ⟨⟨rfl, rfl, rfl, rfl, rfl⟩, by decide, by decide, by decide, ⟨rfl, rfl, rfl, rfl, rfl⟩, by decide, by decide, rfl, by decide⟩
/-- FPEXC recorded and unmasked, with a handler; and a user interrupt pending. -/
def grDue : Group := { gr with trap := { gr.trap with cause := 0x840, tmask := 0, hvec := 64 } }
def grPend : Group :=
  { gr with trap := { gr.trap with cause := 0, hvec := 64, uipend := true, uien := true, uivec := 128, uiact := false } }
theorem witness_Deliveries : Waiting (st grDue) 0 grDue fr ∧ (st grDue).mayIssue 0 grDue fr = true ∧ fr.word ≠ 0
    ∧ dueCauses grDue.trap = [6, 11] ∧ grDue.trap.plevel = 0 ∧ grDue.trap.hvec ≠ 0 ∧ (∀ n, grDue.unit ≠ .slalom n)
    ∧ Waiting (st grPend) 0 grPend fr ∧ (st grPend).mayIssue 0 grPend fr = true ∧ dueCauses grPend.trap = []
    ∧ grPend.trap.uivec ≠ 0 ∧ (∀ n, grPend.unit ≠ .slalom n) :=
  ⟨⟨rfl, rfl, rfl, rfl, rfl⟩, by decide, by decide, by decide, rfl, by decide, fun _ h => (by cases h),
    ⟨rfl, rfl, rfl, rfl, rfl⟩, by decide, by decide, by decide, fun _ h => (by cases h)⟩
theorem witness_UserInterruptHeld : Waiting (st gr) 0 gr fr ∧ gr.trap.uivec = 0 ∧ Waiting (st grUi) 0 grUi fr
    ∧ grUi.trap.uiact = true ∧ Waiting (st grL1) 0 grL1 fr ∧ grL1.trap.plevel ≠ 0 :=
  ⟨⟨rfl, rfl, rfl, rfl, rfl⟩, rfl, ⟨rfl, rfl, rfl, rfl, rfl⟩, rfl, ⟨rfl, rfl, rfl, rfl, rfl⟩, by decide⟩
/-- REGROUP p6, v0 to v3. -/
def rgOp : FOp := { fo 6 (.v 0) (.v 0) with b := .v 3 }
def grArr : Group := { grW (.regroup 6 0 3) with arrivedAt := some 0 }
theorem witness_RegroupOutcomes : (Instr.regroup rgOp).wf = true ∧ AtIssue (.regroup rgOp) (st grDef) 0 grDef frLow
    ∧ frLow.mask &&& frLow.members ≠ 0 ∧ grDef.deferred ≠ [] ∧ AtIssue (.regroup rgOp) (stT gr) 0 gr fr ∧ gr.unit = .team 0
    ∧ gr.frags = [fr] ∧ gr.deferred = [] ∧ Waiting (stT grArr) 0 grArr (frW (.regroup 6 0 3))
    ∧ (∀ x ∈ (stT grArr).groups, x.2.unit = .team 0 → x.1 = 0) ∧ (∀ x ∈ (stT grArr).swapped, x.group.unit ≠ .team 0) := by
  refine ⟨?_, ⟨rfl, ?_, ?_, ?_⟩, ?_, ?_, ⟨rfl, ?_, ?_, ?_⟩, rfl, rfl, rfl, ⟨rfl, rfl, rfl, rfl, rfl⟩, ?_, ?_⟩ <;> decide
/-- Two groups of a team at one REGROUP, with 2 and 94 live lanes. -/
def frG (m : Lanes) : Frag := { frW (.regroup 6 0 3) with mask := m }
def grG (n : Nat) (m : Lanes) : Group := { gr with uid := n, gnum := n, arrivedAt := some n, frags := [frG m] }
def stG : State :=
  { st gr with clock := 2, groups := [(0, grG 0 3), (1, grG 1 (allLanes - 3))], teams := [(0, { tm with groups := 2, live := 2 })] }
theorem witness_RegroupFuses : Tab.wf stG.groups = true ∧ stG.groups = [(0, grG 0 3), (1, grG 1 (allLanes - 3))]
    ∧ stG.stopped (grG 0 3) = false ∧ stG.stopped (grG 1 (allLanes - 3)) = false ∧ (grG 1 (allLanes - 3)).ops = []
    ∧ (frG 3).mask ≠ 0 ∧ (frG 3).mask &&& (frG 3).members = (frG 3).mask
    ∧ laneCount (frG 3).mask + laneCount (frG (allLanes - 3)).mask ≤ 96 ∧ 1 < stG.clock
    ∧ stG.groupMxDone (grG 1 (allLanes - 3)).uid = true ∧ (grG 1 (allLanes - 3)).guardRep = none :=
  ⟨by decide, rfl, by decide, by decide, rfl, by decide, by decide, by decide, by decide, by decide, rfl⟩

/-! ## Witnesses: memory -/

/-- A tenant of ASIDs 0 to 15, with a cache extent of 16 units and a plain extent of 4 in slice 0. -/
def ten : TenantSt :=
  { TenantSt.empty with
    tcfg := BitVec.ofNat 256 (16 * 2 ^ 176 + 2 ^ 192), bound := true
    extents := [{ kind := 1, policy := 0, span := 0, first := 0, sbase := 0, units := 16, obase := 0 },
                { kind := 0, policy := 0, span := 0, first := 0, sbase := 2048, units := 4, obase := 0 }] }
/-- Page 0, mapped with every permission. -/
def tlb0 : TlbEntry := { asid := 0, va := 0, pa := 0, size := 4096, perms := 7, tier := 0 }
/-- A machine with that tenant, its team's 4 KiB of scratchpad on core 0, the first GiB of HBM homed in slice 0, and page 0
in core 0's TLB. -/
def wld (g : Group) : State :=
  { st g with
    teams := [(0, { tm with size := 4096, guardFront := (0, 128) })], tenants := [(0, ten)]
    cores := [(0, { CoreSt.empty with tlb := [tlb0] })], fe := { FrontEnd.reset with iregions := [(0, 1)] } }
/-- Lane 0 alone is Enabled under p0; s3:s2 points to byte 256 of the core's scratchpad, s5:s4 to byte 0 of store space,
s7:s6 and s9:s8 are global 0. -/
def grM : Group := { gr with regs := { gr.regs with p := [(0, 1)], s := [(2, 256), (3, 0x30000000), (5, 0x10000000)] } }
/-- Operands of a memory word in lane 0, at the scalar pair n. -/
def mo0 (size : Size) (d n : BitVec 11) : MOp := { mo size d (.s n) with guard := { prd := 0, pn := false } }
/-- A machine whose walk of page 0 must wait: the line of the ASID table is on a miss. -/
def wldStall (g : Group) : State :=
  { wld g with cores := [], slices := [(0, { SliceSt.empty with misses := [{ line := 0, tenant := 0, waiters := [] }] })] }
theorem witness_MemoryWordsIssue_waits : AtIssue (.stg (mo0 .b4 0 6)) (wldStall grM) 0 grM fr ∧ (wldStall grM).stall = false
    ∧ (laneChecks (wldStall grM) 0 (grM.issuing fr (.stg (mo0 .b4 0 6))) fr (mo0 .b4 0 6) 0 (gloChk (mo0 .b4 0 6) globTags permW)).s.stall
        = true
    ∧ (laneChecks (wld grM) 0 (grM.issuing fr (.stg (mo0 .b4 0 6))) fr (mo0 .b4 0 6) 0 (gloChk (mo0 .b4 0 6) globTags permW)).s.stall
        = (wld grM).stall
    ∧ (laneChecks (wld grM) 0 (grM.issuing fr (.ldl (mo0 .b4 6 6))) fr (mo0 .b4 6 6) 0 (locChk (mo0 .b4 6 6) coreTags)).s.stall
        = (wld grM).stall
    ∧ (mkOp (mo0 .b4 6 2) true .load []).isLocal = true := by
  refine ⟨⟨rfl, ?_, ?_, ?_⟩, rfl, ?_, ?_, ?_, ?_⟩ <;> decide
theorem witness_MemoryWordsIssue : (memEff (.ldl (mo0 .b4 6 2))).isSome = true
    ∧ AtIssue (.ldl (mo0 .b4 6 2)) (wld grM) 0 grM fr ∧ grM.fencing = false ∧ selFlag fr false = some 0 ∧ grM.flag 0 < 63
    ∧ (laneChecks (wld grM) 0 (grM.issuing fr (.ldl (mo0 .b4 6 2))) fr (mo0 .b4 6 2) 0 (locChk (mo0 .b4 6 2) coreTags)).faults = []
    ∧ (laneChecks (wld grM) 0 (grM.issuing fr (.ldl (mo0 .b4 6 6))) fr (mo0 .b4 6 6) 0 (locChk (mo0 .b4 6 6) coreTags)).faults ≠ []
    ∧ (laneChecks (wld grM) 0 (grM.issuing fr (.stg (mo0 .b4 0 6))) fr (mo0 .b4 0 6) 0 (gloChk (mo0 .b4 0 6) globTags permW)).faults
        = [] := by
  refine ⟨rfl, ⟨rfl, ?_, ?_, ?_⟩, ?_, ?_, ?_, ?_, ?_, ?_⟩ <;> decide
theorem witness_LaneFaults :
    (∀ p, (locChk (mo0 .b4 6 2) coreTags 0 grM (wld grM) p).1 = wld grM)
    ∧ ((7 : W64).toNat % 4 ≠ 0)
    ∧ (locChk (mo0 .b4 6 2) coreTags 0 grM (wld grM) 7).2.isOk = false
    ∧ (locChk (mo0 .b4 6 2) coreTags 0 grM (wld grM) 0x3000000000000100).2.isOk = true := by
  refine ⟨fun p => ?_, by decide, by decide, by decide⟩
  unfold locChk localCheck
  split
  · split <;> rfl
  · rfl
/-- A part of 4 bytes of lane 0 at an address, and a word of one such part, outstanding as operation 4 on flag 0. -/
def pt (a : Nat) : Part :=
  { lane := 0, addr := a, va := BitVec.ofNat 64 a, n := 4, reg := 6, data := 9, swap := 0, done := false, written := false, got := 0
    err := false }
def mm (kind : AccKind) (o : MOp) (isLocal : Bool) (p : Part) : MemOp := mkOp o isLocal kind [p]
def grOp (m : MemOp) : Group := { grM with flags := [(0, 1)], ops := [{ id := 4, flag := 0, kind := .mem m }] }
def opOf (m : MemOp) : Op := { id := 4, flag := 0, kind := .mem m }
/-- A load and a store of scratchpad, and a load of a guard granule. -/
def mLd : MemOp := mm .load (mo .b4 6 (.s 2)) true (pt 256)
def mSt : MemOp := mm .store (mo .b4 0 (.s 2)) true (pt 256)
def mGd : MemOp := mm .load (mo .b4 6 (.s 2)) true (pt 64)
theorem witness_LocalAccessPerforms : (wld (grOp mSt)).group 0 = some (grOp mSt) ∧ (grOp mSt).op 4 = some (opOf mSt)
    ∧ (grOp mSt).opsBefore 4 = [] ∧ ordRel mSt.ord = false ∧ Tab.wf (grOp mSt).flags = true ∧ (wld (grOp mSt)).plat.bad = []
    ∧ Memory.wf (wld (grOp mSt)).scratch = true
    ∧ (∀ k < 4, (wld (grOp mSt)).guarded (256 + k) = false ∧ (wld (grOp mSt)).ringWord (256 + k) = false)
    ∧ (wld (grOp mGd)).guarded 64 = true ∧ mLd.returns = true ∧ mSt.returns = false ∧ (wld (grOp mSt)).sendRings = []
    ∧ mSt.spoil = false ∧ (ordRel mLd.ord && scopeWide mLd.scope) = false
    ∧ ∃ t, exec (.localAccessComplete 0 4 [0] allLanes) (wld (grOp mLd)) = .next t :=
  ⟨rfl, rfl, by decide, by decide, by decide, rfl, by decide, by decide, by decide, by decide, by decide, rfl, rfl, by decide, ⟨_, rfl⟩⟩
/-- WAITA of lane 0 on scratchpad byte 256, condition code k. -/
def wa (k : BitVec 3) : MOp := { mo0 .b4 6 2 with tag := k, c := 10, ord := .relaxed }
def grC : Group := { grM with regs := { grM.regs with v := [(960, 0)] } }
def mWa (k : Nat) (a : Nat) : MemOp := { mm .load (mo .b4 6 (.s 2)) true { pt a with data := 0 } with cond := k }
def grWa (k a : Nat) : Group := { grM with frags := [frW (.waita (mWa k a))] }
theorem witness_WaitOnScratchpad : (Instr.waita (wa 0)).wf = true ∧ AtIssue (.waita (wa 0)) (wld grC) 0 grC fr
    ∧ grC.fencing = false ∧ grC.ops = [] ∧ (wld grC).plat.bad = []
    ∧ (laneChecks (wld grC) 0 (grC.issuing fr (.waita (wa 0))) fr (wa 0) 0 (locChk (wa 0) bothTags)).faults = []
    ∧ (∀ x ∈ (laneChecks (wld grC) 0 (grC.issuing fr (.waita (wa 0))) fr (wa 0) 0 (locChk (wa 0) bothTags)).lanes,
        (wld grC).guarded x.2.2 = false)
    ∧ waitCond 0 32 (leNat ((wld grC).bankRead 256 4)) (opData grC fr (wa 0) 1 0) = true
    ∧ (Instr.waita (wa 1)).wf = true ∧ waitCond 1 32 (leNat ((wld grC).bankRead 256 4)) (opData grC fr (wa 1) 1 0) = false
    ∧ Waiting (wld (grWa 0 256)) 0 (grWa 0 256) (frW (.waita (mWa 0 256)))
    ∧ (∀ p ∈ (mWa 0 256).parts, (wld (grWa 0 256)).mayReach 0 (.team 0) p.addr = true ∧ (wld (grWa 0 256)).guarded p.addr = false)
    ∧ Waiting (wld (grWa 0 8192)) 0 (grWa 0 8192) (frW (.waita (mWa 0 8192)))
    ∧ ((mWa 0 8192).parts.find? fun p => !p.done && !(wld (grWa 0 8192)).mayReach 0 (.team 0) p.addr).isSome = true
    ∧ (∀ p ∈ (mWa 0 256).parts, p.lane ≠ 96) ∧ (grWa 0 256).ops = [] ∧ (wld (grWa 0 256)).plat.bad = []
    ∧ waitCond 0 32 (leNat ((wld (grWa 0 256)).bankRead 256 4)) 0 = true
    ∧ Waiting (wld (grWa 1 256)) 0 (grWa 1 256) (frW (.waita (mWa 1 256)))
    ∧ waitCond 1 32 (leNat ((wld (grWa 1 256)).bankRead 256 4)) 0 = false := by
  refine ⟨?_, ⟨rfl, ?_, ?_, ?_⟩, ?_, rfl, rfl, ?_, ?_, ?_, ?_, ?_, ⟨rfl, rfl, rfl, rfl, rfl⟩, ?_,
    ⟨rfl, rfl, rfl, rfl, rfl⟩, ?_, ?_, rfl, rfl, ?_, ⟨rfl, rfl, rfl, rfl, rfl⟩, ?_⟩ <;> decide
/-- A store-space atomic add, an L1-served load, store and a load that misses. -/
def mAt : MemOp := { mm (.atom 0 false true) (mo .b4 6 (.s 4)) false (pt (2 ^ 60)) with homeServed := true }
def mGl : MemOp := mm .load (mo .b4 6 (.s 6)) false (pt 0)
def mGs : MemOp := mm .store (mo .b4 6 (.s 6)) false (pt 124)
def line0 : L1Line :=
  { line := 0, asid := 0, valid := BitVec.allOnes 128, dirty := 0xF, cls := 0, used := 0, data := [(1, 7)], err := 0 }
/-- The machine with line 0 in core 0's L1, and a write-back of it under way. -/
def wldL1 (g : Group) : State :=
  { wld g with cores := [(0, { CoreSt.empty with tlb := [tlb0], l1 := [line0], wbq := [{ id := 5, line := 0, asid := 0, inval := false }] })] }
theorem witness_HomeAccessPerforms :
    ReadyPart (wld (grOp mAt)) 0 4 0 (grOp mAt) (opOf mAt) mAt (pt (2 ^ 60)) ∧ isStore (2 ^ 60) = true
    ∧ (wld (grOp mAt)).plat.bad = [] ∧ (wld (grOp mAt)).plat.soft = [] ∧ (wld (grOp mAt)).grids = []
    ∧ (∀ line, (wld (grOp mAt)).l1Line 0 0 line = none) ∧ (∀ iv, mAt.kind ≠ .wb iv)
    ∧ Memory.wf (wld (grOp mAt)).storeMem = true
    ∧ ReadyPart (wldL1 (grOp mGl)) 0 4 0 (grOp mGl) (opOf mGl) mGl (pt 0) ∧ mGl.l1Served (pt 0) = true
    ∧ (wldL1 (grOp mGl)).l1Line 0 0 0 = some line0 ∧ line0.has 0 4 = true
    ∧ ReadyPart (wldL1 (grOp mGs)) 0 4 0 (grOp mGs) (opOf mGs) mGs (pt 124) ∧ mGs.l1Served (pt 124) = true
    ∧ 124 % 128 + 4 ≤ 128 ∧ Tab.wf line0.data = true
    ∧ ReadyPart (wld (grOp mGl)) 0 4 0 (grOp mGl) (opOf mGl) mGl (pt 0) ∧ tierOf 0 ≠ 2 ∧ (wld (grOp mGl)).homeSlice 0 = some 0
    ∧ (wld (grOp mGl)).storeLine 0 0 = none ∧ ((wld (grOp mGl)).slice 0).misses = [] := by
  refine ⟨⟨rfl, rfl, rfl, rfl, rfl, ?_, ?_, ?_, ?_, ?_⟩, ?_, rfl, rfl, rfl, fun _ => rfl, ?_, ?_,
    ⟨rfl, rfl, rfl, rfl, rfl, ?_, ?_, ?_, ?_, ?_⟩, ?_, rfl, ?_, ⟨rfl, rfl, rfl, rfl, rfl, ?_, ?_, ?_, ?_, ?_⟩, ?_, ?_, ?_,
    ⟨rfl, rfl, rfl, rfl, rfl, ?_, ?_, ?_, ?_, ?_⟩, ?_, ?_, ?_, ?_⟩ <;> first | rfl | decide
/-- A home-served load that waits on line 0's miss in slice 0, whose store cache has the line with no byte valid. -/
def mMiss : MemOp := { mGl with homeServed := true }
def slMiss : SliceSt :=
  { SliceSt.empty with
    lines := [{ line := 0, tenant := 0, valid := 0, dirty := 0, stream := false, used := 0 }]
    misses := [{ line := 0, tenant := 0, waiters := [{ gk := 0, op := 4, part := 0 }] }] }
def wldMiss : State := { wld (grOp mMiss) with slices := [(0, slMiss)] }
theorem witness_MissFillServesWaiters :
    (wldMiss.slice 0).misses = [{ line := 0, tenant := 0, waiters := [{ gk := 0, op := 4, part := 0 }] }]
    ∧ wldMiss.fillAllowed 0 0 true = true ∧ (wldMiss.storeLine 0 0).isSome = true ∧ tierOf (128 * 0) ≠ 2 ∧ wldMiss.plat.bad = []
    ∧ wldMiss.plat.soft = [] ∧ wldMiss.group 0 = some (grOp mMiss) ∧ (grOp mMiss).op 4 = some (opOf mMiss)
    ∧ mMiss.parts[0]? = some (pt 0) ∧ mMiss.kind = .load ∧ wldMiss.l1Line 0 0 0 = none ∧ (pt 0).done = false
    ∧ mMiss.homeServed = true ∧ (opOf mMiss).flag < 12 := by
  refine ⟨rfl, ?_, ?_, ?_, rfl, rfl, rfl, rfl, rfl, rfl, ?_, rfl, rfl, ?_⟩ <;> decide
/-- A performed load; a REDG accepted; a WBL1 whose write-back 5 is under way. -/
def mDone : MemOp := mm .load (mo .b4 6 (.s 6)) false { pt 0 with done := true, got := 3 }
def mRed : MemOp := mm (.red 0 false false) (mo .b4 6 (.s 6)) false (pt 0)
def mWb : MemOp := { mm (.wb false) (mo .b4 6 (.s 6)) false (pt 0) with parts := [], release := some [5] }
theorem witness_GlobalAccessCompletes : (wld (grOp mDone)).group 0 = some (grOp mDone) ∧ (grOp mDone).op 4 = some (opOf mDone)
    ∧ mDone.returns = true ∧ mDone.spoil = false ∧ Tab.wf (grOp mDone).flags = true
    ∧ (wld (grOp mRed)).group 0 = some (grOp mRed) ∧ mRed.kind = .red 0 false false ∧ mRed.performed = false
    ∧ (wldL1 (grOp mWb)).wbDone 0 (mWb.release.getD []) = false ∧ (wld (grOp mWb)).wbDone 0 (mWb.release.getD []) = true :=
  ⟨rfl, rfl, by decide, rfl, by decide, rfl, rfl, by decide, by decide, by decide⟩
def wldWb : State := { wldL1 grM with slices := [(0, slMiss)] }
theorem witness_WriteBackArrives : (wldWb.core 0).wbq[0]? = some { id := 5, line := 0, asid := 0, inval := false }
    ∧ wldWb.l1Line 0 0 0 = some line0 ∧ line0.err = 0 ∧ wldWb.plat.bad = [] ∧ tierOf (128 * 0) ≠ 2
    ∧ wldWb.homeSlice (128 * 0) = some 0 ∧ (wldWb.storeLine 0 0).isSome = true ∧ wldWb.tenantOfAsid 0 = some 0
    ∧ wldWb.wakeFor 0 (128 * 0) = none ∧ wldWb.flipping (128 * 0) = false ∧ isStore (128 * 0 + 127) = false ∧ Memory.wf wldWb.mem = true := by
  refine ⟨rfl, ?_, rfl, rfl, ?_, ?_, ?_, ?_, ?_, ?_, ?_, ?_⟩ <;> first | rfl | decide
def fenceOp : MOp := { mo .b1 0 (.v 0) with ord := .acquire, scope := .device }
def noLane (o : MOp) : MOp := { o with guard := { prd := 7, pn := true } }
theorem witness_FenceAndLineWords : AtIssue (.fence fenceOp) (wld grM) 0 grM fr ∧ grM.fencing = false
    ∧ enabled grM fr (noLane fenceOp).guard = 0 ∧ enabled grM fr fenceOp.guard ≠ 0 ∧ grM.ops = []
    ∧ (wld grM).dirtyLines 0 0 = [] ∧ AtIssue (.fence fenceOp) (wld (grOp mGl)) 0 (grOp mGl) fr
    ∧ (grOp mGl).fencing = false ∧ (grOp mGl).allReturned = false
    ∧ AtIssue (.wbl1All { mo .b1 0 (.v 0) with x := 1 }) (wldL1 grM) 0 grM fr ∧ selFlag fr false = some 0 ∧ grM.flag 0 < 63
    ∧ AtIssue (.invl1 (mo0 .b1 0 6)) (wldL1 grM) 0 grM fr
    ∧ (laneChecks (wldL1 grM) 0 (grM.issuing fr (.invl1 (mo0 .b1 0 6))) fr (mo0 .b1 0 6) 0
        (gloChk (mo0 .b1 0 6) globTags permR)).faults = []
    ∧ (laneChecks (wldL1 grM) 0 (grM.issuing fr (.invl1 (mo0 .b1 0 6))) fr (mo0 .b1 0 6) 0
        (gloChk (mo0 .b1 0 6) globTags permR)).s.stall = (wldL1 grM).stall
    ∧ (∀ x ∈ (wld grM).slices, ∀ l ∈ x.2.lines, l.dirty = 0) ∧ fr.wait = .none := by
  refine ⟨⟨rfl, ?_, ?_, ?_⟩, ?_, ?_, ?_, rfl, ?_, ⟨rfl, ?_, ?_, ?_⟩, ?_, ?_, ⟨rfl, ?_, ?_, ?_⟩, ?_, ?_, ⟨rfl, ?_, ?_, ?_⟩, ?_, ?_, ?_, rfl⟩ <;> decide
/-- WAITGE of lane 0 on store-space byte 0, with comparand n. -/
def wg : MOp := { mo0 .b4 6 4 with c := 10, ord := .relaxed }
def grGe (n : W32) : Group := { grM with regs := { grM.regs with v := [(960, n)] } }
def chkGe (n : W32) : Checked :=
  laneChecks (wld (grGe n)) 0 ((grGe n).issuing fr (.waitge wg)) fr wg 0 (gloChk wg homeTags permR)
def grGw : Group := { grM with frags := [frW (.waitge { mAt with kind := .load })] }
theorem witness_PrefetchAndWaitge : AtIssue (.pref (mo0 .b1 0 6)) (wld grM) 0 grM fr ∧ grM.fencing = false
    ∧ AtIssue (.waitge wg) (wld (grGe 0)) 0 (grGe 0) fr ∧ (chkGe 0).faults = [] ∧ (Instr.waitge wg).wf = true
    ∧ ((wld (grGe 0)).core 0).l1 = [] ∧ (chkGe 0).s = wld (grGe 0)
    ∧ ((chkGe 0).lanes.all fun x => isStore x.2.2 && ((wld (grGe 0)).wakeFor 0 x.2.2).isNone) = true
    ∧ opData ((grGe 0).issuing fr (.waitge wg)) fr wg 1 0 ≤ (wld (grGe 0)).readHomeNat (2 ^ 60 + 2 ^ 23) 4
    ∧ AtIssue (.waitge wg) (wld (grGe 1)) 0 (grGe 1) fr ∧ (chkGe 1).faults = []
    ∧ ¬ opData ((grGe 1).issuing fr (.waitge wg)) fr wg 1 0 ≤ (wld (grGe 1)).readHomeNat (2 ^ 60 + 2 ^ 23) 4
    ∧ Waiting (wld grGw) 0 grGw (frW (.waitge { mAt with kind := .load }))
    ∧ (wld (grGe 0)).fe.flip = none ∧ (chkGe 1).s.stall = (wld (grGe 1)).stall ∧ (∀ p ∈ mAt.parts, p.lane ≠ 96)
    ∧ Waiting (wld { grM with frags := [frW (.waitge mDone)] }) 0 { grM with frags := [frW (.waitge mDone)] } (frW (.waitge mDone))
    ∧ mDone.performed = true := by
  refine ⟨⟨rfl, ?_, ?_, ?_⟩, ?_, ⟨rfl, ?_, ?_, ?_⟩, ?_, ?_, rfl, rfl, ?_, ?_, ⟨rfl, ?_, ?_, ?_⟩, ?_, ?_,
    ⟨rfl, rfl, rfl, rfl, rfl⟩, rfl, rfl, ?_, ⟨rfl, rfl, rfl, rfl, rfl⟩, ?_⟩ <;> decide

/-! ## Witnesses: the matrix engine -/

/-- A group that has fenced its registers; and the requests of its team. -/
def grF : Group := { gr with fenced := true }
theorem witness_MatrixWordsIssue : (mxEff (.mmah (fo 0 (.v 8) (.v 16)))).isSome = true
    ∧ AtIssue (.mmah (fo 0 (.v 8) (.v 16))) (wld grF) 0 grF fr ∧ selFlag fr false = some 0 ∧ grF.flag 0 < 63 ∧ grF.fenced = true
    ∧ (fo 0 (.v 8) (.v 16)).c.toNat.testBit 3 = false ∧ enabled grF fr .always ≠ 0
    ∧ AtIssue (.mmah (fo 0 (.v 8) (.v 16))) (wld gr) 0 gr fr ∧ gr.fenced = false
    ∧ (mxEff (.maccz (fo 0 (.v 0) (.imm 5)))).isSome = true ∧ AtIssue (.maccz (fo 0 (.v 0) (.imm 5))) (wld gr) 0 gr fr := by
  refine ⟨rfl, ⟨rfl, ?_, ?_, ?_⟩, ?_, ?_, rfl, ?_, ?_, ⟨rfl, ?_, ?_, ?_⟩, rfl, rfl, ⟨rfl, ?_, ?_, ?_⟩⟩ <;> decide
def req (kind : MxKind) (stage : MxStage) : MxReq :=
  { uid := 0, unit := .team 0, tenant := 0, core := 0, prio := 0, kind := kind, idx := 0, a := .none, b := .none, wide := false
    issued := 0, stage := stage, age := 0, taint := false, layout := none, mxfault := none, dataerr := none, rowsA := [], rowsB := [] }
/-- A machine at clock n with request 7 of the team in cluster 0. -/
def stMx (n : Nat) (g : Group) (r : MxReq) : State :=
  { wld g with clock := n, clusters := [(0, { ClusterSt.empty with mx := [(7, r)] })] }
def grAcc : Group := { grW (.accept 7) with flags := [(0, 1)], ops := [{ id := 4, flag := 0, kind := .request 7 }] }
theorem witness_RequestAccepted :
    Tab.find ((stMx 4 grAcc (req (.maccz 1 false) .sent)).cluster 0).mx 7 = some (req (.maccz 1 false) .sent)
    ∧ ((stMx 4 grAcc (req (.maccz 1 false) .sent)).cluster 0).hasEntry 0 0 = true
    ∧ ((stMx 4 grAcc (req (.maccz 1 false) .sent)).core 0).array.admits (.team 0) = true
    ∧ (stMx 4 grAcc (req (.maccz 1 false) .sent)).group 0 = some grAcc ∧ grAcc.frag 0 = some (frW (.accept 7))
    ∧ (grAcc.ops.find? fun x => x.kind == .request 7) = some { id := 4, flag := 0, kind := .request 7 }
    ∧ Tab.wf grAcc.flags = true ∧ (req (.maccz 1 false) .sent).kind.isStore = false
    ∧ (req (.maccst 0 false (.regs 8)) .sent).kind.isStore = true := by
  refine ⟨rfl, ?_, ?_, rfl, rfl, ?_, ?_, ?_, ?_⟩ <;> decide
/-- The same machine, whose cores 0 and 1 hold tokens 3 and 4. -/
def tokSt (n : Nat) : CoreSt := { CoreSt.empty with array := { CoreSt.empty.array with token := some n } }
def stTwo (r : MxReq) : State := { stMx 9 gr r with cores := [(0, tokSt 3), (1, tokSt 4)] }
theorem witness_RequestStarted :
    (stMx 9 gr { req (.maccld 0 false) (.accepted 0) with a := .regs 8 }).mxReady 0
      = [(7, { req (.maccld 0 false) (.accepted 0) with a := .regs 8 })]
    ∧ ((stMx 9 gr { req (.maccld 0 false) (.accepted 0) with a := .regs 8 }).byUid 0).isSome = true
    ∧ (stMx 9 gr { req (.maccld 0 false) (.accepted 0) with a := .tile 256 16 0 0 }).mxReady 0
      = [(7, { req (.maccld 0 false) (.accepted 0) with a := .tile 256 16 0 0 })]
    ∧ (stTwo { req (.mma 0xA4 8) (.accepted 0) with a := .regs 8, b := .tile 256 16 0 0, wide := true }).mxReady 0
      = [(7, { req (.mma 0xA4 8) (.accepted 0) with a := .regs 8, b := .tile 256 16 0 0, wide := true })]
    ∧ (stTwo { req (.mma 0xA4 0) (.accepted 0) with a := .tile 256 16 0 0, b := .regs 8 }).mxReady 0
      = [(7, { req (.mma 0xA4 0) (.accepted 0) with a := .tile 256 16 0 0, b := .regs 8 })] := by
  refine ⟨?_, ?_, ?_, ?_, ?_⟩ <;> decide
/-- A request whose operands were read as zeros, about to retire. -/
def reqE (k : MxKind) : MxReq :=
  { req k (.running 10) with a := .regs 8, rowsA := List.replicate 64 (zeros 32), rowsB := List.replicate 64 (zeros 32) }
/-- The scales 2^127 and 2^127 in row 0 of A and column 0, whose product cancels, and a partial of 1 in m1. -/
def reqS : MxReq := { reqE (.msca 4 false 1) with rowsA := List.replicate 64 [127, 127] }
def stMsca : State :=
  { stMx 30 gr reqS with
    cores := [(0, { CoreSt.empty with array := { CoreSt.empty.array with acc := [(1, List.replicate 64 (List.replicate 64 0x3F800000))] } })] }
theorem witness_RequestRetired_elements :
    (∀ k ∈ [MxKind.mma 0xA4 4, .mma 0xA5 0, .maccld 1 false],
      (reqE k).dests = [(0, 0)] ∧ (reqE k).rowsA[5]? = some (zeros 32) ∧ (reqE k).rowsB[9]? = some (zeros 32)
      ∧ (((stMx 30 gr (reqE k)).core 0).array.rows 0)[5]? = some (List.replicate 64 0)
      ∧ (reqE k).taint = false ∧ (reqE k).layout = none ∧ (reqE k).mxfault = none ∧ (reqE k).dataerr = none)
    ∧ reqS.dests = [(0, 0)] ∧ reqS.rowsA[9]? = some [127, 127] ∧ ((stMsca.core 0).array.rows 1)[5]? = some (List.replicate 64 0x3F800000)
    ∧ (0x3F800000 : W32).extractLsb' 23 8 ≠ 255 ∧ (0x3F800000 : W32).extractLsb' 0 31 ≠ 0
    ∧ (∀ c, c ≠ 0 → Tab.wf (stMsca.core c).array.acc = true) ∧ stMsca.sendRings = [] := by
  refine ⟨?_, ?_, ?_, ?_, ?_, ?_, fun c h => ?_, rfl⟩
  case refine_7 =>
    have e : (stMsca.core c).array.acc = [] := by
      show (Tab.get CoreSt.empty [(0, _)] c).array.acc = []
      unfold Tab.get Tab.find
      rw [if_neg (by simpa using fun h' => h h'.symm)]
      rfl
    rw [e]; rfl
  all_goals decide
theorem witness_RequestRetired :
    Tab.find ((stMx 29 gr (req (.maccz 1 false) (.running 10))).cluster 0).mx 7 = some (req (.maccz 1 false) (.running 10))
    ∧ (∀ c, Tab.wf ((stMx 29 gr (req (.maccz 1 false) (.running 10))).core c).array.acc = true) ∧ 29 < 10 + 20 ∧ 10 + 20 ≤ 30
    ∧ Tab.find ((stMx 30 grAcc (req (.maccst 0 false (.regs 8)) (.running 10))).cluster 0).mx 7
        = some (req (.maccst 0 false (.regs 8)) (.running 10))
    ∧ (grAcc.ops.find? fun x => x.kind == .request 7).isSome = true
    ∧ ((stMx 30 grAcc (req (.maccst 0 false (.regs 8)) (.running 10))).core 0).array.bad = []
    ∧ 16 ≤ 16 ∧ 256 + 63 * 16 * 16 + 256 ≤ 2 ^ 20 := by
  refine ⟨rfl, fun c => ?_, ?_, ?_, rfl, ?_, rfl, ?_, ?_⟩
  · by_cases h : c = 0
    · subst h; rfl
    · have e : ((stMx 29 gr (req (.maccz 1 false) (.running 10))).core c).array.acc = [] := by
        show (Tab.get CoreSt.empty [(0, _)] c).array.acc = []
        unfold Tab.get Tab.find
        rw [if_neg (by simpa using fun h' => h h'.symm)]
        rfl
      rw [e]; rfl
  all_goals decide
/-- A group with an MWAIT for request 7, or an MXSTAT, outstanding. -/
def grMw : Group := { gr with flags := [(0, 1)], ops := [{ id := 4, flag := 0, kind := .mwait 3 1 [7] }] }
def grMs : Group := { gr with flags := [(0, 1)], ops := [{ id := 4, flag := 0, kind := .mxstat 3 2 0 }] }
theorem witness_MatrixWaits : AtIssue (.mfence (fo 0 (.v 0) (.imm 1))) (st gr) 0 gr fr ∧ gr.flag 0 = 0
    ∧ AtIssue (.mfence (fo 0 (.v 0) (.imm 1))) (st grFc) 0 grFc fr ∧ grFc.flag 0 ≠ 0 ∧ enabled gr fr .always ≠ 0
    ∧ AtIssue (.mwait (fo 3 (.v 0) (.imm 1))) (st gr) 0 gr fr ∧ selFlag fr false = some 0
    ∧ (stMx 34 grMw { req (.maccz 1 false) (.retired 30) with layout := some 64 }).group 0 = some grMw
    ∧ grMw.op 4 = some { id := 4, flag := 0, kind := .mwait 3 1 [7] } ∧ grMw.opsBefore 4 = []
    ∧ [7].filterMap (Tab.find ((stMx 34 grMw { req (.maccz 1 false) (.retired 30) with layout := some 64 }).cluster 0).mx)
        = [{ req (.maccz 1 false) (.retired 30) with layout := some 64 }]
    ∧ (((stMx 34 grMw { req (.maccz 1 false) (.retired 30) with layout := some 64 }).allReqs.filter fun y => [7].contains y.1).map
        fun y => y.2) = [{ req (.maccz 1 false) (.retired 30) with layout := some 64 }]
    ∧ (grMw.ops.all fun x => !x.spoil) = true ∧ (grMs.ops.all fun x => !x.spoil) = true
    ∧ AtIssue (.mxstat (fo 3 (.v 0) (.imm 2))) (st gr) 0 gr fr
    ∧ (stMx 4 grMs (req (.maccz 1 false) .sent)).group 0 = some grMs ∧ grMs.op 4 = some { id := 4, flag := 0, kind := .mxstat 3 2 0 } := by
  refine ⟨⟨rfl, ?_, ?_, ?_⟩, rfl, ⟨rfl, ?_, ?_, ?_⟩, ?_, ?_, ⟨rfl, ?_, ?_, ?_⟩, ?_, rfl, rfl, ?_, rfl, ?_, rfl, rfl, ⟨rfl, ?_, ?_, ?_⟩, rfl, rfl⟩ <;> decide
/-- Core 0's array holds token 3, with 1,024 passes, or none and 64 idle cycles. -/
def stTok (h : Option Nat) (passes : Nat) : State :=
  { State.reset with
    clock := 64
    cores := [(0, { CoreSt.empty with array := { CoreSt.empty.array with token := some 3, passesHeld := passes } })]
    dies := [(0, { DieSt.empty with tokens := [(3, { pos := 11, since := 52, holder := h, part := none })] })] }
theorem witness_RelayTokens :
    Tab.find ((stTok none 0).die 0).tokens 3 = some { pos := 11, since := 52, holder := none, part := none }
    ∧ Tab.find ((stTok (some 0) 0).die 0).tokens 3 = some { pos := 11, since := 52, holder := some 0, part := none }
    ∧ 1024 ≤ ((stTok (some 0) 1024).core 0).array.passesHeld ∧ ((stTok (some 0) 1024).core 0).array.token = some 3
    ∧ ((stTok (some 0) 0).core 0).array.idleSince + 64 ≤ (stTok (some 0) 0).clock
    ∧ ((stTok (some 0) 0).cluster (clusterOf 0)).mx = [] ∧ 52 + 12 ≤ (stTok none 0).clock ∧ (stTok none 0).clock - 1 < 52 + 12
    ∧ ((stTok (some 0) 1024).core 0).array.idleSince ≤ (stTok (some 0) 1024).clock :=
  ⟨rfl, rfl, by decide, rfl, by decide, rfl, by decide, by decide, by decide⟩
/-- A machine whose team holds 32 KiB of core 0's scratchpad. -/
def stBig : State := { State.reset with teams := [(0, { tm with size := 0x8000 })] }
theorem witness_RequestRetired_tile : ∀ k, 256 ≤ k → k < 256 + 63 * 16 * 16 + 256 →
    stBig.mayReach 0 (.team 0) (scratchKey 0 k) = true ∧ stBig.guarded (scratchKey 0 k) = false
    ∧ stBig.ringWord (scratchKey 0 k) = false := by
  intro k h1 h2
  have hk : scratchKey 0 k = k := by unfold scratchKey; omega
  have hc : keyCore k = 0 := by unfold keyCore; omega
  have ho : keyOff k = k := by unfold keyOff; omega
  have hp : stBig.pageOwner k = .team 0 := by
    have ht : stBig.teamAt 0 k = some (0, { tm with size := 0x8000 }) := by
      have hlt : k < 0x8000 := by omega
      simp only [State.teamAt, stBig, List.find?, tm]
      simp [hlt]
    unfold State.pageOwner
    rw [hc, ho, ht]; rfl
  have hg : stBig.team 0 = some { tm with size := 0x8000 } := rfl
  rw [hk]
  refine ⟨?_, ?_, ?_⟩
  · unfold State.mayReach; rw [hp]; dsimp only; rw [hg]; rfl
  · unfold State.guarded; rw [hp]; dsimp only; rw [hg, ho]; simp [tm]
  · unfold State.ringWord; rw [hp]; dsimp only; rw [hg]; rfl

/-! ## Witnesses: the store engine -/

/-- A tenant with a key-value reserve of two blocks, of which block 1 holds key 0 or block 0 is filling. -/
def tenKv (bs : Tab Block) : TenantSt :=
  { ten with
    extents := ten.extents ++ [{ kind := 4, policy := 0, span := 0, first := 0, sbase := 2056, units := 2, obase := 0x10000 }]
    reserves := [(0, { blocks := bs, evicts := 0 })] }
def blk (key : Option W64) (busy : Bool) : Block := { key := key, busy := busy, gen := 3, prio := 0, recent := 0, inserted := 0 }
def wldKv (g : Group) (bs : Tab Block) : State := { wld g with tenants := [(0, tenKv bs)] }
/-- Operands of a store word: pointer in the scalar pair n, other operands from s12, results from s20. -/
def so (n : BitVec 11) : MOp := { mo0 .b4 20 n with c := 12 }
/-- The scalars of grM, and those of a transpose of 2 by 2 elements: destination, shape, pitches. -/
def grX : Group :=
  { grM with regs := { grM.regs with s := [(2, 256), (3, 0x30000000), (5, 0x10000000), (12, 128), (13, 0x10000000), (14, 514),
                                           (15, 0x400040)] } }
theorem acts_of (i : Instr) (s : State) (g : Group) (o : MOp) (hs : selected s = some (0, g, fr)) (hl : illegalAtIssue i fr = false)
    (hr : regRange i g = []) (hb : readsBad i g fr = false) (hf : g.fencing = false) (hn : selFlag fr o.fs = some 0)
    (h0 : g.flag 0 < 63) (he : enabled g fr o.guard ≠ 0) : Acts i s 0 g fr o 0 := ⟨⟨hs, hl, hr, hb⟩, hf, hn, h0, he⟩
theorem witness_ContractWords : Acts (.pin (so 6)) (wld grM) 0 grM fr (so 6) 0 ∧ globalBody (ptrA grM fr (so 6)) = some 0
    ∧ 0 % 4096 = 0 ∧ (pinReq grM fr (so 6)).pages = 0 ∧ globalBody (ptrA grM fr (so 2)) = none
    ∧ ((wld grM).pin 0 (grM.issuing fr (.pin (so 6))) (pinReq grM fr (so 6))).1.stall = (wld grM).stall
    ∧ Acts (.unpin (so 6)) (wld grM) 0 grM fr (so 6) 0 := by
  refine ⟨⟨⟨rfl, ?_, ?_, ?_⟩, ?_, ?_, ?_, ?_⟩, ?_, ?_, ?_, ?_, ?_, ⟨⟨rfl, ?_, ?_, ?_⟩, ?_, ?_, ?_, ?_⟩⟩ <;> decide
/-- s6 = 64: a pointer that is not page-aligned. -/
def grOff : Group := { grM with regs := { grM.regs with s := [(6, 64), (12, 1)] } }
theorem witness_ContractWords_align : Acts (.pin (so 6)) (wld grOff) 0 grOff fr (so 6) 0
    ∧ globalBody (ptrA grOff fr (so 6)) = some 64 ∧ 64 % 4096 ≠ 0 ∧ (pinReq grOff fr (so 6)).pages = 1 := by
  refine ⟨⟨⟨rfl, ?_, ?_, ?_⟩, ?_, ?_, ?_, ?_⟩, ?_, ?_, ?_⟩ <;> decide
def kvEx : Extent := { kind := 4, policy := 0, span := 0, first := 0, sbase := 2056, units := 2, obase := 0x10000 }
def grKi : Group :=
  { grM with flags := [(0, 1)], ops := [{ id := 4, flag := 0, kind := .kvins 20 0 (some 0) false 0 5 0 [(0, 8)] }] }
def stKi : State := wldKv grKi [(0, blk none true)]
theorem witness_KeyValueWords : Acts (.kvlook (so 6)) (wld grM) 0 grM fr (so 6) 0 ∧ (wld grM).kvExtent 0 0 = none
    ∧ Acts (.kvdrop (so 6)) (wldKv grM [(1, blk (some 0) false)]) 0 grM fr (so 6) 0
    ∧ (wldKv grM [(1, blk (some 0) false)]).kvExtent 0 0 = some (kvEx, [0])
    ∧ (wldKv grM [(1, blk (some 0) false)]).kvFind 0 0 kvEx [0] (readS64 grM fr 12) = some (1, blk (some 0) false)
    ∧ (wldKv grM [(1, blk (some 7) false)]).kvFind 0 0 kvEx [0] (readS64 grM fr 12) = none
    ∧ Acts (.kvins (so 6)) (wldKv grM [(1, blk (some 7) false)]) 0 grM fr (so 6) 0 ∧ (ptrA grM fr (so 6)).toNat % 128 = 0
    ∧ (wldKv grM [(1, blk (some 7) false)]).kvChoose 0 0 kvEx [0] = .got 0 false := by
  refine ⟨⟨⟨rfl, ?_, ?_, ?_⟩, ?_, ?_, ?_, ?_⟩, ?_, ⟨⟨rfl, ?_, ?_, ?_⟩, ?_, ?_, ?_, ?_⟩, ?_, ?_, ?_,
    ⟨⟨rfl, ?_, ?_, ?_⟩, ?_, ?_, ?_, ?_⟩, ?_, ?_⟩ <;> decide
theorem witness_KeyValueWords_span :
    ((wldKv grM [(1, blk (some 7) false)]).span 0 (grM.issuing fr (.kvins (so 6))) globTags permR (ptrA grM fr (so 6)) 4096).2.isOk
      = true
    ∧ ((wldKv grM [(1, blk (some 7) false)]).span 0 (grM.issuing fr (.kvins (so 6))) globTags permR (ptrA grM fr (so 6)) 4096).1.stall
      = (wldKv grM [(1, blk (some 7) false)]).stall
    ∧ (((wldKv grM [(1, blk (some 7) false)]).span 0 (grM.issuing fr (.kvins (so 6))) globTags permR (ptrA grM fr (so 6)) 4096).1.kvExtent
        0 0) = some (kvEx, [0]) := ⟨by rfl, by decide +kernel, by decide +kernel⟩
theorem witness_KeyValueWords_switch : stKi.group 0 = some grKi
    ∧ grKi.op 4 = some { id := 4, flag := 0, kind := .kvins 20 0 (some 0) false 0 5 0 [(0, 8)] }
    ∧ stKi.kvExtent 0 0 = some (kvEx, [0]) ∧ (((stKi.tenant 0).reserve 0).block 0).busy = true ∧ grKi.opsBefore 4 = []
    ∧ stKi.wakeAny 0 (storeAddr (kvPlace kvEx [0] 0).1 (kvPlace kvEx [0] 0).2
        :: ((runAddrs [(0, 8)]).map fun a => a / 128 * 128).eraseDups) = none
    ∧ (((stKi.tenant 0).reserve 0).blocks.find? fun y => y.2.key == some 5) = none ∧ 20 + 3 < 125 ∧ Tab.wf grKi.flags = true
    ∧ (grKi.ops.all fun x => !x.spoil) = true ∧ stKi.dirtyLines 0 0 = [] ∧ (stKi.engineReads 0 (runAddrs [(0, 8)])).stall = stKi.stall := by
  refine ⟨rfl, rfl, ?_, ?_, ?_, ?_, ?_, ?_, ?_, ?_, ?_, ?_⟩ <;> decide
def xpAt (e : Nat × Nat) : Nat × Nat := (2 ^ 60 + 2 ^ 23 + e.1 * 64 + e.2 * 4, 2 ^ 60 + 2 ^ 23 + 128 + e.2 * 64 + e.1 * 4)
def xpKind : OpKind := .xpose 20 0x1000000000000000 0x1000000000000080 4 2 2 64 64
/-- A group that asks STQRY for selector 2. -/
def grX2 : Group := { grM with regs := { grM.regs with s := [(12, 2)] } }
def grXp : Group := { grX with flags := [(0, 1)], ops := [{ id := 4, flag := 0, kind := xpKind }] }
theorem witness_TransposeAndQuery : Acts (.xpose (so 4)) (wld grM) 0 grM fr (so 4) 0 ∧ (xposeShape grM fr (so 4)).2 = false
    ∧ Acts (.xpose (so 4)) (wld grX) 0 grX fr (so 4) 0 ∧ (xposeShape grX fr (so 4)).2 = true
    ∧ (ptrA grX fr (so 4)).toNat % 4 = 0 ∧ (readS64 grX fr 12).toNat % 4 = 0
    ∧ (∀ e ∈ (xposeShape grX fr (so 4)).1.elems,
        ((wld grX).storeAt 0 ((xposeShape grX fr (so 4)).1.elemPtrs (ptrA grX fr (so 4)) (readS64 grX fr 12) e).1).toOption = some (xpAt e).1
        ∧ ((wld grX).storeAt 0 ((xposeShape grX fr (so 4)).1.elemPtrs (ptrA grX fr (so 4)) (readS64 grX fr 12) e).2).toOption = some (xpAt e).2)
    ∧ (∀ e ∈ (xposeShape grX fr (so 4)).1.elems, ∀ i < 4,
        (wld grXp).storePlace 0 (((xposeShape grX fr (so 4)).1.elemPtrs (ptrA grX fr (so 4)) (readS64 grX fr 12) e).1 + BitVec.ofNat 64 i)
          = some ((xpAt e).1 + i)
        ∧ (wld grXp).storePlace 0 (((xposeShape grX fr (so 4)).1.elemPtrs (ptrA grX fr (so 4)) (readS64 grX fr 12) e).2 + BitVec.ofNat 64 i)
          = some ((xpAt e).2 + i)
        ∧ (wld grXp).wakeFor 0 ((xpAt e).1 + i) = none ∧ (wld grXp).wakeFor 0 ((xpAt e).2 + i) = none)
    ∧ (grXp.ops.all fun x => !x.spoil) = true ∧ (wld grXp).grids = []
    ∧ ((wld grX2).locate 0 (grX2.issuing fr (.stqry (so 4))) [0] permR (ptrA grX2 fr (so 4))).1.stall = (wld grX2).stall
    ∧ Acts (.stqry (so 4)) (wld grX2) 0 grX2 fr (so 4) 0 ∧ readS grX2 fr 12 = 2
    ∧ (wld grXp).group 0 = some grXp ∧ grXp.op 4 = some { id := 4, flag := 0, kind := xpKind } ∧ grXp.opsBefore 4 = []
    ∧ (∀ e ∈ (xposeShape grX fr (so 4)).1.elems, ∀ e' ∈ (xposeShape grX fr (so 4)).1.elems, ∀ i < 4, ∀ j < 4,
        (xpAt e).2 + i ≠ (xpAt e').1 + j ∧ (e ≠ e' → (xpAt e).2 + i ≠ (xpAt e').2 + j))
    ∧ Acts (.stqry (so 4)) (wld grM) 0 grM fr (so 4) 0 ∧ readS { grM with regs := { grM.regs with s := [(12, 3)] } } fr 12 = 3 := by
  refine ⟨⟨⟨rfl, ?_, ?_, ?_⟩, ?_, ?_, ?_, ?_⟩, ?_, ⟨⟨rfl, ?_, ?_, ?_⟩, ?_, ?_, ?_, ?_⟩, ?_, ?_, ?_, ?_, ?_, rfl, rfl, ?_, ⟨⟨rfl, ?_, ?_, ?_⟩, ?_, ?_, ?_, ?_⟩, ?_, rfl, rfl, ?_, ?_,
    ⟨⟨rfl, ?_, ?_, ?_⟩, ?_, ?_, ?_, ?_⟩, ?_⟩ <;> decide +kernel
/-- A group with a word of scalar results outstanding. -/
def grSc : Group := { grM with flags := [(0, 1)], ops := [{ id := 4, flag := 0, kind := .scalars [(20, 7), (21, 0)] false }] }
theorem witness_ScalarsComplete : (wld grSc).group 0 = some grSc
    ∧ grSc.op 4 = some { id := 4, flag := 0, kind := .scalars [(20, 7), (21, 0)] false }
    ∧ Tab.wf grSc.flags = true ∧ (([(20, 7), (21, 0)] : List (Nat × W32)).map fun x => x.1).Nodup
    ∧ (∀ x ∈ ([(20, 7), (21, 0)] : List (Nat × W32)), x.1 < 125) ∧ (grSc.ops.all fun x => !x.spoil) = true := by
  refine ⟨rfl, rfl, ?_, ?_, ?_, rfl⟩ <;> decide
/-- A package owned by master 2, whose die 0 layer 1 stands as given, at clock n. -/
def stOwn (n : Nat) (l : Layer) : State :=
  { State.reset with clock := n, fe := { FrontEnd.reset with owner := 2 }, dies := [(0, { DieSt.empty with layer1 := l })] }
theorem witness_LayersChange : (stOwn 0 Layer.active).recovering = false ∧ (stOwn 0 Layer.active).isOwner 1 = false
    ∧ (stOwn 0 Layer.active).isOwner 2 = true ∧ (stOwn 0 Layer.active).layerReserved 0 1 = false
    ∧ ((stOwn 0 Layer.active).layer 0 1).target = 0
    ∧ ((stOwn 0 { state := 2, target := 2, ends := none }).layer 0 1).target = 2
    ∧ ((stOwn 0 { state := 2, target := 2, ends := none }).layer 0 1).state = 2
    ∧ ((stOwn 9 { state := 0, target := 1, ends := some 10 }).layer 0 1).ends = some 10
    ∧ ((stOwn 10 { state := 0, target := 2, ends := some 10 }).layer 0 1).target = 2
    ∧ (stOwn 10 { state := 0, target := 2, ends := some 10 }).layerBusy 0 1 = false
    ∧ ((stOwn 0 { state := 1, target := 0, ends := some 10, dbg := true }).layer 0 1).dbg = true
    ∧ (∀ n, ((stOwn 10 { state := 0, target := 2, ends := some 10 }).slice n).lines = []) := by
  refine ⟨?_, ?_, ?_, ?_, rfl, rfl, rfl, rfl, rfl, ?_, rfl, fun _ => rfl⟩ <;> decide
theorem witness_RegionsWritten : 31 < 32 ∧ (stOwn 0 Layer.active).isOwner 2 = true
    ∧ Tab.wf (stOwn 0 Layer.active).fe.iregions = true
    ∧ (iregValid 1 && (!(stOwn 0 Layer.active).iregOk 1 || false)) = false
    ∧ (iregValid 0xE1 && !(stOwn 0 Layer.active).iregOk 0xE1) = true := by decide

/-! ## Witnesses: triggers and tasks -/

/-- Operands of a trigger word: pointer or handle in s a, C operand 16, results from s20, in lane 0. -/
def tf (a : BitVec 11) : FOp := { fo 20 (.s a) (.v 0) with guard := { prd := 0, pn := false }, c := 16 }
def actF (i : Instr) (s : State) (g : Group) (o : FOp) : Prop := ActsF i s 0 g fr o 0
theorem witness_ArmAndPush : ActsF (.armac (tf 6)) (wld grM) 0 grM fr (tf 6) 0 ∧ (readS64 grM fr 6).toNat % 64 = 0
    ∧ (((wld grM).releaseNow 0 0).span 0 (grM.issuing fr (.armac (tf 6))) [0] permR (readS64 grM fr 6) 128).2.isOk = true
    ∧ (armBlkOf (zeros 128)).malformed false = true
    ∧ ActsF (.taskq (tf 6)) (wld grM) 0 grM fr (tf 6) 0
    ∧ (((wld grM).releaseNow 0 0).span 0 (grM.issuing fr (.taskq (tf 6))) [0] permR (readS64 grM fr 6) 64).2.isOk = true
    ∧ (wld grM).taskqStatus 0 0 (zeros 64) ≠ 0 := by
  refine ⟨⟨⟨rfl, ?_, ?_, ?_⟩, ?_, ?_, ?_, ?_, ?_⟩, ?_, ?_, ?_, ⟨⟨rfl, ?_, ?_, ?_⟩, ?_, ?_, ?_, ?_, ?_⟩, ?_, ?_⟩ <;> decide
/-- Memory that begins with an arm block: range 256 of 4 bytes, target 4, KIND 1, user interrupt; and one that pushes. -/
def wldArm (ctl : Nat) : State :=
  { wld grM with mem := Memory.writeN [] 0 (leBytes 8 256 ++ leBytes 8 4 ++ leBytes 8 4 ++ leBytes 4 ctl) }
def blkArm (ctl : Nat) : ArmBlk := armBlkOf (leBytes 8 256 ++ leBytes 8 4 ++ leBytes 8 4 ++ leBytes 4 ctl ++ zeros 100)
def locArm (ctl : Nat) : State × ArmLoc :=
  (wldArm ctl).armLocate (fun s tags need q => s.locate 0 (grM.issuing fr (.armac (tf 6))) tags need q) (blkArm ctl)
/-- An ARMAC of it passes, and no read of it waits. -/
def armSees (ctl : Nat) : Bool :=
  match ((wldArm ctl).releaseNow 0 0).span 0 (grM.issuing fr (.armac (tf 6))) [0] permR 0 128 with
  | (s1, .ok as) =>
    let r := (s1.engineReads 0 as).armLocate (fun s tags need q => s.locate 0 (grM.issuing fr (.armac (tf 6))) tags need q)
      (armBlkOf (s1.gather as))
    r.2.range.isNone && r.2.bar.isNone && !r.1.stall && !(armBlkOf (s1.gather as)).malformed false
  | _ => false
theorem witness_ArmAndPush_sees : armSees 13 = true ∧ (wldArm 13).stall = false := by decide +kernel
theorem witness_ArmAndPush_arms : ((wldArm 13).gather [0, 16, 24]) = [0, 4, 13] ∧ (blkArm 13).malformed false = false
    ∧ (locArm 13).2.range = none ∧ (locArm 13).2.bar = none ∧ (blkArm 13).badQueue (wldArm 13) 0 = false
    ∧ (blkArm 9).malformed false = false ∧ (locArm 9).2.range = none ∧ (locArm 9).2.bar = none
    ∧ (blkArm 9).badQueue (wldArm 9) 0 = true := by
  refine ⟨?_, ?_, ?_, ?_, ?_, ?_, ?_, ?_, ?_⟩ <;> decide
/-- An entry in a state, under generation 3; and a machine that holds it as entry 5. -/
def tg (state action : Nat) : Trig := { Trig.free with state := state, gen := 3, action := action, target := 300 }
def wldT (g : Group) (x : Trig) : State := { wld g with trigs := [(5, x)] }
/-- s6 holds the handle of entry 5 under generation 3. -/
def grHd : Group := { grM with regs := { grM.regs with s := [(6, 12293)] } }
theorem witness_DisarmAndRead : ActsF (.disarm (tf 6)) (wldT grHd (tg 1 3)) 0 grHd fr (tf 6) 0
    ∧ (wldT grHd (tg 1 3)).trigOf 0 (readS grHd fr 6).toNat = some (5, tg 1 3)
    ∧ ActsF (.acrd (tf 6)) (wldT grHd (tg 2 3)) 0 grHd fr (tf 6) 0
    ∧ (wldT grHd (tg 2 3)).trigOf 0 (readS grHd fr 6).toNat = some (5, tg 2 3)
    ∧ ActsF (.disarm (tf 8)) (wldT grHd (tg 1 3)) 0 grHd fr (tf 8) 0 ∧ (wldT grHd (tg 1 3)).trigOf 0 (readS grHd fr 8).toNat = none := by
  refine ⟨⟨⟨rfl, ?_, ?_, ?_⟩, ?_, ?_, ?_, ?_, ?_⟩, ?_, ⟨⟨rfl, ?_, ?_, ?_⟩, ?_, ?_, ?_, ?_, ?_⟩, ?_,
    ⟨⟨rfl, ?_, ?_, ?_⟩, ?_, ?_, ?_, ?_, ?_⟩, ?_⟩ <;> decide
def tgCount (n first : Nat) : Trig := { tg 1 3 with unsent := [(0, (n, first))] }
theorem witness_CountsTravel : Tab.find ((wldT gr (tgCount 255 0)).trig 5).unsent 0 = some (255, 0)
    ∧ ((wldT gr (tgCount 255 0)).trig 5).state = 1 ∧ 255 < 256 ∧ (wldT gr (tgCount 255 0)).clock < 0 + 128
    ∧ Tab.find ((wldT gr (tgCount 256 0)).trig 5).unsent 0 = some (256, 0) ∧ 256 ≤ 256
    ∧ ({ wldT gr (tg 1 3) with counts := [{ entry := 5, gen := 3, bytes := 300 }] } : State).counts[0]?
        = some { entry := 5, gen := 3, bytes := 300 }
    ∧ ((wldT gr (tg 1 3)).trig 5).gen = 3 ∧ ((wldT gr (tg 3 3)).trig 5).state ≠ 1 := by
  refine ⟨rfl, rfl, ?_, ?_, rfl, ?_, rfl, rfl, ?_⟩ <;> decide
/-- A bound task queue of 2 slots with its records. -/
def tq (recs : List (Nat × Nat × List Byte)) : TaskQ :=
  { TaskQ.unbound with bound := true, slots := 2, tail := recs.length, recs := recs, ring := 0x9000 }
def wldQ (x : Trig) (recs : List (Nat × Nat × List Byte)) : State :=
  { wldT gr x with taskqs := [(0, tq recs)], slices := [(0, slMiss)] }
theorem witness_ActionsRun : (wldQ (tg 2 1) []).trig 5 = tg 2 1 ∧ (wldQ (tg 2 1) []).wakeFor 0 0 = none
    ∧ (wldQ (tg 2 1) []).plat.bad = [] ∧ isStore (tg 2 1).bar = false
    ∧ (wldQ (tg 2 1) []).homeSlice (128 * ((tg 2 1).bar / 128)) = some 0
    ∧ ((wldQ (tg 2 1) []).storeLine 0 ((tg 2 1).bar / 128)).isSome = true ∧ Memory.wf (wldQ (tg 2 1) []).mem = true
    ∧ ((wldQ (tg 2 2) []).taskq 0).bound = true ∧ ((wldQ (tg 2 2) []).taskq 0).tenant = (tg 2 2).tenant
    ∧ ((wldQ (tg 2 2) []).taskq 0).full = false ∧ ((wldQ (tg 2 2) [(0, 0, []), (1, 1, [])]).taskq 0).full = true
    ∧ ({ tg 2 3 with ui := .group 0 } : Trig).ui = .group 0 ∧ (wldQ (tg 2 3) []).group 0 = some gr ∧ gr.uid = 0
    ∧ (wldQ (tg 2 3) []).held = [] ∧ gr.trap.uipend = false ∧ ((wldQ (tg 2 3) []).trig 5).action ≠ 1
    ∧ (tg 2 1).bar % 8 = 0 ∧ isStore ((tg 2 1).bar + 8) = false ∧ (wldQ (tg 2 1) []).flipping (tg 2 1).bar = false
    ∧ (wldQ (tg 2 1) []).reached (tg 2 1).bar = true := by
  refine ⟨rfl, ?_, rfl, ?_, ?_, ?_, ?_, rfl, rfl, ?_, ?_, rfl, rfl, rfl, rfl, rfl, ?_, ?_, ?_, ?_, ?_⟩ <;> decide +kernel
/-- An ASID table at 1000H and a page table whose first GiB is mapped to itself with every permission. -/
def pageTab : Memory :=
  [(0x1000, 0x01), (0x1001, 0x20), (0x2000, 0x01), (0x2001, 0x30), (0x3000, 0x01), (0x3001, 0x40), (0x4000, 0x1F)]
/-- A task's code object header: entry and text at 256, 8 bytes, a budget of 8 registers. -/
def taskHdr : List Byte :=
  leBytes 4 0x4F495647 ++ leBytes 2 0x100 ++ leBytes 2 256 ++ leBytes 4 1 ++ [1, 0] ++ leBytes 2 1 ++ zeros 16 ++ leBytes 8 256
    ++ leBytes 8 256 ++ leBytes 8 8 ++ zeros 16 ++ zeros 8 ++ leBytes 4 0xFFFFFFFF ++ zeros 4 ++ leBytes 4 0xFFFFFFFF
/-- A record of the task whose object is at 8000H. -/
def taskRec : List Byte := leBytes 8 0x8000 ++ zeros 56
/-- A machine with a bound task queue that holds that record, in partition 0 of cluster 0. -/
def wldTask : State :=
  { wldQ (tg 3 1) [(0, 0, taskRec)] with
    mem := Memory.writeN (Memory.writeN pageTab 0x8000 taskHdr) 0x9000 taskRec
    fe := { FrontEnd.reset with iregions := [(0, 1)], asidTab := 0x1000 }
    parts := [(0, { PartSt.empty with cfg := 1 + 2 ^ 66 })], groups := [], teams := [] }
/-- The same machine with an empty queue and the entry about to push. -/
def wldPush : State := { wldTask with trigs := [(5, tg 2 2)], taskqs := [(0, tq [])] }
theorem witness_ActionsRun_push : wldPush.trig 5 = tg 2 2 ∧ (wldPush.taskq 0).full = false
    ∧ (wldPush.pushTask 0 (tg 2 2).record).stall = wldPush.stall := by decide +kernel
def headRec : Head := { prio := 0, order := 0, queue := 0, slot := 0, bytes := taskRec }
/-- The code object as the dispatcher reads it. -/
def objRead : State × Except Nat CodeObj :=
  (wldTask.queuedTask (wldTask.taskq 0) 0 taskRec).1.readObj 0 0 (BitVec.ofNat 64 (fieldAt taskRec 0 8))
theorem witness_TasksDispatched : wldTask.heldTasks 0 = [] ∧ wldTask.heads 0 = [headRec]
    ∧ (wldTask.queuedTask (wldTask.taskq 0) 0 taskRec).2 = taskRec
    ∧ (objRead.2.toOption.map fun o => (o.kind, o.vbudget, o.entry)) = some (1, 1, 256)
    ∧ objRead.1.leastCore (objRead.1.partCores 0) (objRead.1.taskFits 8) = some 0 ∧ objRead.1.freeSlot 0 = some 0
    ∧ objRead.1.stall = wldTask.stall := by
  decide +kernel
/-- The same machine without the code object. -/
def wldNoObj : State := { wldTask with mem := Memory.writeN pageTab 0x9000 taskRec }
theorem witness_TasksDispatched_refused : wldNoObj.heads 0 = [headRec]
    ∧ (wldNoObj.queuedTask (wldNoObj.taskq 0) 0 taskRec).2 = taskRec
    ∧ ((wldNoObj.queuedTask (wldNoObj.taskq 0) 0 taskRec).1.readObj 0 0 0x8000).2.toOption = none := by
  decide +kernel

/-! ## Witnesses: slalom mode -/

/-- A code object of budget 64, entry 0, code at 0; two segments at 0 and 64. -/
def obj : CodeObj :=
  { kind := 2, nargs := 0, prio := 0, vbudget := 8, features := 0, entry := 0, textOff := 0, textSize := 128, scratch := 0, guard := 0
    ringOff := noOff, ringEntries := 0, ctableOff := noOff, segTab := 0x100, segCount := 2, roles := [] }
def sl (segs : List Segment) : SlalomSt :=
  { cores := [0, 1], segs := segs, mapGen := 0, spill := none, spillFwd := [], cmap := [], launchNext := 0, code := [(64, 5)], lost := false
    started := true }
def segA : Segment := { off := 0, len := 64, cores := [0], live := [0, 0, 0, 0] }
def segB : Segment := { off := 64, len := 64, cores := [1], live := [0, 0, 0, 0] }
def gridS (segs : List Segment) : Grid :=
  { gridid := 9, tenant := 0, asid := 0, part := 0, cls := 0, code := 0, obj := obj, sx := 4, sy := 1, sz := 1, args := [], hvec := 0
    place := none, order := 0, nextTeam := 0, live := 0, killed := 0, slalom := some (sl segs) }
/-- A leap unit that serves segment s with n records queued. -/
def lu (s n : Nat) : LeapSt :=
  { grid := 2, seg := some s, store := [], qhead := 7, qcount := n, repin := none, map := [[0], [1]], hints := [], fwd := [] }
/-- A machine whose cores 0 and 1 hold slalom grid 2, core 0 with unit l, with group 0 and scratchpad bytes. -/
def stS (g : Group) (l : LeapSt) (scr : Memory) : State :=
  { st g with
    grids := [(2, gridS [segA, segB])], tenants := [(0, ten)], scratch := scr
    cores := [(0, { CoreSt.empty with leap := some l }), (1, { CoreSt.empty with leap := some (lu 1 7) })] }
def grS : Group := { gr with unit := .slalom 2, lin := 3 }
theorem witness_LeapWords : AtIssue (.leap (fo 0 (.s 4) (.imm 6))) (stS grS (lu 0 0) []) 0 grS fr
    ∧ (stS grS (lu 0 0) []).grid 2 = some (gridS [segA, segB])
    ∧ (∀ l ∈ laneList (enabled grS fr .always), offTarget (fo 0 (.s 4) (.imm 6)) grS fr l = 64)
    ∧ ((gridS [segA, segB]).segOf 64).isSome = true ∧ liveOk ((List.range 4).map fun k => readS grS fr (4 + k)) 64 = true
    ∧ (gridS [segA, segB]).launchBudget = 64 ∧ enabled grS fr .always = liveLanes fr
    ∧ AtIssue (.leap (fo 0 (.s 4) (.imm 6))) (st gr) 0 gr fr ∧ (∀ n, gr.unit ≠ .slalom n)
    ∧ AtIssue (.leapReg (fo 0 (.s 4) (.s 2))) (st (grMask 4)) 0 (grMask 4) { fr with mask := 1 }
    ∧ (∃ l ∈ laneList (enabled (grMask 4) { fr with mask := 1 } .always),
        opB (grMask 4) { fr with mask := 1 } (fo 0 (.s 4) (.s 2)) .zext 2 l % 8 ≠ 0) := by
  refine ⟨⟨rfl, ?_, ?_, ?_⟩, rfl, ?_, ?_, ?_, ?_, ?_, ⟨rfl, ?_, ?_, ?_⟩, fun _ h => (by cases h), ⟨rfl, ?_, ?_, ?_⟩, ?_⟩ <;> decide +kernel
/-- SEND with its words in s16 and s17 and its payload at s2: 4 bytes to core 0 of the cluster. -/
def sf : FOp := { fo 20 (.s 2) (.v 0) with guard := { prd := 0, pn := false }, c := 16 }
def grSd (w0 : W32) : Group := { grM with regs := { grM.regs with s := [(2, 256), (3, 0x30000000), (16, w0)] } }
def kSend (payload : Option (List Byte)) : OpKind := .send 20 [0] 512 4 0x3000000000000100 true [(256, 4)] payload 0
def grSend (payload : Option (List Byte)) : Group :=
  { grM with flags := [(0, 1)], ops := [{ id := 4, flag := 0, kind := kSend payload }] }
/-- A ring of 2 slots at 512 with n messages in it. -/
def ringMem (n : Nat) : Memory := if n = 0 then [(520, 2)] else [(512, BitVec.ofNat 8 n), (520, 2)]
def stRing (g : Group) (n : Nat) : State := { wld g with scratch := ringMem n }
theorem witness_SendAndSegrep : AtIssue (.send sf) (wld (grSd 0)) 0 (grSd 0) fr ∧ enabled (grSd 0) fr sf.guard ≠ 0
    ∧ selFlag fr false = some 0 ∧ (grSd 0).flag 0 < 63 ∧ sendOk (readS (grSd 0) fr 16) (readS (grSd 0) fr 17) = false
    ∧ AtIssue (.send sf) (wld (grSd 0x204)) 0 (grSd 0x204) fr
    ∧ sendOk (readS (grSd 0x204) fr 16) (readS (grSd 0x204) fr 17) = true ∧ (readS64 (grSd 0x204) fr 2).toNat % 4 = 0
    ∧ ((wld (grSd 0x204)).sendSpan 0 ((grSd 0x204).issuing fr (.send sf)) (readS64 (grSd 0x204) fr 2) 4).2.isOk = true
    ∧ ((wld (grSd 0x204)).sendSpan 0 ((grSd 0x204).issuing fr (.send sf)) (readS64 (grSd 0x204) fr 2) 4).1.stall
      = (wld (grSd 0x204)).stall := by
  refine ⟨⟨rfl, ?_, ?_, ?_⟩, ?_, ?_, ?_, ?_, ⟨rfl, ?_, ?_, ?_⟩, ?_, ?_, ?_, ?_⟩ <;> decide
theorem witness_SendDeliver : (wld (grSend none)).group 0 = some (grSend none)
    ∧ (grSend none).op 4 = some { id := 4, flag := 0, kind := kSend none } ∧ (grSend none).opsBefore 4 = []
    ∧ (wld (grSend none)).dirtyLines 0 0 = [] ∧ (∀ a ∈ runAddrs [(256, 4)], (wld (grSend none)).guarded a = false)
    ∧ (grSend (some [1, 2, 3, 4])).op 4 = some { id := 4, flag := 0, kind := kSend (some [1, 2, 3, 4]) }
    ∧ Tab.wf (grSend (some [1, 2, 3, 4])).flags = true ∧ Memory.wf (ringMem 0) = true ∧ Memory.wf (ringMem 2) = true
    ∧ (wld (grSend (some [1, 2, 3, 4]))).ringSlots (grSend (some [1, 2, 3, 4])) 0 512 = none
    ∧ ((grSend (some [1, 2, 3, 4])).ops.all fun x => !x.spoil) = true ∧ (wld (grSend none)).plat.bad = [] := by
  refine ⟨rfl, rfl, ?_, ?_, ?_, rfl, ?_, ?_, ?_, ?_, rfl, rfl⟩ <;> decide +kernel
theorem witness_SendDeliver_ring :
    (stRing (grSend (some [1, 2, 3, 4])) 0).ringSlots (grSend (some [1, 2, 3, 4])) 0 512 = some 2
    ∧ leNat ((stRing (grSend (some [1, 2, 3, 4])) 0).bankRead 512 4) = 0
    ∧ leNat ((stRing (grSend (some [1, 2, 3, 4])) 2).bankRead 512 4) = 2
    ∧ leNat ((stRing (grSend (some [1, 2, 3, 4])) 2).bankRead 516 4) = 0
    ∧ (List.range 640).all (fun i => !(stRing gr 0).guarded (512 + i) && !(stRing gr 0).ringWord (512 + i)) = true
    ∧ (stRing gr 0).sendRings = [] := by
  decide +kernel
def grSr (seg core : Nat) : Group := { grS with flags := [(0, 1)], ops := [{ id := 4, flag := 0, kind := .segrep 20 seg core }] }
/-- The grid with core 0 in both lists, so that core 0 may leave segment A's for B's. -/
def gridT : Grid := gridS [{ segA with cores := [0, 1] }, segB]
theorem witness_Segrep : AtIssue (.segrep (fo 20 (.s 2) (.imm 1))) (stS grS (lu 0 0) []) 0 grS fr ∧ grS.unit = .slalom 2
    ∧ (stS (grSr 1 0) (lu 0 0) []).group 0 = some (grSr 1 0) ∧ (stS (grSr 1 0) (lu 0 0) []).grid 2 = some (gridS [segA, segB])
    ∧ (stS (grSr 1 0) (lu 0 0) []).segrepStatus (gridS [segA, segB]) 1 0 = 3
    ∧ ({ stS (grSr 1 0) (lu 0 0) [] with grids := [(2, gridT)] } : State).segrepStatus gridT 1 0 = 0
    ∧ ({ stS (grSr 1 0) (lu 0 0) [] with grids := [(2, gridT)] } : State).gridStopped 2 = false
    ∧ ((grSr 1 0).ops.all fun x => !x.spoil) = true ∧ Tab.wf (grSr 1 0).flags = true := by
  refine ⟨⟨rfl, ?_, ?_, ?_⟩, rfl, rfl, rfl, ?_, ?_, ?_, rfl, ?_⟩ <;> decide
def frDep : Frag := { fr with wait := .depart 64 (some [0, 0, 0, 0]) }
def grDep (n : Nat) : Group := { grS with frags := [frDep], flags := if n = 0 then [] else [(0, n)] }
theorem witness_FragmentsDepart : (stS (grDep 0) (lu 0 0) []).group 0 = some (grDep 0) ∧ (grDep 0).frag 0 = some frDep
    ∧ (stS (grDep 0) (lu 0 0) []).stopped (grDep 0) = false ∧ (gridS [segA, segB]).spill = none ∧ (grDep 1).flag 0 ≠ 0
    ∧ (grDep 0).ops = [] ∧ (∀ m < 12, (grDep 0).flag m = 0) ∧ (gridS [segA, segB]).segOf 64 = some 1
    ∧ (stS (grDep 0) (lu 0 0) []).dirtyLines 0 0 = []
    ∧ (stS (grDep 0) (lu 0 0) []).chooseCore (gridS [segA, segB]) 0 1 3 [] = some 1
    ∧ (stS (grDep 0) (lu 0 0) []).leap 1 = some (lu 1 7) ∧ (lu 1 7).qcount < 8 := by
  refine ⟨rfl, rfl, ?_, rfl, ?_, rfl, ?_, ?_, ?_, ?_, rfl, ?_⟩ <;> decide
theorem witness_RecordsArrive : LeapUnit (stS gr (lu 1 1) []) 0 (lu 1 1) (gridS [segA, segB]) ∧ 0 < (lu 1 1).qcount
    ∧ (lu 1 1).serves (recOf ((stS gr (lu 1 1) []).queued 0 (lu 1 1) 0)).seg = false
    ∧ (lu 0 1).serves (recOf ((stS gr (lu 0 1) []).queued 0 (lu 0 1) 0)).seg = true
    ∧ (recOf ((stS gr (lu 0 1) []).queued 0 (lu 0 1) 0)).src.testBit 8 = false
    ∧ (stS { gr with budget := 64 } (lu 0 1) []).freeSlot 0 = some 1
    ∧ (gridS [segA, segB]).launchBudget ≤ (stS { gr with budget := 64 } (lu 0 1) []).freeRegs 0
    ∧ 1 ≤ (stS { gr with budget := 64 } (lu 0 1) []).freeSlots 0
    ∧ (stS gr (lu 0 1) []).freeRegs 0 = 0 := by
  refine ⟨⟨rfl, rfl, ?_, ?_, rfl⟩, ?_, ?_, ?_, ?_, ?_, ?_, ?_, ?_⟩ <;> decide +kernel
/-- Core 0, which serves segment B, with a record of segment A and a map in which core 1 serves A. -/
def luFwd : LeapSt := { lu 1 1 with map := [[1], [0]] }
theorem witness_RecordForward : LeapUnit (stS gr luFwd []) 0 luFwd (gridS [segA, segB])
    ∧ luFwd.serves (recOf ((stS gr luFwd []).queued 0 luFwd 0)).seg = false
    ∧ (stS gr luFwd []).chooseCore (gridS [segA, segB]) 0 (recOf ((stS gr luFwd []).queued 0 luFwd 0)).seg
        (recOf ((stS gr luFwd []).queued 0 luFwd 0)).gid [0] = some 1 := by
  refine ⟨⟨rfl, rfl, ?_, ?_, rfl⟩, ?_, ?_⟩ <;> decide +kernel
theorem witness_LeapUnitsWork : (stS gr (lu 0 0) []).grid 2 = some (gridS [segA, segB])
    ∧ (gridS [segA, segB]).slalom = some (sl [segA, segB]) ∧ (stS gr (lu 0 0) []).gridStopped 2 = false
    ∧ (sl [segA, segB]).launchNext < 4 * 1 * 1 ∧ (gridS [segA, segB]).segOf 0 = some 0
    ∧ ((gridS [segA, segB]).segCores 0)[0 % 1]? = some 0 ∧ (stS gr (lu 0 0) []).leap 0 = some (lu 0 0) ∧ (lu 0 0).qcount < 8
    ∧ 0 ∈ (gridS [segA, segB]).cores ∧ (stS gr { lu 0 0 with repin := some 1 } []).leap 0 = some { lu 0 0 with repin := some 1 }
    ∧ ({ stS gr { lu 0 0 with repin := some 1 } [] with groups := [] } : State).groupsOn 0 = []
    ∧ (stS gr { lu 0 0 with repin := some 1 } []).depth (gridS [segA, segB]) 0 = 0 := by
  refine ⟨rfl, rfl, ?_, ?_, ?_, ?_, rfl, ?_, ?_, rfl, rfl, ?_⟩ <;> decide

/-! ## Witnesses: the copy engine -/

/-- A command of one row of 16 bytes between bytes 512 and 1024 of the cluster scratchpad, at a stage, with extra bits of W0. -/
def cmd (op : Nat) (extra : Nat) (stage : CopyStage) : CopyCmd :=
  { tk := 0, index := 3, w0 := BitVec.ofNat 64 (op + extra + 2 ^ 32 + 16 * 2 ^ 48), w1 := 0x4000000000000200, w2 := 0x4000000000000400
    w3 := 0, shape := [], idx := [], valueDesc := none, stage := stage, counted := 16, held := [], seen := [], wrote := [] }
/-- A team with a ring of 4 entries at 1024, a completion table at 2048, and 4 KiB of scratchpad. -/
def tmC : Team :=
  { tm with size := 4096, guardFront := (0, 128), ctable := some 2048,
            ring := some { off := 1024, entries := 4, cons := 0, erridx := 0, prod := 0, bad := false, touched := false } }
def stC (c : CopyCmd) : State :=
  { wld gr with teams := [(0, tmC)], clusters := [(0, { ClusterSt.empty with copies := [(7, c)] })] }
theorem witness_RowsMove : rowWord 0 7 1 = some (.copy 0 7) ∧ Copying (stC (cmd 1 0 (.running 0))) 0 7 (cmd 1 0 (.running 0)) tmC
    ∧ (cmd 1 0 (.running 0)).cmd = 1
    ∧ (rowSource (stC (cmd 1 0 (.running 0))) (cmd 1 0 (.running 0)) tmC 0).2.toOption
        = some ((List.range 16).map fun i => 2 ^ 62 + 512 + i)
    ∧ ((stC (cmd 1 0 (.running 0))).destSpans 0 tmC ((cmd 1 0 (.running 0)).rowDests 0)).2.toOption
        = some ((List.range 16).map fun i => 2 ^ 62 + 1024 + i)
    ∧ ((List.range 16).map fun i => 2 ^ 62 + 1024 + i).Nodup
    ∧ (rowSource (stC { cmd 1 0 (.running 0) with w1 := 0x4000000000002000 }) { cmd 1 0 (.running 0) with w1 := 0x4000000000002000 } tmC
        0).2.toOption = none
    ∧ ((stC (cmd 1 0 (.running 0))).destSpans 0 tmC
        (({ cmd 1 0 (.running 0) with w2 := 0x4000000000002000 } : CopyCmd).rowDests 0)).2.toOption = none
    ∧ ({ cmd 6 0 (.running 0) with idx := [nullIndex] } : CopyCmd).rowSrc 0 = .skip := by
  refine ⟨rfl, ⟨rfl, rfl, ?_⟩, ?_, ?_, ?_, ?_, ?_, ?_, rfl⟩ <;> decide +kernel
theorem witness_RowsMove_rest : SoundMemory (stC (cmd 1 0 (.running 0))) ∧ NoPeerLines (stC (cmd 1 0 (.running 0)))
    ∧ (stC (cmd 1 0 (.running 0))).wakeAny 0 [] = none
    ∧ ((List.range 16).all fun i => !(stC (cmd 1 0 (.running 0))).guarded (1536 + i)
        && !(stC (cmd 1 0 (.running 0))).ringWord (1536 + i)) = true
    ∧ (cmd 1 0 (.running 0)).rowOut (rowRead (stC (cmd 1 0 (.running 0))) (cmd 1 0 (.running 0)) 0
        ((List.range 16).map fun i => 2 ^ 62 + 512 + i)) = (zeros 16).map some
    ∧ (cmd 1 0 (.running 0)).isWhole = false ∧ (cmd 1 512 (.running 0)).isWhole = true
    ∧ (stC (cmd 1 0 (.running 0))).sendRings = [] ∧ NoSpill (stC (cmd 1 0 (.running 0)))
    ∧ (stC (cmd 1 0 (.running 0))).fe.flip = none
    ∧ ((stC (cmd 1 0 (.running 0))).engineReads 0 []).stall = (stC (cmd 1 0 (.running 0))).stall
    ∧ (stC (cmd 1 0 (.running 0))).laterSrc tmC (cmd 1 0 (.running 0)) 0 = []
    ∧ (rowSource (stC (cmd 1 0 (.running 0))) (cmd 1 0 (.running 0)) tmC 0).1.stall = (stC (cmd 1 0 (.running 0))).stall
    ∧ (rowSource (stC { cmd 1 0 (.running 0) with w1 := 0x4000000000002000 }) { cmd 1 0 (.running 0) with w1 := 0x4000000000002000 } tmC
        0).1.stall = false
    ∧ ((stC (cmd 1 0 (.running 0))).destSpans 0 tmC
        (({ cmd 1 0 (.running 0) with w2 := 0x4000000000002000 } : CopyCmd).rowDests 0)).1.stall = false := by
  refine ⟨⟨rfl, rfl, ?_, ?_, ?_⟩, fun n l h => ?_, ?_, ?_, ?_, ?_, ?_, rfl, (by unfold NoSpill; decide), rfl, ?_, ?_, ?_, ?_, ?_⟩
  case refine_4 =>
    have e : ((stC (cmd 1 0 (.running 0))).slice n).lines = [] := rfl
    rw [e] at h; cases h
  all_goals decide +kernel
/-- XPOSEQ of 2 by 2 elements of 4 bytes in store space. -/
def xpq : CopyCmd :=
  { cmd 8 0 (.running 0) with
    w0 := BitVec.ofNat 64 (8 + 2 * 2 ^ 32 + 8 * 2 ^ 48), w1 := 0x1000000000000000, w2 := 0x1000000000000080,
    w3 := BitVec.ofNat 64 (64 + 4 * 2 ^ 32 + 2 * 2 ^ 48) }
def xpqShape : Machine.Shape :=
  { es := 2 ^ xpq.esz, rows := xpq.rows, cols := xpq.rowBytes / 2 ^ xpq.esz, spitch := xpq.spitch, dpitch := xpq.dpitch }
theorem witness_WholesMove : Copying (stC xpq) 0 7 xpq tmC ∧ xpq.cmd = 8 ∧ xpq.stage = .running 0
    ∧ (∀ e ∈ xpqShape.elems, ∀ i < 4,
        ((stC xpq).storeAt 0 ((xpqShape.elemPtrs xpq.w1 xpq.w2 e).1 + BitVec.ofNat 64 i)).toOption = some ((xpAt e).1 + i)
        ∧ ((stC xpq).storeAt 0 ((xpqShape.elemPtrs xpq.w1 xpq.w2 e).2 + BitVec.ofNat 64 i)).toOption = some ((xpAt e).2 + i)
        ∧ (stC xpq).wakeFor 0 ((xpAt e).1 + i) = none ∧ (stC xpq).wakeFor 0 ((xpAt e).2 + i) = none)
    ∧ NoSpill (stC xpq)
    ∧ (∀ e ∈ xpqShape.elems, ∀ e' ∈ xpqShape.elems, ∀ i < 4, ∀ j < 4, (xpAt e).2 + i ≠ (xpAt e').1 + j
        ∧ (e ≠ e' → (xpAt e).2 + i ≠ (xpAt e').2 + j)) ∧ xpqShape.elems.length = 4 := by
  refine ⟨⟨rfl, rfl, ?_⟩, ?_, rfl, ?_, (by unfold NoSpill; decide), ?_, ?_⟩ <;> decide +kernel
def whole : CopyCmd := { cmd 1 512 .whole with held := [(0, 5), (2 ^ 60 + 2 ^ 23, 6)] }
theorem witness_WholesMove_apply : Tab.find ((stC whole).cluster 0).copies 7 = some whole ∧ (stC whole).team 0 = some tmC
    ∧ whole.stage = .whole ∧ (∀ w ∈ whole.held, isScratch w.1 = false ∧ (isStore w.1 = true ∨ tierOf w.1 ≠ 2))
    ∧ (whole.held.map fun w => w.1).Nodup ∧ (stC whole).wakeAny 0 (whole.held.map fun w => w.1) = none
    ∧ (∀ die l, ((stC whole).layer die l).target ≠ 2) ∧ NoSpill (stC whole) ∧ (∀ w ∈ whole.held, (stC whole).flipping w.1 = false) := by
  refine ⟨rfl, rfl, rfl, ?_, ?_, ?_, fun die l => ?_, (by unfold NoSpill; decide), ?_⟩
  case refine_4 =>
    have e : (stC whole).die die = DieSt.empty := rfl
    unfold State.layer; rw [e]; split <;> decide
  all_goals decide +kernel
theorem witness_CopiesComplete : Copying (stC (cmd 1 0 .delivered)) 0 7 (cmd 1 0 .delivered) tmC
    ∧ Tab.wf ((stC (cmd 1 0 .delivered)).cluster 0).copies = true ∧ (cmd 1 0 .delivered).cmode = 0 ∧ (cmd 1 0 .delivered).ui = false
    ∧ (cmd 9 (2 ^ 22) .delivered).cmode = 1 ∧ (cmd 9 (2 ^ 22) .delivered).cmd = 9 ∧ tmC.ctable = some 2048
    ∧ ((List.range 8).all fun j => !(stC (cmd 9 (2 ^ 22) .delivered)).guarded (2048 + j)
        && !(stC (cmd 9 (2 ^ 22) .delivered)).ringWord (2048 + j)) = true
    ∧ (cmd 10 (2 ^ 23) .delivered).cmode = 2 ∧ (cmd 10 (2 ^ 23) .delivered).cores = []
    ∧ ((List.range 4).all fun j => (stC (cmd 10 (2 ^ 23) .delivered)).mayReach 0 (.team 0) (256 + j)
        && !(stC (cmd 10 (2 ^ 23) .delivered)).guarded (256 + j) && !(stC (cmd 10 (2 ^ 23) .delivered)).ringWord (256 + j)) = true
    ∧ (cmd 10 256 .delivered).ui = true ∧ (stC (cmd 10 256 .delivered)).group 0 = some gr ∧ gr.unit = .team 0
    ∧ gr.gnum = (cmd 10 256 .delivered).uigrp := by
  refine ⟨⟨rfl, rfl, ?_⟩, ?_, ?_, ?_, ?_, ?_, rfl, ?_, ?_, ?_, ?_, ?_, rfl, rfl, ?_⟩ <;> decide +kernel
/-- A ring with n entries published in scratchpad, as the engine last read p of them. -/
def stRg (n : Nat) (p : W32) (r : RingState → RingState) : State :=
  { wld gr with
    scratch := Memory.writeN [] 1024 [BitVec.ofNat 8 n]
    teams := [(0, { tmC with ring := tmC.ring.map fun x => r { x with prod := p } })] }
theorem witness_RingsRun_touched :
    (tmC.ring.map fun r => r.touched) = some false ∧ ((stRg 1 1 fun r => { r with touched := true }).team 0).isSome = true
    ∧ (stRg 1 1 id).ringNext 0 = true ∧ (stRg 1 1 id).shapeWait 0 tmC (copyOf 0 0 ((stRg 1 1 id).bankRead (entryKey 0 tmC
        { off := 1024, entries := 4, cons := 0, erridx := 0, prod := 1, bad := false, touched := false } 0) 32)) = none
    ∧ ((stRg 1 1 id).takeChecks 0 tmC (copyOf 0 0 ((stRg 1 1 id).bankRead (entryKey 0 tmC
        { off := 1024, entries := 4, cons := 0, erridx := 0, prod := 1, bad := false, touched := false } 0) 32))).1.stall
      = (stRg 1 1 id).stall := by
  refine ⟨rfl, rfl, ?_, ?_, ?_⟩ <;> decide +kernel
theorem witness_RingsRun : (stRg 1 1 id).team 0 = some { tmC with ring := tmC.ring.map fun x => { x with prod := 1 } }
    ∧ BitVec.ofNat 32 (leNat ((stRg 1 1 id).bankRead (teamKey 0 tmC + 1024) 4)) = 1
    ∧ BitVec.ofNat 32 (leNat ((stRg 9 1 id).bankRead (teamKey 0 tmC + 1024) 4)) ≠ 1
    ∧ (stRg 1 1 id).teamStopped 0 = false ∧ ((stRg 1 1 id).inFlight 0).length < 4
    ∧ ((stRg 1 1 id).cluster 0).copies.length < 16
    ∧ ((stRg 1 1 id).takeChecks 0 tmC (copyOf 0 0 ((stRg 1 1 id).bankRead (entryKey 0 tmC
        { off := 1024, entries := 4, cons := 0, erridx := 0, prod := 1, bad := false, touched := false } 0) 32))).2.toOption = none
    ∧ ((stRg 1 1 id).takeChecks 0 tmC (cmd 1 0 (.running 0))).2.toOption.isSome = true := by
  refine ⟨rfl, ?_, ?_, ?_, ?_, ?_, ?_, ?_⟩ <;> decide +kernel

/-! ## Witnesses: units -/

/-- A group whose last fragment has gone; a team and a grid with nothing left. -/
def grEnd : Group := { gr with frags := [], exited := allLanes }
def gridE (live : Nat) : Grid := { gridS [] with obj := { obj with kind := 0 }, slalom := none, sx := 1, nextTeam := 1, live := live }
def stE (live : Nat) : State := { stT grEnd with teams := [(0, { tm with live := live, grid := 2 })], grids := [(2, gridE live)] }
theorem witness_UnitsEnd : (stE 1).group 0 = some grEnd ∧ (stE 1).retired grEnd = true ∧ Tab.wf (stE 1).groups = true
    ∧ (stT gr).retired gr = false ∧ (stE 0).team 0 = some { tm with live := 0, grid := 2 }
    ∧ (stE 0).ringDone 0 { tm with live := 0, grid := 2 } = true ∧ (stE 0).teamStopped 0 = false ∧ Tab.wf (stE 0).teams = true
    ∧ (stE 1).grid 2 = some (gridE 1) ∧ (stE 1).gridDone 2 (gridE 1) = false
    ∧ ({ stE 0 with groups := [], teams := [] } : State).gridDone 2 (gridE 0) = true
    ∧ (groupRetire (stE 1) 0).stall = (stE 1).stall ∧ ((stE 0).ownersFrom (teamComplete (stE 0) 0)).stall = (stE 0).stall
    ∧ Tab.wf (stE 0).grids = true
    ∧ (({ stE 0 with groups := [], teams := [] } : State).ownersFrom (gridComplete { stE 0 with groups := [], teams := [] } 2)).stall
      = ({ stE 0 with groups := [], teams := [] } : State).stall := by
  refine ⟨rfl, ?_, ?_, ?_, rfl, ?_, ?_, ?_, rfl, ?_, ?_, ?_, ?_, ?_, ?_⟩ <;> decide +kernel
/-- A task's end with its status word at 9800H. -/
def tinfo : TaskInfo := { queue := 0, succ32 := false, succ := 0, statAddr := 0x9800, retries := 0, code := 0x8000 }
theorem witness_TaskStatusWritten : tinfo.statAddr ≠ 0 ∧ tinfo.succ = 0
    ∧ (wldTask.locateFe 0 0 [0] permW tinfo.statAddr).2.toOption = some 0x9800
    ∧ isStore (0x9800 + 4) = false ∧ tierOf (0x9800 / 128 * 128) ≠ 2 ∧ 0x9800 % 4 = 0
    ∧ Memory.wf wldTask.mem = true ∧ NoSpill wldTask
    ∧ (wldTask.locateFe 0 0 [0] permW tinfo.statAddr).1.fe.flip = none := by
  refine ⟨?_, rfl, ?_, ?_, ?_, ?_, ?_, (by unfold NoSpill; decide), ?_⟩ <;> decide +kernel
def killOf (u : UnitRef) : Kill :=
  { unit := u, tenant := 0, part := 0, grid := 2, lin := 0, core := 0, cause := 3, epc := 0, eaddr := 0, einfo := 0, packet := none }
def stKill (g : Group) : State := { stE 1 with groups := [(0, g)], kills := [killOf (.team 0)] }
theorem witness_KilledUnitsEnd : (stKill gr).kills[0]? = some (killOf (.team 0))
    ∧ ((stKill gr).withdraw (.team 0)).drained (.team 0) = true ∧ (stKill gr).team 0 = some { tm with live := 1, grid := 2 }
    ∧ Tab.wf (stKill gr).teams = true ∧ (∀ c ∈ (stKill gr).captures, c.unit ≠ .team 0)
    ∧ ((stKill grFc).withdraw (.team 0)).drained (.team 0) = false
    ∧ ((stKill gr).ownersFrom (killDrained (stKill gr) 0)).stall = (stKill gr).stall
    ∧ (∀ y ∈ (stKill gr).groups, ∀ f ∈ y.2.frags, f.wait = .none) := by
  refine ⟨rfl, ?_, rfl, ?_, ?_, ?_, ?_, ?_⟩ <;> decide +kernel
/-- A group that has slept since cycle 0, at clock 30,000 in the pool's core; and the same in the pool, due. -/
def grSl : Group := { grW (.sleep 90000) with trap := { gr.trap with uien := false } }
def stSl : State := { stT grSl with clock := 30000, tenants := [(0, ten)] }
def swp : Swapped := { core := 0, off := 0, group := { gr with budget := 64 }, due := some 0 }
def stSw : State := { stSl with groups := [], swapped := [swp] }
def slHbm (s : State) : State := { s with fe := { s.fe with saveBase := 0x100000 } }
theorem witness_SwapsHappen : (slHbm stSl).group 0 = some grSl ∧ (slHbm stSl).stopped grSl = false
    ∧ (slHbm stSl).swappable 0 grSl = true ∧ grSl.uiDue = false
    ∧ (swapOut (slHbm stSl) 0).stall = (slHbm stSl).stall ∧ Memory.wf (slHbm stSl).mem = true ∧ grSl.allFlagsClear = true ∧ grSl.ops = []
    ∧ (slHbm stSl).swapRoom (coreOf 0) grSl.budget = true ∧ Tab.wf (slHbm stSl).groups = true
    ∧ (stSw.swapped.find? fun x => x.group.uid == 0) = some swp ∧ stSw.freeSlot 0 = some 0 ∧ swp.due.isSome = true
    ∧ stSw.stopped swp.group = false ∧ stSw.mayReturn swp 0 = true ∧ stSw.nextDue swp = true ∧ stSw.fits 0 swp.group.budget = true
    ∧ ({ stSw with swapped := [{ swp with due := none }] } : State).group 0 = none := by
  refine ⟨rfl, ?_, ?_, ?_, ?_, ?_, ?_, rfl, ?_, ?_, rfl, ?_, rfl, ?_, ?_, ?_, ?_, ?_⟩ <;> decide +kernel
/-- A PREEMPT packet in flight, and team 0 in line to be captured for it. -/
def pkt (typ : Nat) (bs : List Byte) : Packet :=
  { queue := 0, index := 0, bytes := [BitVec.ofNat 8 typ, 0, 0, 0] ++ bs, cls := 0, asid := 0, tenant := 0, priv := false, taken := 0
    begun := false, value := 0, pending := 1 }
def cap : Capture := { unit := .team 0, image := 0x10000, first := 0x10000, park := true, queue := 0, packet := 0 }
def stCap : State := { stE 1 with groups := [(0, { gr with budget := 0 })], packets := [{ pkt 7 [] with begun := true }], captures := [cap] }
theorem witness_UnitsCaptured : stCap.captures[0]? = some cap
    ∧ stCap.packet cap.queue cap.packet = some { pkt 7 [] with begun := true } ∧ (∀ k ∈ stCap.kills, k.unit ≠ cap.unit)
    ∧ stCap.drained cap.unit = true ∧ (stCap.ownersFrom (preemptCapture stCap 0)).stall = stCap.stall ∧ stCap.team 0 = some { tm with live := 1, grid := 2 }
    ∧ Tab.wf stCap.teams = true
    ∧ ({ stCap with groups := [(0, grFc)] } : State).drained cap.unit = false := by
  refine ⟨rfl, rfl, ?_, ?_, ?_, rfl, ?_, ?_⟩ <;> decide +kernel

/-! ## Witnesses: host queues and packets -/

/-- A packet of a TYPE with TAG 7 and no CPL, with a body from offset 10H, as packet 0 of queue 0. -/
def pk (typ : Nat) (body : List Byte) : Packet :=
  { pkt typ (leBytes 4 7 ++ zeros 8 ++ body ++ zeros (48 - body.length)) with pending := 0 }
/-- A machine with page tables, a bound tenant, partition 0 and that packet in flight. -/
def wldP (p : Packet) : State :=
  { wldTask with packets := [p], fe := { wldTask.fe with saveBase := 0x100000 } }
theorem beginning_wldP (p : Packet) (typ : Nat) (hq : p.queue = 0) (hk : p.index = 0) (ht : p.typ = typ) (hb : p.begun = false) :
    Beginning (wldP p) 0 0 typ p :=
  ⟨by simp [State.packet, wldP, hq, hk], ht, by simp [State.mayBegin, wldP, hb]⟩
/-- Queue 0 of 16 packets at physical address A000H, with one packet not taken: a SIGNAL, or zeros, which is no packet. -/
def hq0 (tail : Nat) : HostQ := { cfg := BitVec.ofNat 256 (2 ^ 63 + 0xA000 + 16 * 2 ^ 64 + 2 ^ 123), head := 0, tail := tail }
def wldQ1 (b : List Byte) : State :=
  { wldTask with hostqs := [(0, hq0 1)], mem := Memory.writeN wldTask.mem 0xA000 b, nextUid := 1 }
theorem witness_PacketsTaken : wldTask.recovering = false ∧ ((wldQ1 [6]).hostq 0).valid = true
    ∧ ((3 : W32).toNat + 2 ^ 32 - ((wldQ1 [6]).hostq 0).head) % 2 ^ 32 ≤ ((wldQ1 [6]).hostq 0).entries
    ∧ ((wldQ1 [6]).hostq 0).entries < ((17 : W32).toNat + 2 ^ 32 - ((wldQ1 [6]).hostq 0).head) % 2 ^ 32
    ∧ (wldQ1 [6]).nextTake = some (0, 0, 0, hq0 1) ∧ (wldQ1 []).nextTake = some (0, 0, 0, hq0 1)
    ∧ wldTask.nextTake = none ∧ (wldQ1 [6]).plat.bad = [] ∧ (∀ l ∈ ((wldQ1 [6]).slice 0).lines, tierOf (128 * l.line) ≠ 2)
    ∧ (∀ x ∈ (wldQ1 [6]).packets, x.taken < (wldQ1 [6]).nextUid)
    ∧ (({ pk 6 [] with bytes := (busAddrs (2 ^ 63 + 0xA000) 64).map (wldQ1 [6]).readHome } : Packet)).ok = true
    ∧ (({ pk 6 [] with bytes := (busAddrs (2 ^ 63 + 0xA000) 64).map (wldQ1 []).readHome } : Packet)).ok = false
    ∧ (packetTake (wldQ1 [6])).stall = (wldQ1 [6]).stall ∧ (packetTake (wldQ1 [])).stall = (wldQ1 []).stall
    ∧ (∀ a ∈ busAddrs (2 ^ 63 + 0xA000) 64, isStore a = false ∧ tierOf a ≠ 2) := by
  refine ⟨rfl, ?_, ?_, ?_, ?_, ?_, ?_, rfl, ?_, ?_, ?_, ?_, ?_, ?_, ?_⟩ <;> decide +kernel
theorem slice_wldTask (n : Nat) : ∀ l ∈ (wldTask.slice n).lines, tierOf (128 * l.line) ≠ 2 := by
  have e : wldTask.slice n = if n = 0 then slMiss else SliceSt.empty := by
    by_cases h : n = 0
    · subst h; rfl
    · have h' : ¬ (0 = n) := fun e => h e.symm
      simp [State.slice, Tab.get, Tab.find, wldTask, wldQ, h, h']
  rw [e]; split <;> decide
theorem noPeer_wldTask : NoPeerLines wldTask := slice_wldTask
theorem sound_wldTask : SoundMemory wldTask := ⟨rfl, rfl, by decide +kernel, by decide +kernel, by decide +kernel⟩
/-- A packet whose completion word goes to B000H. -/
def pkCpl : Packet := pkt 6 (leBytes 4 7 ++ leBytes 8 0xB000 ++ zeros 48)
theorem witness_PacketsComplete : pkCpl.cpl ≠ 0 ∧ tagAligned pkCpl.cpl 8 = true
    ∧ (({ wldP pkCpl with packets := (wldP pkCpl).packets.filter fun x => x.taken != pkCpl.taken } : State).locateFe pkCpl.tenant
        pkCpl.asid [0] permW (BitVec.ofNat 64 pkCpl.cpl)).2.toOption = some 0xB000
    ∧ isStore (0xB000 + 8) = false ∧ tierOf (0xB000 / 128 * 128) ≠ 2 ∧ 0xB000 % 8 = 0 ∧ (wldP pkCpl).grids = []
    ∧ (wldP pkCpl).fe.flip = none := by decide +kernel
/-- TASKBIND of queue 5: ring C000H, 16 slots, partition 0; and its unbinding. -/
def pkBind (op : Nat) : Packet :=
  pk 2 (leBytes 8 0xC000 ++ leBytes 4 16 ++ leBytes 2 5 ++ [0, BitVec.ofNat 8 op] ++ leBytes 8 0xD000)
theorem witness_QueuesBound : Beginning (wldP (pkBind 0)) 0 0 2 (pkBind 0) ∧ (pkBind 0).unbinds = false
    ∧ ((wldP (pkBind 0)).taskq 5).bound = false ∧ ((wldP (pkBind 0)).partn 0).valid = true
    ∧ ((wldP (pkBind 0)).partn 0).tenant = (pkBind 0).tenant ∧ tagAligned ((pkBind 0).field 0x10 8) 4096 = true
    ∧ powerIn ((pkBind 0).field 0x18 4) 16 65536 = true ∧ Beginning (wldP (pkBind 1)) 0 0 2 (pkBind 1)
    ∧ (pkBind 1).unbinds = true ∧ ((wldP (pkBind 1)).taskq 5).bound = false ∧ ((wldP (pkBind 1)).taskq 0).bound = true
    ∧ ((wldP (pkBind 1)).taskq 0).recs ≠ [] := by
  refine ⟨beginning_wldP _ _ rfl rfl (by decide) rfl, ?_, ?_, ?_, ?_, ?_, ?_, beginning_wldP _ _ rfl rfl (by decide) rfl, ?_, ?_, ?_, ?_⟩
    <;> decide +kernel
/-- TASKBIND of queue q with ring a in partition p. -/
def pkBindQ (q p a : Nat) : Packet :=
  pk 2 (leBytes 8 a ++ leBytes 4 16 ++ leBytes 2 q ++ [BitVec.ofNat 8 p, 0] ++ leBytes 8 0xD000)
/-- No access of the binding, the refusals and the unbinding waits. -/
theorem witness_QueuesBound_cases :
    (∀ x ∈ [pkBindQ 5 0 0xC000, pkBindQ 0 0 0xC000, pkBindQ 5 1 0xC000, pkBindQ 5 0 0xC008],
      (bindRun (begunIn (wldP x) 0 0) { x with begun := true }).stall = (wldP x).stall)
    ∧ (unbindRun (begunIn (wldP (pkBind 1)) 0 0) { pkBind 1 with begun := true }).stall = (wldP (pkBind 1)).stall
    ∧ Beginning (wldP (pkBindQ 0 0 0xC000)) 0 0 2 (pkBindQ 0 0 0xC000) ∧ (pkBindQ 0 0 0xC000).taskQueue = 0
    ∧ ((wldP (pkBindQ 5 1 0xC000)).partn 1).valid = false ∧ (pkBindQ 5 1 0xC000).field 0x1E 1 = 1
    ∧ tagAligned ((pkBindQ 5 0 0xC008).field 0x10 8) 4096 = false := by
  refine ⟨?_, ?_, beginning_wldP _ _ rfl rfl (by decide) rfl, ?_, ?_, ?_, ?_⟩ <;> decide +kernel
/-- ARM with its block at B000H: range E000H of 4 bytes. -/
def pkArm (a : Nat) : Packet := pk 3 (leBytes 8 a)
def armBytes : List Byte := leBytes 8 0xE000 ++ leBytes 8 4 ++ leBytes 8 4 ++ leBytes 4 5
def wldPA (a : Nat) : State := { wldP (pkArm a) with mem := Memory.writeN wldTask.mem 0xB000 armBytes }
def armRead (a : Nat) : State × Except (W64 × AccFault) (List Byte) :=
  (begunIn (wldPA a) 0 0).readFe 0 0 [0] (BitVec.ofNat 64 a) 128
theorem witness_PacketArms : (wldPA 0xB000).packet 0 0 = some (pkArm 0xB000) ∧ (pkArm 0xB000).typ = 3
    ∧ (wldPA 0xB000).mayBegin (pkArm 0xB000) = true ∧ (armRead 0xB000).2.toOption = some (armBytes ++ zeros 100)
    ∧ ((armRead 0xB000).1.armLocate (fun s tags need x => s.locateFe 0 0 tags need x) (armBlkOf (armBytes ++ zeros 100))).2.range = none
    ∧ ((armRead 0xB000).1.armLocate (fun s tags need x => s.locateFe 0 0 tags need x) (armBlkOf (armBytes ++ zeros 100))).2.bar = none
    ∧ (armRead (2 ^ 40)).2.toOption = none
    ∧ (armRun (begunIn (wldPA 0xB000) 0 0) { pkArm 0xB000 with begun := true }).stall = (wldPA 0xB000).stall
    ∧ (armRun (begunIn (wldPA (2 ^ 40)) 0 0) { pkArm (2 ^ 40) with begun := true }).stall = (wldPA (2 ^ 40)).stall := by decide +kernel
/-- COPY of 12 bytes from B004H to C002H, with no counter and with one at D000H, and when it has moved n of them. -/
def pkCopy (ctr : Nat) : Packet := pk 4 (leBytes 8 0xB004 ++ leBytes 8 0xC002 ++ leBytes 8 12 ++ leBytes 8 ctr)
def pkMid (n ctr : Nat) : Packet := { pkCopy ctr with begun := true, value := n }
def locP (need : Nat) : State → List Nat → Nat → W64 → State × Except AccFault Nat := fun s tags _ x => s.locateFe 0 0 tags need x
theorem witness_PacketCopies : Beginning (wldP (pkCopy 0xD000)) 0 0 4 (pkCopy 0xD000)
    ∧ ((begunIn (wldP (pkCopy 0xD000)) 0 0).segsBy (locP permR) 0xB004 12).2.toOption = some [(0xB004, 12)]
    ∧ ((begunIn (wldP (pkCopy 0xD000)) 0 0).segsBy (locP permW) 0xC002 12).2.toOption = some [(0xC002, 12)]
    ∧ ((wldP (pkCopy 0xD000)).copyCtr (pkCopy 0xD000)).2.toOption = some (some 0xD000)
    ∧ ((wldP (pkMid 0 0)).spanFe 0 0 [0, 1] permR 0xB004 6).2.toOption = some ((List.range 6).map fun i => 0xB004 + i)
    ∧ ((wldP (pkMid 0 0)).spanFe 0 0 [0, 1] permW 0xC002 6).2.toOption = some ((List.range 6).map fun i => 0xC002 + i)
    ∧ (∀ i < 6, tierOf (0xB004 + i) ≠ 2 ∧ tierOf (0xC002 + i) ≠ 2) ∧ ((List.range 6).map fun i => 0xC002 + i).Nodup
    ∧ (pkMid 0 0).value ≠ (pkMid 0 0).copyLen ∧ (pkMid 12 0).value = (pkMid 12 0).copyLen ∧ (pkMid 12 0).field 0x28 8 = 0
    ∧ ((wldP (pkMid 12 0xD000)).copyCtr (pkMid 12 0xD000)).2.toOption = some (some 0xD000)
    ∧ ((begunIn (wldP (pkCopy 0xD000)) 0 0).copyCtr { pkCopy 0xD000 with begun := true }).1.stall = (wldP (pkCopy 0xD000)).stall
    ∧ (copyMove (wldP (pkMid 0 0)) (pkMid 0 0)).stall = (wldP (pkMid 0 0)).stall
    ∧ ((wldP (pkMid 12 0)).completePacket (pkMid 12 0) 0 0 (pkMid 12 0).tag).stall = (wldP (pkMid 12 0)).stall
    ∧ (copyPacketDone (wldP (pkMid 12 0xD000)) 0 0).stall = (wldP (pkMid 12 0xD000)).stall := by
  refine ⟨beginning_wldP _ _ rfl rfl (by decide) rfl, ?_, ?_, ?_, ?_, ?_, ?_, ?_, ?_, ?_, ?_, ?_, ?_, ?_, ?_, ?_⟩ <;> decide +kernel
/-- WAIT for the word at 8000H, which holds the code object's first 8 bytes, to reach n; with a limit of 1 in its unit. -/
def pkWait (n : Nat) : Packet := pk 5 (leBytes 8 0x8000 ++ leBytes 8 n ++ leBytes 4 1)
def pkWaiting (n since : Nat) : Packet := { pkWait n with begun := true, value := 0x8000, pending := since }
theorem witness_PacketWaits : Beginning (wldP (pkWait 1)) 0 0 5 (pkWait 1)
    ∧ ((begunIn (wldP (pkWait 1)) 0 0).locateFe 0 0 [0, 1] permR (BitVec.ofNat 64 ((pkWait 1).field 0x10 8))).2.toOption = some 0x8000
    ∧ (pkWait 1).field 0x18 8 ≤ (wldP (pkWait 1)).readHomeNat 0x8000 8
    ∧ (wldP (pkWait 1)).readHomeNat 0x8000 8 < (pkWait (2 ^ 63)).field 0x18 8
    ∧ (wldP (pkWaiting 1 0)).packet 0 0 = some (pkWaiting 1 0) ∧ (pkWaiting 1 0).typ = 5 ∧ (wldP (pkWaiting 1 0)).plat.bad = []
    ∧ (pkWaiting 1 0).limit = 1 ∧ ¬ (wldP (pkWaiting 1 0)).clock < 0 + 2250 * 0 ∧ (wldP (pkWaiting 1 0)).clock < 0 + 2250 * 1
    ∧ 0 + 2250 * 1 ≤ ({ wldP (pkWaiting 1 0) with clock := 2250 } : State).clock
    ∧ (waitBegin (begunIn (wldP (pkWait 1)) 0 0) { pkWait 1 with begun := true }).stall = (wldP (pkWait 1)).stall
    ∧ (waitTest (wldP (pkWaiting 1 0)) (pkWaiting 1 0)).stall = (wldP (pkWaiting 1 0)).stall
    ∧ (({ wldP (pkWaiting 1 0) with clock := 2250 } : State).completePacket (pkWaiting 1 0) 4 0 7).stall = false
    ∧ (∀ n < 8, isStore (0x8000 + n) = false ∧ tierOf (0x8000 + n) ≠ 2) := by
  refine ⟨beginning_wldP _ _ rfl rfl (by decide) rfl, ?_, ?_, ?_, rfl, ?_, rfl, ?_, ?_, ?_, ?_, ?_, ?_, ?_, ?_⟩ <;> decide +kernel
/-- SIGNAL: an add to B000H with vector 3; one with no address. -/
def pkSig (op a vec : Nat) : Packet := pk 6 (leBytes 8 a ++ leBytes 8 9 ++ leBytes 2 op ++ leBytes 2 vec)
theorem witness_PacketSignals : Beginning (wldP (pkSig 1 0xB000 3)) 0 0 6 (pkSig 1 0xB000 3)
    ∧ (pkSig 1 0xB000 3).field 0x10 8 ≠ 0 ∧ (pkSig 1 0xB000 3).field 0x20 2 = 1 ∧ (pkSig 2 0xB000 0xFFFF).field 0x22 2 = 0xFFFF
    ∧ ((begunIn (wldP (pkSig 1 0xB000 3)) 0 0).locateFe 0 0 [0, 1] (permR + permW) 0xB000).2.toOption = some 0xB000
    ∧ isStore (0xB000 + 8) = false ∧ tierOf (0xB000 / 128 * 128) ≠ 2 ∧ 0xB000 % 8 = 0
    ∧ Beginning (wldP (pkSig 0 0 3)) 0 0 6 (pkSig 0 0 3) ∧ (pkSig 0 0 3).field 0x10 8 = 0
    ∧ (signalRun (begunIn (wldP (pkSig 1 0xB000 3)) 0 0) { pkSig 1 0xB000 3 with begun := true }).stall = (wldP (pkSig 1 0xB000 3)).stall
    ∧ (signalRun (begunIn (wldP (pkSig 0 0 3)) 0 0) { pkSig 0 0 3 with begun := true }).stall = (wldP (pkSig 0 0 3)).stall := by
  refine ⟨beginning_wldP _ _ rfl rfl (by decide) rfl, ?_, ?_, ?_, ?_, ?_, ?_, ?_, beginning_wldP _ _ rfl rfl (by decide) rfl, ?_, ?_, ?_⟩
    <;> decide +kernel

/-! ## Witnesses: launch, resumption, admission, pre-emption -/

/-- The header of a team's object with one role of one group of 8 registers in units of 8; LAUNCH of it, one team, as GRIDID 7. -/
def teamHdr : List Byte :=
  leBytes 4 0x4F495647 ++ leBytes 2 0x100 ++ leBytes 2 256 ++ leBytes 4 0 ++ [1, 0] ++ leBytes 2 0 ++ zeros 16 ++ leBytes 8 256
    ++ leBytes 8 256 ++ leBytes 8 8 ++ zeros 16 ++ zeros 6 ++ [1, 1] ++ leBytes 4 0xFFFFFFFF ++ zeros 4 ++ leBytes 4 0xFFFFFFFF
    ++ zeros 36 ++ [1, 0] ++ leBytes 2 8 ++ leBytes 4 0xFFFFFFFF ++ zeros 120
def objT : Option CodeObj := (checkObj teamHdr).toOption
theorem objT_some : objT.isSome = true := by decide +kernel
/-- The object as its checks answer it. -/
def oT : CodeObj := objT.get objT_some
/-- LAUNCH of the object at 8000H, one team, GRIDID 7, partition 0, with no arguments named. -/
def pkLaunch (resume : Nat) : Packet :=
  pk 1 (leBytes 8 0x8000 ++ zeros 8 ++ [1, 0, 1, 0, 1, 0, 0, BitVec.ofNat 8 resume])
def wldL (p : Packet) : State := { wldP p with mem := Memory.writeN pageTab 0x8000 teamHdr }
def launchRead : State × Except (W64 × AccFault) (List Byte) :=
  (begunIn (wldL (pkLaunch 0)) 0 0).readFe 0 0 [0] 0x8000 256
def launchFormed : State := (launchRead.1.launchForm { pkLaunch 0 with begun := true } teamHdr).1
/-- LAUNCH of the same object with a PLACE field that it does not take; and of the task's object. -/
def pkPlace : Packet := pk 1 (leBytes 8 0x8000 ++ zeros 8 ++ [1, 0, 1, 0, 1, 0, 0, 0] ++ zeros 16 ++ leBytes 8 0x100)
theorem witness_GridsLaunched_checks : Beginning (wldP (pkLaunch 0)) 0 0 1 (pkLaunch 0)
    ∧ (wldL pkPlace).packet 0 0 = some pkPlace ∧ pkPlace.typ = 1 ∧ pkPlace.resume = false ∧ (wldL pkPlace).mayBegin pkPlace = true
    ∧ (begunIn (wldL pkPlace) 0 0).placeOk { pkPlace with begun := true } = false
    ∧ (launchRun (begunIn (wldL pkPlace) 0 0) { pkPlace with begun := true }).stall = (wldL pkPlace).stall
    ∧ (begunIn (wldP (pkLaunch 0)) 0 0).placeOk { pkLaunch 0 with begun := true } = true
    ∧ (((begunIn (wldP (pkLaunch 0)) 0 0).readFe 0 0 [0] 0x8000 256).2.toOption.map fun bs => (objOf bs).kind) = some 1
    ∧ (launchRun (begunIn (wldP (pkLaunch 0)) 0 0) { pkLaunch 0 with begun := true }).stall = (wldP (pkLaunch 0)).stall := by
  refine ⟨beginning_wldP _ _ rfl rfl (by decide) rfl, ?_, ?_, ?_, ?_, ?_, ?_, ?_, ?_, ?_⟩ <;> decide +kernel
theorem witness_GridsLaunched : (wldL (pkLaunch 0)).packet 0 0 = some (pkLaunch 0) ∧ (pkLaunch 0).typ = 1
    ∧ (wldL (pkLaunch 0)).mayBegin (pkLaunch 0) = true ∧ (pkLaunch 0).resume = false ∧ (pkLaunch 0).tag = 7
    ∧ ((wldL (pkLaunch 0)).grids.any fun g => g.2.gridid == (pkLaunch 0).tag && g.2.tenant == (pkLaunch 0).tenant) = false
    ∧ launchRead.2.toOption = some teamHdr ∧ (checkObj teamHdr).toOption = some oT ∧ oT.kind = 0
    ∧ (launchRead.1.launchForm { pkLaunch 0 with begun := true } teamHdr).2.toOption = some []
    ∧ (launchFormed.launchArgs { pkLaunch 0 with begun := true }).2.isOk = true
    ∧ (launchFormed.launchArgs { pkLaunch 0 with begun := true }).1.partLaunch 0 0 = true
    ∧ (launchFormed.launchArgs { pkLaunch 0 with begun := true }).1.partLaunch 1 0 = false
    ∧ (begunIn (wldL (pkLaunch 0)) 0 0).placeOk { pkLaunch 0 with begun := true } = true
    ∧ (launchRun (begunIn (wldL (pkLaunch 0)) 0 0) { pkLaunch 0 with begun := true }).stall = (wldL (pkLaunch 0)).stall
    ∧ (pkLaunch 0).place = false ∧ (pkLaunch 0).field 0x38 8 = 0 := by decide +kernel
/-- A RESUME of task groups whose image is at B000H, parked, with MAGIC and VERSION there. -/
def pkRes : Packet :=
  { pkt 1 (leBytes 4 0xFFFFFFFF ++ zeros 31 ++ [1] ++ leBytes 8 0xB000 ++ zeros 16) with pending := 0 }
def heldT : HeldUnit :=
  { grid := none, unit := 0, tenant := 0, asid := 0, part := 0, image := 0xB000, first := 0xB000, ready := false, packet := none
    map := [], groups := [], recs := [], begun := false }
def wldRes (hs : List HeldUnit) : State :=
  { wldL pkRes with held := hs, mem := Memory.writeN pageTab 0xB000 (leBytes 4 0x43545847 ++ leBytes 2 0x100) }
theorem witness_UnitsResumed : (wldRes [heldT]).packet 0 0 = some pkRes ∧ pkRes.typ = 1 ∧ (wldRes [heldT]).mayBegin pkRes = true
    ∧ pkRes.resume = true ∧ pkRes.tag = 0xFFFFFFFF ∧ (wldRes [heldT]).partLaunch pkRes.part pkRes.tenant = true
    ∧ ((begunIn (wldRes [heldT]) 0 0).parked 0 (pkRes.field 0x28 8) fun h => h.grid.isNone) = [heldT]
    ∧ (begunIn (wldRes [heldT]) 0 0).imageOk 0x43545847 heldT = true
    ∧ ((begunIn (wldRes []) 0 0).parked 0 (pkRes.field 0x28 8) fun h => h.grid.isNone) = []
    ∧ (resumeTasks (begunIn (wldRes [heldT]) 0 0) { pkRes with begun := true }).stall = (wldRes [heldT]).stall
    ∧ (resumeTasks (begunIn (wldRes []) 0 0) { pkRes with begun := true }).stall = (wldRes []).stall := by decide +kernel
/-- A grid of two teams of that object, none of them admitted; with its partition of cluster 0, and full of other teams. -/
def gridN : Grid := { gridE 0 with obj := oT, sx := 2, sy := 1, sz := 1, nextTeam := 0 }
def stAdm : State := { wldL (pkLaunch 0) with grids := [(2, gridN)], packets := [] }
def stFull : State := { stAdm with teams := (List.range 32).map fun k => (k, tm) }
theorem witness_TeamsAdmitted : stAdm.grids = [(2, gridN)] ∧ stAdm.firstHeld 2 = none ∧ gridN.part = 0 ∧ gridN.slalom = none
    ∧ gridN.nextTeam < gridN.total ∧ stAdm.teamCore gridN = some 0 ∧ stAdm.freeTeam 0 = some 0
    ∧ stFull.firstHeld 2 = none ∧ stFull.teamCore gridN = none ∧ stAdm.requeued 2 = []
    ∧ (stAdm.ownersFrom (teamAdmit stAdm 0)).stall = stAdm.stall := by
  refine ⟨rfl, rfl, rfl, rfl, ?_, ?_, ?_, rfl, ?_, rfl, ?_⟩ <;> decide +kernel
/-- A PREEMPT of GRIDID g's whole grid in a MODE, with its images at B000H and an area of n bytes. -/
def pkPre (g mode n : Nat) : Packet :=
  pk 7 (leBytes 8 0xB000 ++ leBytes 8 n ++ leBytes 4 g ++ leBytes 4 0 ++ [1, BitVec.ofNat 8 mode])
def stPre (g mode n : Nat) : State :=
  { wldL (pkPre g mode n) with
    grids := [(2, { gridE 1 with gridid := 7 })], groups := [(0, { gr with budget := 8 })], teams := [(0, { tm with live := 1, grid := 2 })] }
theorem witness_UnitsPreempted : (stPre 7 0 0x40000).packet 0 0 = some (pkPre 7 0 0x40000) ∧ (pkPre 7 0 0x40000).typ = 7
    ∧ (stPre 7 0 0x40000).mayBegin (pkPre 7 0 0x40000) = true ∧ (pkPre 7 0 0x40000).mode = 0 ∧ (pkPre 7 1 0).mode = 1 ∧ (pkPre 7 2 0).mode = 2
    ∧ ((begunIn (stPre 7 0 0x40000) 0 0).preemptUnits { pkPre 7 0 0x40000 with begun := true }).toOption = some [.team 0]
    ∧ ((begunIn (stPre 8 0 0) 0 0).preemptUnits { pkPre 8 0 0 with begun := true }).toOption = none
    ∧ (pkPre 7 0 0x40000).field 0x18 8 = 0x40000
    ∧ roundUp ((begunIn (stPre 7 0 0x40000) 0 0).imageLen (.team 0)) 4096 ≤ 0x40000
    ∧ 0 < roundUp ((begunIn (stPre 7 0 0x40000) 0 0).imageLen (.team 0)) 4096
    ∧ ((begunIn (stPre 7 0 0x40000) 0 0).spanFe 0 0 [0] permW 0xB000
        (roundUp ((begunIn (stPre 7 0 0x40000) 0 0).imageLen (.team 0)) 4096)).2.isOk = true
    ∧ (stPre 7 2 0).members (.team 0) ≠ []
    ∧ (preemptRun (begunIn (stPre 7 0 0x40000) 0 0) { pkPre 7 0 0x40000 with begun := true }).stall = (stPre 7 0 0x40000).stall
    ∧ (preemptRun (begunIn (stPre 7 1 0) 0 0) { pkPre 7 1 0 with begun := true }).stall = (stPre 7 1 0).stall
    ∧ (preemptRun (begunIn (stPre 7 2 0) 0 0) { pkPre 7 2 0 with begun := true }).stall = (stPre 7 2 0).stall
    ∧ (preemptRun (begunIn (stPre 8 0 0) 0 0) { pkPre 8 0 0 with begun := true }).stall = (stPre 8 0 0).stall := by
  refine ⟨rfl, ?_, ?_, ?_, ?_, ?_, ?_, ?_, ?_, ?_, ?_, ?_, ?_, ?_, ?_, ?_, ?_⟩ <;> decide +kernel

/-! ## Witnesses: ownership and configuration -/

/-- Reset, owned by master 1; with a lease of 1 ms; and with master 2 as the next owner. -/
def stMine : State := { State.reset with fe := { FrontEnd.reset with owner := 1 } }
def stLease (c : Nat) : State := { stMine with clock := c, fe := { stMine.fe with leaseMs := 1 } }
theorem witness_OwnershipPasses : (State.updPlat stMine fun p => { p with bootMode := 2 }).recovering = true ∧ stMine.recovering = false
    ∧ State.reset.fe.owner = 15 ∧ stMine.fe.owner = 1 ∧ stMine.fe.owner ≠ 2 ∧ stMine.fe.nextOwner ≠ 2 ∧ stMine.fe.owner ≠ 15
    ∧ ({ stMine with fe := { stMine.fe with nextOwner := 2 } } : State).fe.nextOwner = 2 ∧ stMine.fe.leaseMs = 0
    ∧ (stLease 5).clock < (stLease 5).fe.leaseFrom + 2250000 * (stLease 5).fe.leaseMs
    ∧ (stLease 2250000).fe.leaseFrom + 2250000 * (stLease 2250000).fe.leaseMs ≤ (stLease 2250000).clock
    ∧ (leaseExpire (stLease 2250000)).stall = (stLease 2250000).stall := by decide +kernel
/-- A TCFG block: table at PTAB, 64 fault-log entries at 10000H, 16 ASIDs, VALID; a QCFG block of 16 entries. -/
def tcfgV (ptab n : Nat) : BitVec 256 := BitVec.ofNat 256 (ptab + 0x10000 * 2 ^ 64 + n * 2 ^ 128 + 16 * 2 ^ 176 + 2 ^ 192)
def qcfgV (n : Nat) : BitVec 256 := BitVec.ofNat 256 (2 ^ 63 + 0xA000 + n * 2 ^ 64 + 2 ^ 123)
def qNew (n : Nat) : HostQ := { (wldTask.hostq 0) with cfg := qcfgV n }
theorem witness_ConfigurationWrites : OwnerOnly 2 (.tlbinvAll 2) ∧ stMine.isOwner 2 = false ∧ stMine.isOwner 1 = true
    ∧ (stMine.tenant 0).bound = false ∧ tcfgPad (tcfgV 0x20000 64) = true ∧ tcfgValid (tcfgV 0x20000 64) = true
    ∧ stMine.renewLease.tcfgOk 0 (tcfgV 0x20000 64) = true ∧ stMine.renewLease.tcfgOk 0 (tcfgV 0x20000 65) = false
    ∧ stMine.renewLease.readTable 0 (tcfgPtab (tcfgV 0x20000 64)) = some (0, [])
    ∧ ({ stMine with mem := [(0x20002, 9)] } : State).renewLease.readTable 0 0x20000 = none
    ∧ wldTask.renewLease.partRefusal 1 0 = 0 ∧ stMine.renewLease.partRefusal 0 (BitVec.ofNat 128 (1 + 2 ^ 66)) = 1
    ∧ (qNew 16).valid = true ∧ wldTask.qcfgOk (qNew 16) = true ∧ wldTask.qcfgOk (qNew 17) = false
    ∧ wldTask.renewLease.qcfgOk (qNew 16) = true ∧ ({ cfg := 0, head := 0, tail := 0 } : HostQ).valid = false := by
  refine ⟨?_, ?_, ?_, ?_, ?_, ?_, ?_, ?_, ?_, ?_, ?_, ?_, ?_, ?_, ?_, ?_, ?_⟩
  · exact .inr (.inr (.inr (.inr (.inl rfl))))
  all_goals decide +kernel
theorem witness_RegistersWritten : (4 ≤ 5 ∨ 0x88 % 4 ≠ 0) ∧ 0x88 < 2 ^ 26 ∧ 0x88 % 4 = 0 ∧ 0x88 ≠ 0 ∧ ¬ (0x140 ≤ 0x88 ∧ 0x88 < 0x168)
    ∧ Machine.ownerReg 0x88 = true ∧ stMine.isOwner 2 = false ∧ stMine.recovering = false ∧ stMine.isOwner 1 = true := by decide +kernel

/-! ## Witnesses: translation, migration, bias -/

/-- The first GiB as the page tables map it. -/
def tlbG : TlbEntry := { asid := 0, va := 0, pa := 0, size := 2 ^ 30, perms := 7, tier := 0 }
theorem walk_wldTask : WalksTo wldTask 0 (5 * 4096) tlbG 4 (0x2001 / 2 ^ 12 % 2 ^ 40 * 4096) := by
  refine .inr ⟨?_, ?_, ?_, ?_, ?_, ?_, ?_, .inr ⟨?_, ?_, ?_, ?_, ?_, ?_, ?_,
    .inl ⟨?_, ?_, ?_, ?_, ?_, ?_, ?_, rfl, ?_, ?_, ?_, ?_, ?_, .inl ?_⟩⟩⟩
    <;> decide +kernel
theorem witness_PagesWalked : wldTask.tenantOfAsid 0 = some 0 ∧ wldTask.tenantOfAsid 1 = some 0 ∧ wldTask.plat.bad = [] ∧ NoPeerLines wldTask
    ∧ (∀ x ∈ (wldTask.core 0).tlb, x.covers 0 (5 * 4096) = false) ∧ (∀ x ∈ (wldTask.cluster 0).tlb, x.covers 0 (5 * 4096) = false)
    ∧ wldTask.readHomeNat (wldTask.fe.asidTab.toNat + 16 * 0) 16 = 0x2001
    ∧ WalksTo wldTask 0 (5 * 4096) tlbG 4 (0x2001 / 2 ^ 12 % 2 ^ 40 * 4096)
    ∧ wldTask.readHomeNat (wldTask.fe.asidTab.toNat + 16 * 1) 16 % 2 = 0
    ∧ (wldTask.translate 0 0 0 (5 * 4096) 0).1.stall = wldTask.stall ∧ (wldTask.translate 0 0 1 (5 * 4096) 0).1.stall = wldTask.stall
    ∧ wldTask.fe.asidTab.toNat % 16 = 0 ∧ frameOk (wldTask.fe.asidTab.toNat + 16 * 0) = true
    ∧ frameOk (wldTask.fe.asidTab.toNat + 16 * 1) = true := by
  refine ⟨?_, ?_, rfl, noPeer_wldTask, ?_, ?_, ?_, walk_wldTask, ?_, ?_, ?_, ?_, ?_, ?_⟩ <;> decide +kernel
def inv1 : Inval := { scope := 1, asid := 0, va := 0, pages := 0 }
def withInv (s : State) (v : Option Inval) : State := { s with fe := { s.fe with inval := v } }
theorem witness_TranslationsInvalidated : stMine.fe.inval = none ∧ (withInv stMine (some inv1)).fe.inval ≠ none
    ∧ (withInv (wld (grOp mGl)) (some inv1)).invalBusy inv1 = true ∧ (withInv (wld gr) (some inv1)).invalBusy inv1 = false
    ∧ (tlbinvDone (withInv (wld gr) (some inv1))).stall = (withInv (wld gr) (some inv1)).stall
    ∧ (∃ c, ∃ e ∈ ((wld gr).core c).tlb, inv1.hits e = true) :=
  ⟨rfl, by decide, by decide, by decide, by decide +kernel, 0, tlb0, by decide, by decide⟩
/-- A migration of the page at 20000H to 30000H, whose leaf at 5000H maps it; after n passes, with some lines marked. -/
def mg (n : Nat) (l : List Nat) : Migration :=
  { src := 0x20000, dst := 0x30000, size := 0, leaf := 0x5000, va := 0x7000, asid := 0, passes := n, marked := l }
def migV (go : Nat) : BitVec 384 :=
  BitVec.ofNat 384 (go * 2 ^ 31 + 0x20000 * 2 ^ 64 + 0x30000 * 2 ^ 128 + 0x5000 * 2 ^ 192 + 0x7000 * 2 ^ 256)
def stMig (m : Memory) (g : Migration) : State := { stMine with mem := m, fe := { stMine.fe with migs := [(3, g)] } }
def leafMem : Memory := Memory.writeN [] 0x5000 (leBytes 8 0x2001F)
theorem witness_PagesMigrate : (migV 1).getLsbD 31 = true ∧ (migV 0).getLsbD 31 = false ∧ stMine.isOwner 1 = true
    ∧ (stMig leafMem (mg 0 [])).renewLease.migRefusal (migV 1) (mg 0 []) = 0
    ∧ (stMig leafMem (mg 0 [0x400])).mig 3 = some (mg 0 [0x400]) ∧ (stMig leafMem (mg 0 [0x400])).migMapped (mg 0 [0x400]) = true
    ∧ (∀ l ∈ (mg 0 [0x400]).marked, 0x20000 ≤ 128 * l ∧ 128 * l + 128 ≤ 0x20000 + (mg 0 [0x400]).bytes) ∧ Memory.wf leafMem = true
    ∧ isStore (0x20000 + (mg 0 []).bytes) = false ∧ isStore (0x30000 + (mg 0 []).bytes) = false ∧ Tab.wf (stMig leafMem (mg 1 [])).fe.migs = true
    ∧ (mg 1 []).size ≠ 4 ∧ isStore (0x5000 + 8) = false ∧ (mg 0 []).dst + (mg 0 []).bytes ≤ 2 ^ 51 ∧ (mg 0 []).dst % 4096 = 0
    ∧ (∀ i < 8, (mg 1 []).has (0x5000 + i) = false ∧ ¬ (0x30000 ≤ 0x5000 + i ∧ 0x5000 + i < 0x30000 + (mg 1 []).bytes))
    ∧ (stMig leafMem (mg 1 [])).cores = [] ∧ (stMig leafMem (mg 1 [])).fe.flip = none ∧ (stMig [] (mg 1 [])).migMapped (mg 1 []) = false := by
  refine ⟨?_, ?_, ?_, ?_, rfl, ?_, ?_, ?_, ?_, ?_, ?_, ?_, ?_, ?_, ?_, ?_, rfl, rfl, ?_⟩ <;> decide +kernel
def flipT : Flip := { first := 2, count := 9, toHost := true }
theorem witness_BiasFlips : (1 : W64).getLsbD 0 = true ∧ (0 : W64).getLsbD 0 = false ∧ stMine.fe.flip = none
    ∧ ({ stMine with fe := { stMine.fe with flip := some flipT } } : State).fe.flip = some flipT
    ∧ isStore (stMine.fe.biasBase.toNat + 2 ^ 25) = false := by decide +kernel

/-! ## Witnesses: links -/

/-- Slice 0 holds a dirty line of host memory, which is homed there. -/
def slHost : SliceSt :=
  { SliceSt.empty with lines := [{ line := 2 ^ 43, tenant := 0, valid := 1, dirty := 1, stream := false, used := 0 }] }
def stHost : State :=
  { stMine with slices := [(0, slHost)], fe := { stMine.fe with iregions := [(0, BitVec.ofNat 128 (1 + 2 ^ 50 + 2 ^ 114))] } }
theorem witness_HostLink : tierOf (128 * (2 ^ 50 / 128)) = 1 ∧ stHost.homeSlice (128 * (2 ^ 50 / 128)) = some 0
    ∧ (stHost.storeLine 0 (2 ^ 50 / 128)).isSome = true ∧ stHost.plat.bad = [] ∧ 0 + [(1 : Byte)].length ≤ 2 ^ 40
    ∧ stHost.flipping 0 = false ∧ Memory.wf stHost.mem = true ∧ stHost.plat.soft = [] := by decide +kernel
/-- Window 0 exports frame 2 for writing under key 5; port 3 has replayed n times. -/
def stRink (n : Nat) : State :=
  { stMine with
    fe := { stMine.fe with exports := [(0, BitVec.ofNat 64 (3 + 5 * 2 ^ 2 + 2 * 2 ^ 30))] }
    plat := { Platform.reset with ports := [(3, { up := true, replays := n })] } }
def stDown : State := { stMine with plat := { Platform.reset with ports := [(3, { up := false, replays := 0 })] } }
/-- A dirty line of peer memory in core 0's L1, with its write-back under way, and in slice 0; a valid partition; an
outstanding load of a peer address. -/
def peer : Nat := 2 ^ 51
def wldPeer : State :=
  { wld (grOp (mm .load (mo .b4 6 (.s 6)) false (pt peer))) with
    cores := [(0, { CoreSt.empty with l1 := [{ line0 with line := peer / 128 }], wbq := [{ id := 5, line := peer / 128, asid := 0, inval := false }] })]
    slices := [(0, { SliceSt.empty with lines := [{ line := peer / 128, tenant := 0, valid := 1, dirty := 1, stream := false, used := 0 }] })]
    parts := [(0, { PartSt.empty with cfg := 1 + 2 ^ 66 })] }
theorem witness_RinkLinks : ((stRink 4).port 3).up = true ∧ (stRink 4).exportAt 8 5 true = some (2 ^ 31 + 8)
    ∧ (stRink 4).exportAt 8 6 true = none ∧ 8 % 2 ^ 30 + [(1 : Byte)].length ≤ 2 ^ 30 ∧ (stRink 4).flipping (2 ^ 31 + 8) = false
    ∧ Memory.wf (stRink 4).mem = true ∧ ((stRink 16).port 3).replays = 16 ∧ ((stRink 4).port 3).replays ≠ 16 ∧ (stDown.port 3).up = false
    ∧ (wldPeer.core 0).wbq[0]? = some { id := 5, line := peer / 128, asid := 0, inval := false } ∧ tierOf (128 * (peer / 128)) = 2
    ∧ wldPeer.l1Line 0 0 (peer / 128) = some { line0 with line := peer / 128 }
    ∧ (∃ x, Tab.find wldPeer.parts 0 = some x ∧ x.valid = true ∧ x.tenant = (wldPeer.tenantOfAsid 0).getD 0)
    ∧ (∃ l, wldPeer.storeLine 0 (peer / 128) = some l ∧ l.dirty ≠ 0)
    ∧ (∃ g o m, wldPeer.memOp 0 4 = some (g, o, m) ∧ m.parts[0]? = some (pt peer) ∧ m.isLocal = false ∧ g.mayPerform 4 m 0 = true
        ∧ m.kind = .load ∧ o.flag < 12) ∧ tierOf peer = 2 ∧ isStore peer = false
    ∧ (refusedWb wldPeer 0 0).stall = wldPeer.stall ∧ (refusedLine wldPeer 0 (peer / 128)).stall = wldPeer.stall
    ∧ 8 % 2 ^ 30 + 4 ≤ 2 ^ 30 ∧ (2 ^ 31 + 8) % 4 = 0 ∧ (∀ i < 4, (stRink 4).flipping (2 ^ 31 + 8 + i) = false ∧ (stRink 4).badAt (2 ^ 31 + 8 + i) = false)
    ∧ (stRink 4).exportAt 8 6 (outsideWrites (.write [1])) = none ∧ (stRink 4).flipsAny (2 ^ 31 + 8) 4 = false := by
  refine ⟨?_, ?_, ?_, ?_, ?_, ?_, ?_, ?_, ?_, rfl, ?_, ?_, ⟨_, rfl, ?_, ?_⟩, ⟨_, rfl, ?_⟩, ⟨_, _, _, rfl, rfl, rfl, ?_, rfl, ?_⟩, ?_, ?_,
    ?_, ?_, ?_, ?_, ?_, ?_, ?_⟩
    <;> decide +kernel
/-- A fragment that waits on two peer words; and a dirty line of peer memory whose bytes two tenants dirtied. -/
def mTwo : MemOp := { mm .load (mo .b4 6 (.s 6)) false (pt peer) with parts := [pt peer, pt (peer + 4)] }
def grTwo : Group := { grM with frags := [frW (.waitge mTwo)] }
def wldBy : State :=
  { wldPeer with slices := [(0, { SliceSt.empty with lines := [{ line := peer / 128, tenant := 0, valid := 3, dirty := 3, stream := false, used := 0, by_ := [(1, 7)] }] })] }
theorem witness_RinkLinks_refusals : (wld grTwo).group 0 = some grTwo ∧ grTwo.frag 0 = some (frW (.waitge mTwo))
    ∧ (wld grTwo).stopped grTwo = false ∧ (frW (.waitge mTwo)).free = true ∧ mTwo.parts[0]? = some (pt peer) ∧ (pt peer).done = false
    ∧ MemOp.performed (mTwo.setPart 0 { pt peer with done := true, err := true }) = false
    ∧ (∃ l, wldBy.storeLine 0 (peer / 128) = some l ∧ l.dirty.getLsbD 1 = true ∧ Tab.get l.tenant l.by_ 1 = 7)
    ∧ (refusedLine wldBy 0 (peer / 128)).stall = wldBy.stall := by
  refine ⟨rfl, rfl, ?_, ?_, rfl, rfl, ?_, ⟨_, rfl, ?_, ?_⟩, ?_⟩ <;> decide +kernel

/-! ## Witnesses: boot, security, errors -/

/-- The header of an image with a body of one byte. -/
def imgHdr : List Byte := leBytes 4 0x57465647 ++ leBytes 4 3 ++ leBytes 8 1 ++ zeros 1009
/-- A sound header is accepted when its signature and its digest are good, which the vendor's key and the fused minimum, open values of the part, decide (log 10). -/
theorem witness_Resets (s : State) (bs : List Byte) (ht : s.plat.torn = none) (hh : imageHeadOk bs = true)
    (hs : sigOk Config.vendorKey.1 Config.vendorKey.2 (bs.take 0x80) ((bs.drop 0x80).take 512) = true)
    (hd : (sha512 ((bs.drop imageHead).take (imageLength bs))).toNat = fieldAt bs 0x10 64) (hv : s.plat.fusedSvn ≤ imageSvn bs) :
    s.verifySlot bs = 0 := by simp [State.verifySlot, State.verifyImage, ht, hh, hs, hd, Nat.not_lt.2 hv]
theorem witness_Resets_header : imageHeadOk imgHdr = true ∧ State.reset.plat.torn = none ∧ State.reset.plat.fusedSvn ≤ imageSvn imgHdr
    ∧ ¬ slotOk State.reset.fuseAsk := by
  refine ⟨by decide +kernel, rfl, by decide +kernel, ?_⟩
  unfold State.fuseAsk
  split <;> (unfold slotOk; decide +kernel)
/-- The digest of the three bytes `abc` begins DDAF35A193617ABA (the worked example of FIPS 180-4). -/
theorem test_sha512_abc : (shaBytes [0x61, 0x62, 0x63]).take 8 = [0xdd, 0xaf, 0x35, 0xa1, 0x93, 0x61, 0x7a, 0xba] := by
  decide +kernel
def recov : State := State.updPlat State.reset fun p => { p with bootMode := 2 }
def withFw (x : Option (Nat × Nat)) : State := State.updPlat stMine fun p => { p with fwBusy := x }
def fwV (len : Nat) : BitVec 128 := BitVec.ofNat 128 (2 ^ 31 + len * 2 ^ 32 + 0x10000 * 2 ^ 64)
theorem witness_FirmwareUpdates : recov.recovering = true ∧ recov.verifyImage (imageIn recov.plat.recovery) ≠ 0 ∧ stMine.recovering = false
    ∧ (fwV 0x401).getLsbD 31 = true ∧ (withFw none).plat.fwBusy = none ∧ (withFw (some (0x10000, 0x401))).plat.fwBusy ≠ none
    ∧ 0x401 ≤ bits (fwV 0x401) 63 32 ∧ bits (fwV 0x401) 63 32 ≤ 2 ^ 25 ∧ bits (fwV 0x401) 127 64 % 4096 = 0
    ∧ bits (fwV 0x401) 127 64 + bits (fwV 0x401) 63 32 ≤ 2 ^ 40
    ∧ (withFw (some (0x10000, 0x401))).fuseAsk.fwVerify ((withFw (some (0x10000, 0x401))).readHomeN 0x10000 0x401) 0x401 ≠ 0
    ∧ ¬ 0x401 < imageHead + imageLength imgHdr := by decide +kernel
def withRep (b : Option (List Byte)) : State := State.updPlat stMine fun p => { p with attest := b }
theorem witness_Attests : stMine.isOwner 1 = true ∧ (BitVec.ofNat 576 (2 ^ 31 + 5)).getLsbD 31 = true ∧ 4 ≤ bits (BitVec.ofNat 576 (2 ^ 31 + 5)) 2 0
    ∧ (BitVec.ofNat 320 (2 ^ 31 + 3)).getLsbD 31 = true ∧ (BitVec.ofNat 320 3).getLsbD 31 = false ∧ stMine.plat.attest = none
    ∧ (withRep (some [1])).plat.attest = some [1] ∧ bits (BitVec.ofNat 320 (2 ^ 31 + 3)) 7 0 = 3 := by decide +kernel
def stErr (bad soft : List Nat) : State := State.updPlat stMine fun p => { p with bad := bad, soft := soft }
def stBond (r : Option Nat) (b : Bond) (l : Nat) : State :=
  { stMine with
    slices := [(0, { SliceSt.empty with bond0 := b })], plat := { Platform.reset with repair := r }
    dies := [(0, { DieSt.empty with layer0 := { state := l, target := l, ends := none } })] }
theorem witness_ErrorsHandled : 100 / 32 * 32 ∈ (stErr [96] [96]).plat.soft ∧ 100 / 32 * 32 ∈ (stErr [96] [96]).plat.bad
    ∧ 100 / 32 * 32 ∉ stMine.plat.soft ∧ 100 / 32 * 32 ∉ stMine.plat.bad ∧ (stMine.bond 0 0).drift = false
    ∧ ((stBond none { Bond.fresh with drift := true } 0).bond 0 0).drift = true ∧ (BitVec.ofNat 32 (2 ^ 31)).getLsbD 31 = true
    ∧ ((stBond none Bond.fresh 0).layer 0 0).state ≠ 2 ∧ ((stBond none Bond.fresh 2).layer 0 0).state = 2
    ∧ ((stBond none Bond.fresh 2).layer 0 0).ends = none ∧ (stBond none Bond.fresh 2).plat.repair = none
    ∧ (stBond (some 0) Bond.fresh 2).plat.repair = some 0 ∧ 8 ≤ ((stBond (some 0) Bond.fresh 2).bond 0 0).spares
    ∧ ((stBond (some 0) { Bond.fresh with spares := 0 } 2).bond 0 0).spares = 0 := by decide +kernel

/-! ## Witnesses: debug and power -/

/-- Group 0 of the team, unit 0 of no grid, at a BKPT 5, halted or not; its tenant has DEBUG, or not. -/
def grBk (h : Bool) : Group := { grW (.bkpt 5) with halted := h, trap := { gr.trap with hvec := 64 } }
def tenD (d : Nat) : TenantSt := { ten with tcfg := BitVec.ofNat 256 (16 * 2 ^ 176 + 2 ^ 192 + d * 2 ^ 193) }
def stDbg (h : Bool) (d : Nat) : State :=
  { stMine with groups := [(0, grBk h)], tenants := [(0, tenD d)], parts := [(0, { PartSt.empty with cfg := 1 + 2 ^ 66 })] }
def none32 : Nat := 0xFFFFFFFF
def withClaim (s : State) : State := { s with fe := { s.fe with claim := some 0, dbgRead := some (0, 2048 * 4096, 0) } }
/-- A debug read that began with status st, of a byte whose die's layers stand as l. -/
def stRd (l : Layer) (st : Option Nat) : State :=
  { stDbg true 1 with
    dies := [(0, { DieSt.empty with layer0 := l, layer1 := l })]
    fe := { (stDbg true 1).fe with claim := some 0, dbgRead := st.map fun n => (0, 2048 * 4096, n) } }
def goRd : W64 := BitVec.ofNat 64 (2 ^ 63 + 2048 * 4096 * 256)
theorem witness_Debugs_reads : goRd.getLsbD 63 = true ∧ bits goRd 7 0 = 0 ∧ bits goRd 31 8 = 2048 * 4096 ∧ (stRd Layer.active none).fe.dbgRead = none
    ∧ (∀ k < 3, ((stRd { state := k, target := k, ends := none } none).layer (0 / 64) (layerOfByte (2048 * 4096))).state = k
        ∧ ((stRd { state := k, target := k, ends := none } none).dbgExtent 0 (2048 * 4096)).isSome = true)
    ∧ (stRd { state := 1, target := 0, ends := some 9 } (some 1)).fe.dbgRead = some (0, 2048 * 4096, 1)
    ∧ (stRd { state := 2, target := 2, ends := none } (some 2)).fe.dbgRead = some (0, 2048 * 4096, 2)
    ∧ (stRd Layer.active (some 3)).fe.dbgRead = some (0, 2048 * 4096, 3) ∧ (stDbg true 0).dbgExtent 0 (2048 * 4096) = none
    ∧ (State.updPlat (stRd Layer.active (some 0)) fun p => { p with bad := [storeAddr 0 (2048 * 4096)] }).badAt (storeAddr 0 (2048 * 4096)) = true
    ∧ ((stRd Layer.active (some 0)).dbgExtent 0 (2048 * 4096)).any (fun x => x.addressed) = true := by
  refine ⟨?_, ?_, ?_, rfl, ?_, rfl, rfl, rfl, ?_, ?_, ?_⟩ <;> decide +kernel
theorem witness_Debugs : (stDbg true 1).isOwner 1 = true ∧ (stDbg true 0).debuggable 0 = false ∧ (stDbg true 1).debuggable 0 = true
    ∧ (stDbg true 1).fe.claim = none ∧ (withClaim (stDbg true 1)).fe.claim ≠ none ∧ (stDbg true 1).named none32 0 = [grBk true]
    ∧ (stDbg true 1).named none32 1 = [] ∧ (stDbg false 1).named none32 0 = [grBk false] ∧ tcfgDebug ((stDbg true 1).tenant 0).tcfg = true
    ∧ tcfgDebug ((stDbg true 0).tenant 0).tcfg = false ∧ (stDbg true 1).group 0 = some (grBk true) ∧ (stDbg true 1).swapped = []
    ∧ Tab.wf (stDbg true 1).groups = true ∧ (∀ y ∈ (stDbg true 1).groups, y.2.unit = (grBk true).unit → y.1 = 0)
    ∧ (grBk true).frags = [frW (.bkpt 5)] ∧ (grBk true).trap.plevel = 0 ∧ (∀ k, (grBk true).unit ≠ .slalom k)
    ∧ (withClaim (stDbg true 1)).fe.dbgRead = some (0, 2048 * 4096, 0) ∧ ((withClaim (stDbg true 1)).dbgExtent 0 (2048 * 4096)).isSome = true
    ∧ ((withClaim (stDbg true 1)).layer (0 / 64) (layerOfByte (2048 * 4096))).state = 0
    ∧ (withClaim (stDbg true 1)).badAt (storeAddr 0 (2048 * 4096)) = false ∧ (withClaim (stDbg true 0)).dbgExtent 0 (2048 * 4096) = none := by
  refine ⟨?_, ?_, ?_, rfl, ?_, ?_, ?_, ?_, ?_, ?_, rfl, rfl, ?_, ?_, rfl, rfl, fun _ h => (by cases h), rfl, ?_, ?_, ?_, ?_⟩
    <;> decide +kernel
/-- Partition 0 formed on a cluster of die 0; die 0 held at 1.5 GHz until clock 9. -/
def stRes : State := { stMine with parts := [(0, { PartSt.empty with cfg := 1 + 2 ^ 66, formed := some 0 })] }
def stTrip (c : Nat) : State := { stMine with clock := c, dies := [(0, { DieSt.empty with clk := 6, tripped := some 9 })] }
theorem witness_ClocksAndPower : stRes.dieReserved 0 = true ∧ stMine.dieReserved 0 = false ∧ ((stTrip 0).die 0).tripped = some 9
    ∧ (stMine.die 0).tripped = none ∧ (stTrip 0).clock < 9 ∧ 9 ≤ (stTrip 9).clock ∧ Tab.wf stRes.parts = true
    ∧ (∃ x, Tab.find stRes.parts 0 = some x ∧ x.valid = true) ∧ stMine.plat.fwBusy = none
    ∧ (thermalTrip stRes 0).stall = stRes.stall ∧ (thermalTrip stMine 0).stall = stMine.stall
    ∧ (thermalCritical stRes).stall = stRes.stall := by
  refine ⟨?_, ?_, ?_, ?_, ?_, ?_, ?_, ⟨_, rfl, ?_⟩, rfl, ?_, ?_, ?_⟩ <;> decide +kernel

/-! ## Witnesses: the step -/

/-- The machine after reset with a word of IADD v1, v2, #5 placed, which the next step selects. -/
def stGo (w : Nat) : State := State.reset.withFetchWord 64 w
def goGroup (k : Nat) : Group := Group.launch 0 (.team 0) 2048 0 (placeFrag k) true
def aged (s : State) : State := { s.begin.aged 0 (candidates s.begin 0) (some (0, 0)) with sel := some { gk := 0, fid := 0 } }
theorem selects_go : Selects (stGo 0x0000001802002E40) 0 0 (placeFrag 1) (aged (stGo 0x0000001802002E40)) (goGroup 1) (placeFrag 1) :=
  ⟨rfl, by decide +kernel, by decide +kernel, ⟨goGroup 1, by decide +kernel, by decide +kernel⟩, rfl, by decide +kernel,
    by decide +kernel, rfl⟩
theorem selects_header : Selects (stGo 0xC700000000100001) 0 0 (placeFrag 0) (aged (stGo 0xC700000000100001)) (goGroup 0) (placeFrag 0) :=
  ⟨rfl, by decide +kernel, by decide +kernel, ⟨goGroup 0, by decide +kernel, by decide +kernel⟩, rfl, by decide +kernel,
    by decide +kernel, rfl⟩
/-- The machine with a word that no rule defines at word 1 of its clause. -/
def stUndef : State := { stGo 0x0000001802002E40 with mem := Memory.writeN [] 8 [0x3F] }
theorem selects_undef : Selects stUndef 0 0 (placeFrag 1) (aged stUndef) (goGroup 1) (placeFrag 1) :=
  ⟨rfl, by decide +kernel, by decide +kernel, ⟨goGroup 1, by decide +kernel, by decide +kernel⟩, rfl, by decide +kernel,
    by decide +kernel, rfl⟩
/-- A slalom core about to issue, with IADD v1, v2, v3 at byte 8 of its store. -/
def stSlGo : State :=
  { stS grS { lu 0 0 with store := Memory.writeN [] 8 (leBytes 8 0x0000001802002E40) } [] with sched := [{ dt := 0, act := .issue 0 }] }
theorem selects_slalom : Selects stSlGo 0 0 fr (aged stSlGo) grS fr :=
  ⟨rfl, by decide +kernel, by decide +kernel, ⟨grS, by decide +kernel, by decide +kernel⟩, rfl, by decide +kernel, by decide +kernel, rfl⟩
def fetched (s : State) (va : Nat) : State × Except Xfault Nat :=
  (aged s).translate 0 0 0 va permX
/-- The machine whose fetch must wait: no translation is cached, and the line of the ASID table is on a miss. -/
def stLate : State :=
  { stGo 0x0000001802002E40 with
    cores := [], mem := Memory.writeN pageTab 8 (leBytes 8 0x0000001802002E40)
    fe := { FrontEnd.reset with iregions := [(0, 1)], asidTab := 0x1000 }
    slices := [(0, { SliceSt.empty with misses := [{ line := 0x1000 / 128, tenant := 0, waiters := [] }] })] }
theorem selects_late : Selects stLate 0 0 (placeFrag 1) (aged stLate) (goGroup 1) (placeFrag 1) :=
  ⟨rfl, by decide +kernel, by decide +kernel, ⟨goGroup 1, by decide +kernel, by decide +kernel⟩, rfl, by decide +kernel,
    by decide +kernel, rfl⟩
theorem witness_StepRunsDecodedWord_fetch :
    (fetched (stGo 0x0000001802002E40) 8).1.stall = (aged (stGo 0x0000001802002E40)).stall
    ∧ (∀ n < 8, (fetched (stGo 0x0000001802002E40) 8).1.errAt (8 + n) = false)
    ∧ (fetched stUndef 8).1.stall = (aged stUndef).stall ∧ (∀ n < 8, (fetched stUndef 8).1.errAt (8 + n) = false)
    ∧ (fetched (stGo 0xC700000000100001) 0).1.stall = (aged (stGo 0xC700000000100001)).stall
    ∧ (∀ n < 8, (fetched (stGo 0xC700000000100001) 0).1.errAt n = false)
    ∧ (fetched stLate 8).1.stall = true ∧ (fetched stLate 8).2.toOption = some 8 ∧ (aged stLate).stall = false ∧ (∀ n < 8, (fetched stLate 8).1.errAt (8 + n) = false)
    ∧ ({ State.reset with sched := [{ dt := 0, act := .event .recovergo }] } : State).nextTurn.act = .event .recovergo
    ∧ ({ State.reset with sched := [{ dt := 0, act := .event .recovergo }] } : State).powered = true := by
  refine ⟨?_, ?_, ?_, ?_, ?_, ?_, ?_, ?_, ?_, ?_, rfl, ?_⟩ <;> decide +kernel
theorem witness_StepRunsDecodedWord : (placeFrag 1).word ≠ 0 ∧ (placeFrag 1).hw = some placeHeader ∧ (∀ n, (goGroup 1).unit ≠ .slalom n)
    ∧ globalBody (BitVec.ofNat 64 (placeFrag 1).addr) = some 8
    ∧ (fetched (stGo 0x0000001802002E40) 8).2.toOption = some 8
    ∧ BitVec.ofNat 64 ((fetched (stGo 0x0000001802002E40) 8).1.readHomeNat 8 8) = 0x0000001802002E40
    ∧ (Instr.flagSel (.iadd (plainF 1 (.v 2) (.v 3)))).isSome = false
    ∧ (decodeWord (BitVec.ofNat 64 ((fetched stUndef 8).1.readHomeNat 8 8))).toOption = none ∧ (fetched stUndef 8).2.toOption = some 8
    ∧ grS.unit = .slalom 2 ∧ fr.word ≠ 0 ∧ fr.hw = some placeHeader ∧ ((aged stSlGo).core 0).leap.isSome = true
    ∧ ((aged stSlGo).grid 2).isSome = true ∧ (aged stSlGo).plat.bad = []
    ∧ (placeFrag 0).word = 0 ∧ (placeFrag 0).hw = none ∧ (placeFrag 0).hdr % 8 = 0 ∧ globalBody (BitVec.ofNat 64 (placeFrag 0).hdr) = some 0
    ∧ (fetched (stGo 0xC700000000100001) 0).2.toOption = some 0
    ∧ (decodeHeader (BitVec.ofNat 64 ((fetched (stGo 0xC700000000100001) 0).1.readHomeNat 0 8))).isOk = true
    ∧ ({ State.reset with power := false, sched := [{ dt := 0, act := .issue 0 }] } : State).powered = false := by
  refine ⟨?_, rfl, fun _ h => (by cases h), ?_, ?_, ?_, ?_, ?_, ?_, rfl, ?_, rfl, ?_, ?_, rfl, rfl, rfl, ?_, ?_, ?_, ?_, ?_⟩ <;> decide +kernel
/-- A step that answers a next state from a canonical one. -/
theorem witness_StepKeepsMemoryCanonical : Canonical State.reset ∧ ∃ t, step (stGo 0xC700000000100001) = .next t :=
  ⟨canonical_reset, _, rfl⟩

/-! ## Witnesses: further forms of the statements -/

/-- A slalom group with a handler at byte v, on a core that serves bytes 0 to 63. -/
def grSv (v : W64) : Group := { grS with trap := { grS.trap with hvec := v } }
def twoCauses : List (Nat × CauseRec) := [(4, { eaddr := 8, detail := 1 }), (3, { eaddr := 9, detail := 2 })]
theorem witness_ExceptionEntry_causes : (twoCauses.map Prod.fst).Nodup ∧ (∀ x ∈ twoCauses, x.1 < 20)
    ∧ (3, { eaddr := 9, detail := 2 }) ∈ twoCauses ∧ (∀ x ∈ twoCauses, 3 ≤ x.1) ∧ (grSv 8).frag fr.id = some fr
    ∧ (stS (grSv 8) (lu 0 0) []).inSegment 0 (grSv 8) 8 = true ∧ (stS (grSv 256) (lu 0 0) []).inSegment 0 (grSv 256) 256 = false
    ∧ (∀ k ∈ (stS (grSv 256) (lu 0 0) []).kills, k.unit ≠ (grSv 256).unit) := by
  refine ⟨?_, ?_, ?_, ?_, rfl, ?_, ?_, ?_⟩ <;> decide
theorem witness_MayEnter : MayEnter (stS (grSv 8) (lu 0 0) []) 0 (grSv 8) 8 ∧ ¬ MayEnter (stS (grSv 256) (lu 0 0) []) 0 (grSv 256) 256
    ∧ MayEnter (st grH) 0 grH 64 := by
  refine ⟨fun n _ => ⟨gridS [segA, segB], segA, rfl, ?_, ?_⟩, fun h => ?_, fun _ h => (by cases h)⟩
  · decide
  · decide
  · obtain ⟨g', x, he, -, hlt⟩ := h 2 rfl
    have : (gridS [segA, segB], segA) = (g', x) := Option.some.inj he
    cases this
    exact absurd hlt (by decide)
/-- A group at level 1 whose SR.EPC software wrote, at a header or between two. -/
def grSoft (e : W64) : Group := { grL1m with trap := { grL1m.trap with epc := e, epcHdr := 0, epcHw := false } }
/-- A group at level 1, from level 0, with causes 3 and 11 set, the latter or none deferrable and unmasked. -/
def grAgain (cause : W32) : Group := { grL1m with trap := { grL1m.trap with cause := cause, tmask := 0, savedLevel := 0, hvec := 64 } }
theorem witness_TretResumes_software : AtIssue (.tretResume (fo 0 (.v 0) (.v 0))) (st (grSoft 64)) 0 (grSoft 64) fr
    ∧ ReturnPoint (grSoft 64).trap.epc (grSoft 64).trap.epcHdr (grSoft 64).trap.epcHw ∧ (grSoft 64).trap.plevel ≠ 0
    ∧ (∀ c < 20, (grSoft 64).trap.cause.getLsbD c = true → (grSoft 64).trap.tmask.getLsbD c = true)
    ∧ selected (st (grSoft 65)) = some (0, grSoft 65, fr) ∧ (grSoft 65).trap.plevel ≠ 0 ∧ (grSoft 65).trap.epcHw = false
    ∧ (grSoft 65).trap.epc.toNat % 8 ≠ 0 ∧ AtIssue (.tretSkip (fo 0 (.v 0) (.v 0))) (st (grSoft 64)) 0 (grSoft 64) fr := by
  refine ⟨⟨rfl, ?_, ?_, ?_⟩, ⟨fun h => (by cases h), fun _ => by decide⟩, ?_, ?_, rfl, ?_, rfl, ?_, ⟨rfl, ?_, ?_, ?_⟩⟩ <;> decide
theorem witness_TretEntersAgain : AtIssue (.tretResume (fo 0 (.v 0) (.v 0))) (st (grAgain 0x808)) 0 (grAgain 0x808) fr
    ∧ ReturnPoint (grAgain 0x808).trap.epc (grAgain 0x808).trap.epcHdr (grAgain 0x808).trap.epcHw
    ∧ (grAgain 0x808).trap.savedMask &&& fr.members ≠ 0 ∧ (dueCauses (grAgain 0x808).trap).head? = some 11
    ∧ dueCauses (grAgain 8).trap = [] ∧ (grAgain 8).trap.cause.getLsbD 3 = true ∧ (grAgain 8).trap.tmask.getLsbD 3 = false
    ∧ (∀ d < 3, (grAgain 8).trap.cause.getLsbD d = true → (grAgain 8).trap.tmask.getLsbD d = true)
    ∧ (∀ n, (grAgain 8).unit ≠ .slalom n) := by
  refine ⟨⟨rfl, ?_, ?_, ?_⟩, ⟨fun _ => by decide, fun h => (by cases h)⟩, ?_, ?_, ?_, ?_, ?_, ?_, fun _ h => (by cases h)⟩ <;> decide
/-- A user interrupt active with a return point that software wrote. -/
def grUiS (e : W64) : Group := { grUi with trap := { grUi.trap with uiepc := e, uiepcHw := false } }
theorem witness_UretEndsInterrupt_software : AtIssue (.uret (fo 0 (.v 0) (.v 0))) (st (grUiS 64)) 0 (grUiS 64) fr
    ∧ ReturnPoint (grUiS 64).trap.uiepc (grUiS 64).trap.uiepcHdr (grUiS 64).trap.uiepcHw
    ∧ selected (st (grUiS 65)) = some (0, grUiS 65, fr) ∧ (grUiS 65).trap.uiepcHw = false ∧ (grUiS 65).trap.uiepc.toNat % 8 ≠ 0 := by
  refine ⟨⟨rfl, ?_, ?_, ?_⟩, ⟨fun h => (by cases h), fun _ => by decide⟩, rfl, rfl, ?_⟩ <;> decide
/-- A fragment asleep in a group with a user interrupt pending. -/
def grPendW (w : Wait) : Group := { grPend with frags := [frW w] }
theorem witness_Deliveries_waiting : Waiting (st (grPendW (.sleep 9))) 0 (grPendW (.sleep 9)) (frW (.sleep 9))
    ∧ (st (grPendW (.sleep 9))).mayIssue 0 (grPendW (.sleep 9)) (frW (.sleep 9)) = false
    ∧ Waiting (st { grPendW (.flags 1) with flags := [(0, 1)] }) 0 { grPendW (.flags 1) with flags := [(0, 1)] } (frW (.flags 1))
    ∧ (st { grPendW (.flags 1) with flags := [(0, 1)] }).mayIssue 0 { grPendW (.flags 1) with flags := [(0, 1)] } (frW (.flags 1)) = false
    ∧ dueCauses (grPendW (.sleep 9)).trap = [] :=
  ⟨⟨rfl, rfl, rfl, rfl, rfl⟩, by decide, ⟨rfl, rfl, rfl, rfl, rfl⟩, by decide, by decide⟩
/-- A WAITA of a 4-byte word that has waited too long, with a handler. -/
def grTimeA : Group := { grOpen with frags := [frW (.waita (mWa 1 256))] }
theorem witness_WaitTimeouts_waita : Waiting (stLim grTimeA) 0 grTimeA (frW (.waita (mWa 1 256)))
    ∧ (mWa 1 256).parts = [{ pt 256 with data := 0 }] ∧ ({ pt 256 with data := 0 } : Part).done = false ∧ dueCauses grTimeA.trap = [] :=
  ⟨⟨rfl, rfl, rfl, rfl, rfl⟩, rfl, rfl, by decide⟩
theorem witness_DiscardedPredicate : AtIssue (.elect (fo 7 (.v 0) (.v 0))) (st gr) 0 gr fr
    ∧ AtIssue (.claim (fo 7 (.v 0) (.imm 4))) (stT gr64) 0 gr64 fr ∧ AtIssue (.giveback (fo 7 (.v 0) (.imm 1))) (stT gr64) 0 gr64 fr
    ∧ AtIssue (.regroup { rgOp with d := 7 }) (st grTask) 0 grTask fr ∧ (Instr.regroup { rgOp with d := 7 }).wf = true := by
  refine ⟨⟨rfl, ?_, ?_, ?_⟩, ⟨rfl, ?_, ?_, ?_⟩, ⟨rfl, ?_, ?_, ?_⟩, ⟨rfl, ?_, ?_, ?_⟩, ?_⟩ <;> decide
/-- Two groups that arrived in one cycle, with 2 and 94 or 95 live lanes. -/
def stG2 (m : Lanes) : State :=
  { stG with groups := [(0, { grG 0 3 with arrivedAt := some 1 }), (1, grG 1 m)] }
theorem witness_RegroupFuses_tie : Tab.wf (stG2 (allLanes - 1)).groups = true
    ∧ ({ grG 0 3 with arrivedAt := some 1 } : Group).gnum < (grG 1 (allLanes - 1)).gnum ∧ (grG 1 (allLanes - 1)).arrivedAt = some 1
    ∧ 96 < laneCount (frG 3).mask + laneCount (frG (allLanes - 1)).mask ∧ (frG (allLanes - 1)).mask &&& (frG (allLanes - 1)).members ≠ 0
    ∧ (stG2 (allLanes - 1)).groupMxDone 1 = true ∧ (1 : Nat) < (stG2 (allLanes - 1)).clock := by
  refine ⟨?_, ?_, rfl, ?_, ?_, ?_, ?_⟩ <;> decide
theorem witness_MatrixWaits_early : (stMx 33 grMw (req (.maccz 1 false) (.retired 30))).group 0 = some grMw
    ∧ (7, req (.maccz 1 false) (.retired 30)) ∈ (stMx 33 grMw (req (.maccz 1 false) (.retired 30))).allReqs
    ∧ (stMx 33 grMw (req (.maccz 1 false) (.retired 30))).clock < 30 + 4
    ∧ (stMx 3 grMs (req (.maccz 1 false) .sent)).clock < 0 + 4 := by
  refine ⟨rfl, ?_, ?_, ?_⟩ <;> decide
/-- Two blocks of a reserve with a policy: each filling or not, with a key or none, last used at a time. -/
def kvX (p : Nat) : Extent := { kvEx with policy := p }
def blkAt (key : Option W64) (busy : Bool) (n : Nat) : Block := { blk key busy with recent := n }
def wldKp (p : Nat) (g : Group) (x y : Block) : State :=
  { wld g with tenants := [(0, { ten with extents := ten.extents ++ [kvX p], reserves := [(0, { blocks := [(0, x), (1, y)], evicts := 0 })] })] }
theorem blocks_kvX (p c : Nat) (h : c < kvBlocks (kvX p) [0]) : c = 0 ∨ c = 1 := by
  have e : kvBlocks (kvX p) [0] = 2 := rfl
  omega
theorem witness_KvPick : KvPick (wldKp 0 grM (blk none false) (blk none false)) 0 0 (kvX 0) [0] (.got 0 false)
    ∧ KvPick (wldKp 3 grM (blk (some 1) false) (blk (some 2) false)) 0 0 (kvX 3) [0] .full
    ∧ KvPick (wldKp 0 grM (blkAt (some 1) false 9) (blkAt (some 2) false 4)) 0 0 (kvX 0) [0] (.got 1 true)
    ∧ KvPick (wldKp 0 grM (blk none true) (blk none true)) 0 0 (kvX 0) [0] .wait := by
  refine ⟨⟨by decide +kernel, fun c h => absurd h (by omega)⟩, ⟨?_, .inl rfl⟩, ⟨?_, by decide, by decide +kernel, ?_⟩,
    ⟨?_, by decide, ⟨0, by decide +kernel⟩, ?_⟩⟩
  case refine_3 =>
    rintro c ⟨⟨hc, -⟩, -⟩
    rcases blocks_kvX _ _ hc with rfl | rfl <;> refine ⟨fun _ => ?_, fun h => ?_, fun h => ?_⟩ <;> first | decide +kernel | (exact absurd h (by decide))
  all_goals
    rintro c ⟨⟨hc, -⟩, h⟩
    rcases blocks_kvX _ _ hc with rfl | rfl <;> revert h <;> decide +kernel
theorem witness_KeyValueWords_picks :
    (∀ p < 4, (wldKp p grM (blk none false) (blk none false)).kvExtent 0 0 = some (kvX p, [0]))
    ∧ Acts (.kvins (so 6)) (wldKp 0 grM (blk none true) (blk none true)) 0 grM fr (so 6) 0
    ∧ Acts (.kvins (so 6)) (wldKp 3 grM (blk (some 1) false) (blk (some 2) false)) 0 grM fr (so 6) 0 := by
  refine ⟨?_, ⟨⟨rfl, ?_, ?_, ?_⟩, ?_, ?_, ?_, ?_⟩, ⟨⟨rfl, ?_, ?_, ?_⟩, ?_, ?_, ?_, ?_⟩⟩ <;> decide +kernel
/-- A KVINS that evicts block 0, of key 5 that block 1 holds, from page 0; and one that waits for a block. -/
def grKe (b : Option Nat) : Group :=
  { grM with flags := [(0, 1)], ops := [{ id := 4, flag := 0, kind := .kvins 20 0 b true 0 5 0 [(0, 4096)] }] }
def stKe : State := wldKp 0 (grKe (some 0)) (blk none true) (blk (some 5) false)
theorem witness_KeyValueWords_moves : stKe.group 0 = some (grKe (some 0)) ∧ stKe.kvExtent 0 0 = some (kvX 0, [0])
    ∧ (((stKe.tenant 0).reserve 0).block 0).busy = true
    ∧ (((stKe.tenant 0).reserve 0).blocks.find? fun y => y.2.key == some 5) = some (1, blk (some 5) false)
    ∧ stKe.wakeAny 0 (storeAddr (kvPlace (kvX 0) [0] 0).1 (kvPlace (kvX 0) [0] 0).2
        :: ((runAddrs [(0, 4096)]).map fun a => a / 128 * 128).eraseDups) = none
    ∧ (stKe.engineReads 0 (runAddrs [(0, 4096)])).stall = stKe.stall ∧ (runAddrs [(0, 4096)]).length = 4096
    ∧ NoSpill stKe ∧ (∀ a ∈ runAddrs [(0, 4096)], tierOf a ≠ 2) ∧ NoPeerLines stKe ∧ SoundMemory stKe := by
  refine ⟨rfl, ?_, ?_, ?_, ?_, ?_, ?_, fun x h => (by cases h), ?_, fun n l h => ?_, ⟨rfl, rfl, ?_, ?_, ?_⟩⟩
  case refine_7 =>
    intro a h
    simp only [runAddrs, List.flatMap_cons, List.flatMap_nil, List.append_nil, List.mem_map, List.mem_range] at h
    obtain ⟨i, hi, rfl⟩ := h
    unfold tierOf; split <;> omega
  case refine_8 =>
    have e : (stKe.slice n).lines = [] := rfl
    rw [e] at h; cases h
  all_goals decide +kernel
theorem witness_KeyValueWords_waiting : (wldKp 0 (grKe none) (blk none true) (blk none true)).group 0 = some (grKe none)
    ∧ (grKe none).op 4 = some { id := 4, flag := 0, kind := .kvins 20 0 none true 0 5 0 [(0, 4096)] }
    ∧ ((grKe none).ops.all fun x => !x.spoil) = true := ⟨rfl, rfl, rfl⟩
/-- A tenant that holds contracts on pages of a range of bases, and one with no cache partition; a PIN of n pages with terms t. -/
def ctr (b : Nat) (act : Bool) : Contract :=
  { base := b, prio := 2, late := true, fill := false, expiry := false, counter := none, pages := [b / 4096], active := act, order := 0 }
def wldPin (quota : Nat) (cs : List Contract) (g : Group) : State :=
  { wld g with tenants := [(0, { ten with cquota := quota, contracts := cs })] }
def wldBare (g : Group) : State := { wldPin 1 [] g with tenants := [(0, { (wldPin 1 [] g).tenant 0 with extents := [] })] }
def grPin (p : W32) (n t : W32) : Group := { grM with regs := { grM.regs with s := [(7, p), (12, n), (13, t)] } }
/-- A PIN of n pages from the last page of the address space. -/
def grEnd7 (n : W32) : Group := { grM with regs := { grM.regs with s := [(6, 0xFFFFF000), (7, 0x1FFFFFF), (12, n)] } }
def pinSees (s : State) (g : Group) : Prop :=
  Acts (.pin (so 6)) s 0 g fr (so 6) 0 ∧ (s.pin 0 (g.issuing fr (.pin (so 6))) (pinReq g fr (so 6))).1.stall = s.stall
theorem witness_ContractWords_cases : pinSees (wld (grPin 0 1 0)) (grPin 0 1 0) ∧ ((wld (grPin 0 1 0)).tenant 0).cquota ≤ 0
    ∧ pinSees (wld (grEnd7 2)) (grEnd7 2)
    ∧ globalBody (ptrA (grEnd7 2) fr (so 6)) = some (2 ^ 57 - 4096) ∧ ¬ (2 ^ 57 - 4096 + 4096 * (pinReq (grEnd7 2) fr (so 6)).pages ≤ 2 ^ 57)
    ∧ pinSees (wld (grPin 0 1 32)) (grPin 0 1 32) ∧ (pinReq (grPin 0 1 32) fr (so 6)).reserved = true
    ∧ pinSees (wldBare (grPin 0 1 0)) (grPin 0 1 0) ∧ ((wldBare (grPin 0 1 0)).tenant 0).cquota = 1
    ∧ (∀ x ∈ ((wldBare (grPin 0 1 0)).tenant 0).extents, x.kind ≠ 1)
    ∧ pinSees (wldPin 1 [ctr 0 true] (grPin 0 1 3)) (grPin 0 1 3)
    ∧ ((wldPin 1 [ctr 0 true] (grPin 0 1 3)).pin 0 ((grPin 0 1 3).issuing fr (.pin (so 6))) (pinReq (grPin 0 1 3) fr (so 6))).2 = (0, 1) := by
  unfold pinSees
  refine ⟨⟨⟨⟨rfl, ?_, ?_, ?_⟩, ?_, ?_, ?_, ?_⟩, ?_⟩, ?_, ⟨⟨⟨rfl, ?_, ?_, ?_⟩, ?_, ?_, ?_, ?_⟩, ?_⟩, ?_, ?_,
    ⟨⟨⟨rfl, ?_, ?_, ?_⟩, ?_, ?_, ?_, ?_⟩, ?_⟩, ?_, ⟨⟨⟨rfl, ?_, ?_, ?_⟩, ?_, ?_, ?_, ?_⟩, ?_⟩, ?_, ?_,
    ⟨⟨⟨rfl, ?_, ?_, ?_⟩, ?_, ?_, ?_, ?_⟩, ?_⟩, ?_⟩ <;> decide +kernel
/-- STQRY's selectors, and a contract that the query names. -/
def grSq (n : W32) : Group := { grM with regs := { grM.regs with s := [(12, n)] } }
theorem witness_TransposeAndQuery_selectors :
    (∀ n ∈ [0, 1, 2, 4, 7, 8, 9], readS (grSq (BitVec.ofNat 32 n)) fr 12 = BitVec.ofNat 32 n)
    ∧ Acts (.stqry (so 4)) (wld (grSq 0)) 0 (grSq 0) fr (so 4) 0 ∧ (wld (grSq 4)).kvExtent 0 0 = none
    ∧ (wldKp 0 (grSq 4) (blk none false) (blk none false)).kvExtent 0 0 = some (kvX 0, [0])
    ∧ (∀ d < 4, ∀ l < 2, (if ((wld (grSq 8)).layer d l).ends.isSome = true then ((wld (grSq 8)).layer d l).target
        else ((wld (grSq 8)).layer d l).state) < 4)
    ∧ tagOf (ptrA (grSq 2) fr (so 6)) = 0
    ∧ (((wldPin 1 [ctr 0 true] (grSq 2)).locate 0 ((grSq 2).issuing fr (.stqry (so 6))) [0] permR (ptrA (grSq 2) fr (so 6))).1.tenant 0).contracts
      = [ctr 0 true]
    ∧ ((wldPin 1 [ctr 0 true] (grSq 2)).locate 0 ((grSq 2).issuing fr (.stqry (so 6))) [0] permR (ptrA (grSq 2) fr (so 6))).2.toOption = some 0 := by
  refine ⟨?_, ⟨⟨rfl, ?_, ?_, ?_⟩, ?_, ?_, ?_, ?_⟩, ?_, ?_, ?_, ?_, ?_, ?_⟩ <;> decide +kernel
/-- What an ARMAC of the block at 0 sees: its state after the reads, its block, and where its pointers lead. -/
def armSaw (s : State) : Option (State × ArmBlk × ArmLoc) :=
  match (s.releaseNow 0 0).span 0 (grM.issuing fr (.armac (tf 6))) [0] permR 0 128 with
  | (s1, .ok as) =>
    let b := armBlkOf (s1.gather as)
    let r := (s1.engineReads 0 as).armLocate (fun s tags need q => s.locate 0 (grM.issuing fr (.armac (tf 6))) tags need q) b
    some (r.1, b, r.2)
  | _ => none
/-- The block of a range of n bytes at r, KIND 1, user interrupt; 65 pages in the TLB, apart in memory. -/
def wldSeg (r n : Nat) : State :=
  { wldArm 13 with
    mem := Memory.writeN [] 0 (leBytes 8 r ++ leBytes 8 n ++ leBytes 8 4 ++ leBytes 4 13)
    cores := [(0, { CoreSt.empty with tlb := (List.range 65).map fun k => { tlb0 with va := 4096 * k, pa := 8192 * k } })] }
/-- Entry 0 not FREE; 128 entries that watch slice 0. -/
def wldFew : State := { wldSeg 256 4 with trigs := [(0, tg 1 3)] }
def wldFilt : State := { wldSeg 256 4 with trigs := (List.range 128).map fun k => (k, { tg 1 3 with segs := [(256, 4)], slices := [0] }) }
theorem witness_ArmAndPush_outcomes :
    ((armSaw (wldSeg 256 4)).map fun x => (x.2.2.segs, x.2.1.badQueue x.1 0, x.2.1.malformed false, x.1.stall)) = some ([(256, 4)], false, false, false)
    ∧ ((armSaw (wldSeg 256 4)).map fun x => ((x.1.sliceOf 256).getD 0 / 64, (x.1.trig 0).state, x.1.filters 0)) = some (0, 0, 0)
    ∧ ((armSaw wldFew).map fun x => ((x.1.trig 0).state, (x.1.trig 1).state)) = some (1, 0)
    ∧ ((armSaw (wldSeg 0 (65 * 4096))).map fun x => (x.2.1.kind, x.2.2.segs.length, x.2.2.range.isNone, x.1.stall)) = some (1, 65, true, false)
    ∧ ((armSaw wldFilt).map fun x => (x.1.segSlices x.2.2.segs, x.1.filters 0, (x.1.trig 128).state)) = some ([0], 128, 0) := by
  refine ⟨?_, ?_, ?_, ?_, ?_⟩ <;> decide +kernel
/-- The faults: s6 = 4, or a pointer past the last page of the TLB's, or a range there. -/
def grArmAt (p : W32) : Group := { grM with regs := { grM.regs with s := [(6, p)] } }
theorem witness_ArmAndPushFaults : ActsF (.armac (tf 6)) (wld (grArmAt 4)) 0 (grArmAt 4) fr (tf 6) 0 ∧ (readS64 (grArmAt 4) fr 6).toNat % 64 = 4
    ∧ (((wld (grArmAt 4)).releaseNow 0 0).span 0 ((grArmAt 4).issuing fr (.armac (tf 6))) [0] permR (readS64 (grArmAt 4) fr 6) 128).2.isOk = true
    ∧ ActsF (.taskq (tf 2)) (wld grM) 0 grM fr (tf 2) 0
    ∧ (((wld grM).releaseNow 0 0).span 0 (grM.issuing fr (.taskq (tf 2))) [0] permR (readS64 grM fr 2) 64).2.isOk = false
    ∧ (((wld grM).releaseNow 0 0).span 0 (grM.issuing fr (.taskq (tf 2))) [0] permR (readS64 grM fr 2) 64).1.stall = (wld grM).stall
    ∧ ((armSaw (wldSeg (65 * 4096) 4)).map fun x => (x.2.2.range.isSome, x.1.stall)) = some (true, false)
    ∧ (wldSeg (65 * 4096) 4).plat.bad = [] ∧ (wldSeg (65 * 4096) 4).stall = false := by
  refine ⟨⟨⟨rfl, ?_, ?_, ?_⟩, ?_, ?_, ?_, ?_, ?_⟩, ?_, ?_, ⟨⟨rfl, ?_, ?_, ?_⟩, ?_, ?_, ?_, ?_, ?_⟩, ?_, ?_, ?_, rfl, rfl⟩ <;> decide +kernel
/-- SEND with a payload that no one may read, or that is misaligned; to core 3 of the cluster and, by RMASK, cores 0 and 3 of cluster 0. -/
def grSdAt (p w0 : W32) : Group := { grM with regs := { grM.regs with s := [(2, p), (3, 0x30000000), (16, w0)] } }
def w0Both : W32 := 4 + 2 ^ 12 + 2 ^ 13 + 9 * 2 ^ 20
theorem witness_SendAndSegrep_faults : AtIssue (.send sf) (wld (grSdAt 8192 0x204)) 0 (grSdAt 8192 0x204) fr
    ∧ ((wld (grSdAt 8192 0x204)).sendSpan 0 ((grSdAt 8192 0x204).issuing fr (.send sf)) (readS64 (grSdAt 8192 0x204) fr 2) 4).2.isOk = false
    ∧ AtIssue (.send sf) (wld (grSdAt 258 0x204)) 0 (grSdAt 258 0x204) fr ∧ (readS64 (grSdAt 258 0x204) fr 2).toNat % 4 = 2
    ∧ ((wld (grSdAt 258 0x204)).sendSpan 0 ((grSdAt 258 0x204).issuing fr (.send sf)) (readS64 (grSdAt 258 0x204) fr 2) 4).2.isOk = true
    ∧ AtIssue (.send sf) (wld (grSdAt 256 w0Both)) 0 (grSdAt 256 w0Both) fr ∧ sendOk w0Both 0 = true := by
  refine ⟨⟨rfl, ?_, ?_, ?_⟩, ?_, ⟨rfl, ?_, ?_, ?_⟩, ?_, ?_, ⟨rfl, ?_, ?_, ?_⟩, ?_⟩ <;> decide +kernel
/-- A SEND from memory, and one that has core 3 and a remote core 0 to serve. -/
def kSend2 (todo : List Nat) (payload : Option (List Byte)) : OpKind := .send 20 todo 512 4 0 false [(256, 4)] payload 0
def grSend2 (todo : List Nat) (payload : Option (List Byte)) : Group :=
  { grM with flags := [(0, 1)], ops := [{ id := 4, flag := 0, kind := kSend2 todo payload }] }
theorem witness_SendDeliver_more : (wld (grSend2 [0] none)).wakeAny 0 (runAddrs [(256, 4)]) = none
    ∧ ((wld (grSend2 [0] none)).engineReads 0 (runAddrs [(256, 4)])).stall = (wld (grSend2 [0] none)).stall
    ∧ (∀ a ∈ runAddrs [(256, 4)], tierOf a ≠ 2) ∧ (wld (grSend2 [0] none)).dirtyLines 0 0 = []
    ∧ (([3, remote] : List Nat).find? fun z => consCore z == 0) = some remote ∧ remote = remote + 0
    ∧ (([3, remote] : List Nat).filter fun z => z != remote) = [3]
    ∧ (wld (grSend2 [3, remote] (some [1, 2, 3, 4]))).ringSlots (grSend2 [3, remote] (some [1, 2, 3, 4])) 0 512 = none
    ∧ (stRing (grSend2 [3, remote] (some [1, 2, 3, 4])) 0).ringSlots (grSend2 [3, remote] (some [1, 2, 3, 4])) 0 512 = some 2
    ∧ (grSend2 [3, remote] (some [1, 2, 3, 4])).op 4 = some { id := 4, flag := 0, kind := kSend2 [3, remote] (some [1, 2, 3, 4]) }
    ∧ (grSend2 [3, remote] (some [1, 2, 3, 4])).opsBefore 4 = [] := by
  refine ⟨?_, ?_, ?_, ?_, ?_, ?_, ?_, ?_, ?_, rfl, ?_⟩ <;> decide +kernel
theorem witness_SendDeliver_sound : SoundMemory (wld (grSend2 [0] none)) ∧ NoPeerLines (wld (grSend2 [0] none)) := by
  refine ⟨⟨rfl, rfl, rfl, rfl, rfl⟩, fun n l h => ?_⟩
  have e : ((wld (grSend2 [0] none)).slice n).lines = [] := rfl
  rw [e] at h; cases h
/-- A fragment that stands at PC 64, 128 or 0 on core 0, which serves bytes 0 to 63, at a level and with an exit live set. -/
def frImp (p : Nat) : Frag := { fr with hdr := p, word := 0, hw := none }
def grImp (p : Nat) (lv : Nat) : Group := { grS with frags := [frImp p], trap := { grS.trap with plevel := lv } }
def stImp (p lv : Nat) (w : W32) : State :=
  { stS (grImp p lv) (lu 0 0) [] with grids := [(2, gridS [{ segA with live := [w, 0, 0, 0] }, segB])] }
theorem witness_FragmentsDepart_implicit :
    DueTo (stImp 64 0 0) 0 (grImp 64 0) (frImp 64) 64 [0, 0, 0, 0] true ∧ DueTo (stImp 128 0 0) 0 (grImp 128 0) (frImp 128) 128 [0, 0, 0, 0] true
    ∧ DueTo (stImp 64 1 0x20000) 0 (grImp 64 1) (frImp 64) 64 [0x20000, 0, 0, 0] true
    ∧ (gridS [segA, segB]).segOf 128 = none ∧ liveOk [0x20000, 0, 0, 0] 64 = false ∧ liveOk [0, 0, 0, 0] 64 = true
    ∧ (grImp 64 1).trap.plevel ≠ 0 ∧ (grImp 64 0).flagErr = [] ∧ (grImp 64 0).ops = []
    ∧ (stImp 64 0 0).stopped (grImp 64 0) = false ∧ (frImp 64).free = true ∧ (stImp 64 0 0).group 0 = some (grImp 64 0)
    ∧ (grImp 64 0).frag (frImp 64).id = some (frImp 64) ∧ (∀ x ∈ (grImp 64 0).frags, x.id < (grImp 64 0).nextFrag) := by
  have h (p lv : Nat) (w : W32) (hs : (stImp p lv w).inSegment 0 (grImp p lv) (frImp p).addr = false) (ha : p = (frImp p).addr)
      (hl : ([w, 0, 0, 0] : List W32) = (((stImp p lv w).pinned 0).map fun x => x.2.live).getD []) :
      DueTo (stImp p lv w) 0 (grImp p lv) (frImp p) p [w, 0, 0, 0] true := .inr ⟨rfl, .inr ⟨fun _ _ e => (by cases e), ha, hs⟩, hl⟩
  refine ⟨h _ _ _ ?_ ?_ ?_, h _ _ _ ?_ ?_ ?_, h _ _ _ ?_ ?_ ?_, ?_, ?_, ?_, ?_, rfl, rfl, ?_, rfl, rfl, rfl, ?_⟩ <;> decide +kernel
theorem witness_FragmentsDepart_record : ((List.range 256).all fun k => !(stS (grDep 0) (lu 0 0) []).guarded (queueKey 1 ((7 + 7) % 8) + k)
      && !(stS (grDep 0) (lu 0 0) []).ringWord (queueKey 1 ((7 + 7) % 8) + k)) = true
    ∧ Memory.wf (stS (grDep 0) (lu 0 0) []).scratch = true ∧ (stS (grDep 0) (lu 0 0) []).sendRings = [] ∧ grS.lin < 2 ^ 32
    ∧ (1 : Nat) < 2 ^ 16 ∧ coreOf 0 < 192 := by
  decide +kernel
/-- LAUNCH of the team's object with PLACE on core c, and with a machine in which GRIDID 7 is in use. -/
def pkPlaced (c : Nat) : Packet :=
  pk 1 (leBytes 8 0x8000 ++ zeros 8 ++ [1, 0, 1, 0, 1, 0, 0, 2] ++ zeros 16 ++ leBytes 8 c)
def placedArgs (c : Nat) : State × Except Unit (List W32) :=
  ((begunIn (wldL (pkPlaced c)) 0 0).readFe 0 0 [0] 0x8000 256).1.launchForm { pkPlaced c with begun := true } teamHdr
    |>.1.launchArgs { pkPlaced c with begun := true }
theorem witness_GridsLaunched_place : (pkPlaced 3).place = true ∧ (pkPlaced 3).shape = (1, 1, 1) ∧ (pkPlaced 3).field 0x38 8 = 3
    ∧ (wldL (pkPlaced 3)).packet 0 0 = some (pkPlaced 3) ∧ (pkPlaced 3).resume = false
    ∧ (begunIn (wldL (pkPlaced 3)) 0 0).placeOk { pkPlaced 3 with begun := true } = true
    ∧ (placedArgs 3).2.isOk = true ∧ 3 ∈ (placedArgs 3).1.partCores 0 ∧ 4 ∉ (placedArgs 4).1.partCores 0
    ∧ (placedArgs 3).1.partLaunch 0 0 = true ∧ (placedArgs 4).1.partLaunch 0 0 = true
    ∧ (launchRun (begunIn (wldL (pkPlaced 3)) 0 0) { pkPlaced 3 with begun := true }).stall = (wldL (pkPlaced 3)).stall
    ∧ (launchRun (begunIn (wldL (pkPlaced 4)) 0 0) { pkPlaced 4 with begun := true }).stall = (wldL (pkPlaced 4)).stall
    ∧ (({ wldL (pkLaunch 0) with grids := [(2, { gridE 1 with gridid := 7 })] } : State).grids.any
        fun g => g.2.gridid == (pkLaunch 0).tag && g.2.tenant == (pkLaunch 0).tenant) = true := by
  refine ⟨?_, ?_, ?_, ?_, ?_, ?_, ?_, ?_, ?_, ?_, ?_, ?_, ?_, ?_⟩ <;> decide +kernel
/-- A slalom's code object at 8000H: one segment of 8 bytes on core c, its table at 100H and its text at 140H. -/
def slHdr : List Byte :=
  leBytes 4 0x4F495647 ++ leBytes 2 0x100 ++ leBytes 2 256 ++ leBytes 4 2 ++ [1, 0] ++ leBytes 2 1 ++ zeros 16 ++ leBytes 8 0x140
    ++ leBytes 8 0x140 ++ leBytes 8 8 ++ zeros 16 ++ zeros 8 ++ leBytes 4 0xFFFFFFFF ++ zeros 4 ++ leBytes 4 0xFFFFFFFF ++ zeros 4
    ++ leBytes 8 0x100 ++ leBytes 2 1 ++ zeros 150
def slSeg (c : Nat) : List Byte :=
  leBytes 8 0x140 ++ leBytes 4 8 ++ [1, 0, 0, 0] ++ leBytes 2 c ++ List.replicate 14 0xFF ++ zeros 32
/-- LAUNCH of it, 4 root groups, in partition p, with a core map at m. -/
def pkSl (p m : Nat) : Packet :=
  pk 1 (leBytes 8 0x8000 ++ zeros 8 ++ [4, 0, 1, 0, 1, 0, BitVec.ofNat 8 p, 0] ++ zeros 16 ++ leBytes 8 m)
def wldSl (x : Packet) (c : Nat) : State :=
  { wldP x with
    mem := Memory.writeN pageTab 0x8000 (slHdr ++ slSeg c ++ zeros 8)
    parts := [(0, { PartSt.empty with cfg := 1 + 2 ^ 66 }), (1, { PartSt.empty with cfg := 1 + 2 ^ 58 + 2 ^ 66 })] }
/-- What that LAUNCH sees: its object, the table's entries, the state at the end of its reads, and whether the text could be read. -/
def slSaw (x : Packet) (c : Nat) : Option (CodeObj × List (List Byte) × State × Bool) :=
  match (begunIn (wldSl x c) 0 0).readFe 0 0 [0] 0x8000 256 with
  | (s1, .ok bs) =>
    match s1.launchForm { x with begun := true } bs, checkObj bs with
    | (s0, .ok es), .ok o =>
      let s2 := (s0.launchArgs { x with begun := true }).1
      let r := s2.readFe 0 0 [0] (BitVec.ofNat 64 (0x8000 + o.textOff)) o.textSize
      some (o, es, r.1, r.2.isOk)
    | _, _ => none
  | _ => none
/-- Its clauses: map read and sound, segments of good shape, partition of the tenant. -/
def slGood (x : Packet) (c : Nat) : Option (Nat × Bool × Bool × Bool × Bool) :=
  (slSaw x c).map fun y =>
    let segs := y.2.1.map fun e => { segOfBytes e with cores := (segOfBytes e).cores.map (mapCore ({ x with begun := true } : Packet).mapArg.list) }
    (y.1.kind, y.2.2.2, y.2.2.1.mapArgOk x.part (((y.2.1.map segOfBytes).flatMap fun z => z.cores).eraseDups) ({ x with begun := true } : Packet).mapArg,
      y.2.2.1.segShapeOk x.tenant x.part y.1 y.2.1 segs (BitVec.ofNat 64 (x.field 0x28 8)), y.2.2.1.partLaunch x.part x.tenant)
theorem witness_SlalomLaunched : slGood (pkSl 0 0) 0 = some (2, true, true, true, true) ∧ slGood (pkSl 0 0) 4 = some (2, true, true, false, true)
    ∧ slGood (pkSl 1 0) 0 = some (2, true, true, true, false)
    ∧ slGood { pkSl 0 0xB000 with map := some [] } 0 = some (2, true, false, true, true)
    ∧ (pkSl 0 0xB000).field 0x38 8 ≠ 0 ∧ (pkSl 0 0xB000).map = none ∧ (pkSl 0 0).resume = false ∧ (pkSl 0 0).tag = 7
    ∧ (wldSl (pkSl 0 0) 0).packet 0 0 = some (pkSl 0 0) ∧ (pkSl 0 0).typ = 1
    ∧ (∀ x ∈ [(pkSl 0 0, 0), (pkSl 0 0, 4), (pkSl 1 0, 0), (pkSl 0 0xB000, 0), ({ pkSl 0 0xB000 with map := some [] }, 0)],
        (begunIn (wldSl x.1 x.2) 0 0).placeOk { x.1 with begun := true } = true
        ∧ (launchRun (begunIn (wldSl x.1 x.2) 0 0) { x.1 with begun := true }).stall = (wldSl x.1 x.2).stall) := by
  refine ⟨?_, ?_, ?_, ?_, ?_, ?_, ?_, ?_, ?_, ?_, ?_⟩ <;> decide +kernel
/-- RESUME of GRIDID 7, whose images are at B000H: its packet, the held unit, and the machine with grid g and an image of a MAGIC. -/
def pkResG (n : Nat) : Packet :=
  { pkt 1 (leBytes 4 n ++ zeros 8 ++ leBytes 8 0x8000 ++ zeros 15 ++ [1] ++ leBytes 8 0xB000 ++ zeros 16) with pending := 0 }
def heldG : HeldUnit := { heldT with grid := some 2 }
def wldResG (n : Nat) (g : Grid) (hs : List HeldUnit) (magic : Nat) : State :=
  { wldL (pkResG n) with
    grids := [(2, g)], held := hs
    mem := Memory.writeN (Memory.writeN pageTab 0x8000 teamHdr) 0xB000 (leBytes 4 magic ++ leBytes 2 0x100) }
def gridR : Grid := { gridE 1 with gridid := 7, code := 0x8000 }
def gridRs (lost : Bool) : Grid := { gridR with slalom := some { sl [segA, segB] with lost := lost } }
theorem witness_GridsResumed : (wldResG 7 gridR [heldG] 0x43545847).packet 0 0 = some (pkResG 7) ∧ (pkResG 7).typ = 1
    ∧ (pkResG 7).resume = true ∧ (pkResG 7).tag = 7 ∧ (pkResG 7).field 0x38 8 = 0
    ∧ (∀ x ∈ [wldResG 7 gridR [heldG] 0x43545847, wldResG 7 gridR [] 0x43545847, wldResG 7 (gridRs false) [heldG] 0x4C535847,
          wldResG 7 (gridRs true) [heldG] 0x4C535847],
        let r := (begunIn x 0 0).readFe 0 0 [0] 0x8000 256
        (begunIn x 0 0).placeOk { pkResG 7 with begun := true } = true ∧ r.2.toOption = some teamHdr ∧ r.1.partLaunch 0 0 = true
        ∧ (r.1.grids.find? fun g => g.2.gridid == 7 && g.2.tenant == 0).isSome = true
        ∧ (resumeRun (begunIn x 0 0) { pkResG 7 with begun := true }).stall = x.stall
        ∧ r.1.parked 0 0xB000 (fun h => h.grid == some 2) = x.held
        ∧ (x.held.all (r.1.imageOk (if (x.grids.any fun g => g.2.slalom.isSome) = true then 0x4C535847 else 0x43545847))) = true)
    ∧ (∀ g ∈ (wldResG 8 gridR [heldG] 0x43545847).grids, (g.2.gridid == (pkResG 8).tag && g.2.tenant == (pkResG 8).tenant) = false) := by
  refine ⟨?_, ?_, ?_, ?_, ?_, ?_, ?_⟩ <;> decide +kernel
/-- A slalom grid that waits for cores 0 and 1, free or with core 1 taken. -/
def gridW : Grid := { gridS [segA, segB] with slalom := some { sl [segA, segB] with started := false } }
def stSla (cs : Tab CoreSt) : State := { State.reset with grids := [(2, gridW)], cores := cs }
/-- Where no group is left, no wait looks again at its pages. -/
theorem ownersFrom_nil (s t : State) (h : t.groups = [] ∧ t.swapped = []) : s.ownersFrom t = t := by
  obtain ⟨h, h'⟩ := h
  cases t
  subst h h'
  rfl
theorem stSla_quiet : ((teamAdmit (stSla []) 0).groups = [] ∧ (teamAdmit (stSla []) 0).swapped = []) ∧ (teamAdmit (stSla []) 0).stall = (stSla []).stall := by decide +kernel
theorem witness_SlalomAdmitted : (stSla []).grids = [(2, gridW)] ∧ (stSla []).firstHeld 2 = none ∧ (stSla []).held = []
    ∧ ({ sl [segA, segB] with started := false } : SlalomSt).cores = [segA, segB].flatMap (fun y => y.cores)
    ∧ ({ sl [segA, segB] with started := false } : SlalomSt).cores.Nodup ∧ (∀ c ∈ [0, 1], (stSla []).coreFree c = true)
    ∧ (stSla [(1, { CoreSt.empty with leap := some (lu 1 7) })]).coreFree 1 = false
    ∧ ((stSla []).ownersFrom (teamAdmit (stSla []) 0)).stall = (stSla []).stall := by
  rw [ownersFrom_nil _ _ stSla_quiet.1]
  refine ⟨rfl, ?_, rfl, ?_, ?_, ?_, ?_, stSla_quiet.2⟩ <;> decide +kernel
/-- A task group, and a slalom grid that has given its cores back, in line to be captured. -/
def grTk : Group := { gr with unit := .task 0, budget := 0, task := some tinfo }
def stCapT : State := { stCap with groups := [(0, grTk)], captures := [{ cap with unit := .task 0 }] }
def gridNo : Grid := { gridS [segA, segB] with slalom := some { sl [segA, segB] with cores := [] } }
def stCapS : State :=
  { stS grS (lu 0 0) [] with
    groups := [], grids := [(2, gridNo)], packets := [{ pkt 7 [] with begun := true }], captures := [{ cap with unit := .slalom 2 }] }
theorem stCap_quiet : ((preemptCapture stCapT 0).groups = [] ∧ (preemptCapture stCapT 0).swapped = []) ∧ (preemptCapture stCapT 0).stall = stCapT.stall
    ∧ ((preemptCapture stCapS 0).groups = [] ∧ (preemptCapture stCapS 0).swapped = []) ∧ (preemptCapture stCapS 0).stall = stCapS.stall := by decide +kernel
theorem witness_UnitsCaptured_more : stCapT.drained (.task 0) = true ∧ stCapT.members (.task 0) = [{ core := 0, st := 1, g := grTk }]
    ∧ (stCapT.ownersFrom (preemptCapture stCapT 0)).stall = stCapT.stall
    ∧ stCapS.drained (.slalom 2) = true ∧ stCapS.grid 2 = some gridNo ∧ gridNo.slalom = some { sl [segA, segB] with cores := [] }
    ∧ (stCapS.ownersFrom (preemptCapture stCapS 0)).stall = stCapS.stall := by
  rw [ownersFrom_nil _ _ stCap_quiet.1, ownersFrom_nil _ _ stCap_quiet.2.2.1]
  refine ⟨?_, rfl, stCap_quiet.2.1, ?_, rfl, rfl, stCap_quiet.2.2.2⟩ <;> decide +kernel
/-- Words of two lanes: a load and a store of scratchpad, and a load of memory that has performed. -/
def two (m : MemOp) (a : Nat) : MemOp := { m with parts := m.parts ++ m.parts.map fun p => { p with lane := 1, addr := a } }
theorem witness_WholeParts (m : MemOp) (p : Part) (a : Nat) (hm : m.parts = [p]) (hp : p.lane = 0 ∧ p.written = false ∧ p.err = false)
    (hs : m.spoil = false) : WholeParts (two m a) := by
  refine ⟨?_, fun _ => ?_, hs⟩
  · intro q hq
    simp only [two, hm, List.map_cons, List.map_nil, List.cons_append, List.nil_append, List.mem_cons, List.not_mem_nil, or_false] at hq
    rcases hq with rfl | rfl <;> simp [hp]
  · simp [two, hm, hp]
theorem witness_LocalWordsComplete : WholeParts (two mLd 260) ∧ WholeParts (two mSt 260) ∧ (two mLd 260).kind = .load
    ∧ (two mSt 260).kind = .store ∧ (two mSt 260).returns = false
    ∧ ((two mSt 260).parts.Pairwise fun p q => p.addr + p.n ≤ q.addr ∨ q.addr + q.n ≤ p.addr)
    ∧ (wld (grOp (two mLd 260))).group 0 = some (grOp (two mLd 260)) ∧ (grOp (two mLd 260)).op 4 = some (opOf (two mLd 260))
    ∧ (grOp (two mLd 260)).opsBefore 4 = [] ∧ Tab.wf (grOp (two mLd 260)).flags = true
    ∧ (∀ p ∈ (two mLd 260).parts, p.done = false ∧ 0 < p.n ∧ p.n ≤ 8
        ∧ ∀ k < p.n, (wld (grOp (two mLd 260))).guarded (p.addr + k) = false ∧ (wld (grOp (two mLd 260))).ringWord (p.addr + k) = false) := by
  refine ⟨witness_WholeParts _ _ _ rfl ⟨rfl, rfl, rfl⟩ rfl, witness_WholeParts _ _ _ rfl ⟨rfl, rfl, rfl⟩ rfl, rfl, rfl, ?_, ?_, rfl, rfl, rfl, ?_, ?_⟩
    <;> decide +kernel
theorem witness_GlobalAccessCompletes_lanes : WholeParts (two mDone 4) ∧ (∀ p ∈ (two mDone 4).parts, p.done = true)
    ∧ (two mDone 4).kind = .load ∧ (two mDone 4).isLocal = false ∧ (grOp (two mDone 4)).op 4 = some (opOf (two mDone 4)) := by
  refine ⟨witness_WholeParts _ _ _ rfl ⟨rfl, rfl, rfl⟩ rfl, ?_, rfl, rfl, rfl⟩
  decide

/-! ## Witnesses: more forms, clause by clause -/

/-- The words of one lane result: three sources, a destination read, an integer and a floating-point condition. -/
theorem witness_IntegerResults_lanes : (laneResult (.imin (FOpU (fo 124 (.s 2) (.imm 3))))).isSome = true
    ∧ (Instr.imin (FOpU (fo 124 (.s 2) (.imm 3)))).wf = true ∧ AtIssue (.imin (FOpU (fo 124 (.s 2) (.imm 3)))) (st gr) 0 gr fr
    ∧ (124 : BitVec 11).toNat + 1 ≤ 125 ∧ (laneResult (.imad { fo 8 (.v 2) (.v 4) with c := 6 })).isSome = true
    ∧ (Instr.imad { fo 8 (.v 2) (.v 4) with c := 6 }).wf = true ∧ AtIssue (.imad { fo 8 (.v 2) (.v 4) with c := 6 }) (st gr) 0 gr fr
    ∧ (Instr.bfe { fo 8 (.v 2) (.imm 0x820) with x := 1 }).wf = true ∧ AtIssue (.bfe { fo 8 (.v 2) (.imm 0x820) with x := 1 }) (st gr) 0 gr fr
    ∧ (Instr.fmin (fo 8 (.v 2) (.v 4))).wf = true ∧ AtIssue (.fmin (fo 8 (.v 2) (.v 4))) (st gr) 0 gr fr
    ∧ (Instr.fcmp (fo 6 (.v 2) (.v 4))).wf = true ∧ AtIssue (.fcmp (fo 6 (.v 2) (.v 4))) (st gr) 0 gr fr
    ∧ (Instr.fcmp (FOpU (fo 20 (.s 2) (.s 4)))).wf = true ∧ AtIssue (.fcmp (FOpU (fo 20 (.s 2) (.s 4)))) (st gr) 0 gr fr
    ∧ (Instr.plop { fo 6 (.v 2) (.v 0) with c := 9 }).wf = true ∧ AtIssue (.plop { fo 6 (.v 2) (.v 0) with c := 9 }) (st gr) 0 gr fr
    ∧ (Instr.plop { FOpU (fo 124 (.s 2) (.s 4)) with c := 9 }).wf = true
    ∧ AtIssue (.plop { FOpU (fo 124 (.s 2) (.s 4)) with c := 9 }) (st gr) 0 gr fr := by
  refine ⟨rfl, ?_, ⟨rfl, ?_, ?_, ?_⟩, ?_, rfl, ?_, ⟨rfl, ?_, ?_, ?_⟩, ?_, ⟨rfl, ?_, ?_, ?_⟩, ?_, ⟨rfl, ?_, ?_, ?_⟩, ?_, ⟨rfl, ?_, ?_, ?_⟩,
    ?_, ⟨rfl, ?_, ?_, ?_⟩, ?_, ⟨rfl, ?_, ?_, ?_⟩, ?_, ⟨rfl, ?_, ?_, ?_⟩⟩ <;> decide
theorem witness_ActivityMaskWrites_one :
    (effMov movMask ((grMask 6).issuing { fr with mask := 1 } (.mov movMask)) { fr with mask := 1 }).s = [(125 + 0, 6)] := by decide
/-- Lanes 0 and 1 branch to 64; lanes 2 and 3 fall through. -/
theorem witness_DividedTransfer : 0 < 24 ∧ (∀ l, frLow.members.getLsbD l = true → l / 4 = 0)
    ∧ (laneList (liveLanes frLow &&& 3)).head? = some 0 ∧ frLow.nextHdr ≠ 64
    ∧ (∀ l ∈ laneList (liveLanes frLow), (if (3 : Lanes).getLsbD l = true then 64 else frLow.nextHdr) = 64
        ∨ (if (3 : Lanes).getLsbD l = true then 64 else frLow.nextHdr) = frLow.nextHdr)
    ∧ ∃ l ∈ laneList (liveLanes frLow), (if (3 : Lanes).getLsbD l = true then 64 else frLow.nextHdr) = frLow.nextHdr := by
  refine ⟨?_, fun l h => ?_, ?_, ?_, ?_, ?_⟩
  · decide
  · by_cases hl : l < 96
    · have key : ∀ l : Fin 96, frLow.members.getLsbD l.val = true → l.val / 4 = 0 := by decide
      exact key ⟨l, hl⟩ h
    · rw [BitVec.getLsbD_of_ge frLow.members l (by omega)] at h; cases h
  all_goals decide
/-- SR.LANE, and SR.CLOCK in a pair. -/
theorem witness_SpecialRegisters_values : (Instr.rdsr (fo 6 (.v 0) (.v 0))).wf = true
    ∧ AtIssue (.rdsr (fo 6 (.v 0) (.v 0))) (st gr) 0 gr fr ∧ (fo 6 (.v 0) (.v 0)).x = 0
    ∧ (Instr.rdsr (fo 6 (.v 10) (.v 0))).wf = true ∧ AtIssue (.rdsr (fo 6 (.v 10) (.v 0))) (st gr) 0 gr fr := by
  refine ⟨?_, ⟨rfl, ?_, ?_, ?_⟩, rfl, ?_, ⟨rfl, ?_, ?_, ?_⟩⟩ <;> decide
/-- The fragment that its core selects takes a due cause; while TIMEOUT is due, the fragment whose wait timed out. -/
def grDueT : Group := { grW (.barrier 2) with arrgen := [(2, 6)], trap := { gr.trap with cause := 0x80000, tmask := 0, hvec := 64 } }
theorem witness_Deliveries_takes : (st grDue).takesDue 0 grDue fr = true ∧ (st grDue).sel = some { gk := 0, fid := fr.id }
    ∧ Waiting (stLim grDueT) 0 grDueT (frW (.barrier 2)) ∧ (stLim grDueT).takesDue 0 grDueT (frW (.barrier 2)) = true
    ∧ dueCauses grDueT.trap = [19] ∧ grDueT.trap.plevel = 0 ∧ grDueT.trap.hvec ≠ 0 ∧ (∀ n, grDueT.unit ≠ .slalom n) :=
  ⟨by decide, rfl, ⟨rfl, rfl, rfl, rfl, rfl⟩, by decide, by decide, rfl, by decide, fun _ h => (by cases h)⟩
/-- The later group of two with an uncorrectable error in v1 of a lane that moves. -/
def grGBad : Group := { grG 1 (allLanes - 3) with regs := { gr.regs with bad := [badReg .v 1 5] } }
theorem witness_RegroupFuses_team : stG.group 0 = some (grG 0 3) ∧ stG.group 1 = some (grG 1 (allLanes - 3))
    ∧ (∀ y ∈ stG.groups, y.2.unit = .team 0 → y.1 = 0 ∨ y.1 = 1) ∧ (∀ y ∈ stG.swapped, y.group.unit ≠ .team 0)
    ∧ (frG 3).hw.isSome = true ∧ (frG (allLanes - 3)).hw.isSome = true ∧ stG.team 0 = some { tm with groups := 2, live := 2 }
    ∧ regroupBad (grG 1 (allLanes - 3)).regs 0 3 (laneList (allLanes - 3)) = false
    ∧ regroupBad grGBad.regs 0 3 (laneList (allLanes - 3)) = true := by
  refine ⟨rfl, rfl, ?_, ?_, rfl, rfl, rfl, ?_, ?_⟩ <;> decide
/-- A WAITA one of whose lanes lost its page while its fragment was held. -/
def mDen : MemOp := { mWa 0 256 with denied := some (256, 0) }
theorem witness_WaitOnScratchpad_denied : Waiting (wld { grM with frags := [frW (.waita mDen)] }) 0 { grM with frags := [frW (.waita mDen)] }
      (frW (.waita mDen)) ∧ mDen.denied = some (256, 0) ∧ (mWa 0 256).denied = none ∧ (mWa 0 8192).denied = none
    ∧ (∀ p ∈ mDen.parts, p.lane ≠ 96 ∨ p.reg + 2 ≤ 125) :=
  ⟨⟨rfl, rfl, rfl, rfl, rfl⟩, rfl, rfl, rfl, by decide⟩
/-- Two lanes' loads and a core's fetch wait for line 0. -/
def mMiss2 : MemOp := { mMiss with parts := [pt 0, { pt 64 with lane := 1 }] }
def entry3 : Miss :=
  { line := 0, tenant := 0, waiters := [{ gk := 0, op := 4, part := 0 }, { gk := 0, op := 4, part := 1 }, { gk := 0, op := 0, part := 0, eng := some (.issue 0) }] }
def wldMiss3 : State := { wld (grOp mMiss2) with slices := [(0, { slMiss with misses := [entry3] })] }
theorem witness_MissFillServesWaiters_all : (wldMiss3.slice 0).misses = [entry3] ∧ entry3.line = 0 ∧ entry3.waiters.Nodup
    ∧ wldMiss3.fillAllowed 0 0 true = true ∧ (wldMiss3.storeLine 0 0).isSome = true ∧ wldMiss3.plat.bad = [] ∧ wldMiss3.plat.soft = []
    ∧ WaitingLoad wldMiss3 0 { gk := 0, op := 4, part := 0 } (grOp mMiss2) (opOf mMiss2) mMiss2 (pt 0)
    ∧ WaitingLoad wldMiss3 0 { gk := 0, op := 4, part := 1 } (grOp mMiss2) (opOf mMiss2) mMiss2 { pt 64 with lane := 1 } := by
  refine ⟨rfl, rfl, ?_, ?_, ?_, rfl, rfl, ⟨rfl, rfl, rfl, rfl, rfl, rfl, rfl, rfl, ?_, ?_⟩, ⟨rfl, rfl, rfl, rfl, rfl, rfl, rfl, rfl, ?_, ?_⟩⟩ <;> decide
/-- The wide request is the one ready request of both its arrays. -/
def reqWide : MxReq := { req (.mma 0xA4 8) (.accepted 0) with a := .regs 8, b := .tile 256 16 0 0, wide := true }
theorem witness_RequestStarted_wide : reqWide.arrays = [0, 1] ∧ ∀ a ∈ reqWide.arrays, (stTwo reqWide).mxReady a = [(7, reqWide)] := by
  refine ⟨?_, ?_⟩ <;> decide
/-- A PIN of pages of which core 0's TLB has the first n, from physical page p on, under interleave regions `rs` and the extents `xs`. -/
def wldPins (n p quota : Nat) (cs : List Contract) (rs : Tab (BitVec 128)) (xs : List Extent) (g : Group) : State :=
  { wldPin quota cs g with
    tenants := [(0, { (wldPin quota cs g).tenant 0 with extents := xs })]
    cores := [(0, { CoreSt.empty with tlb := (List.range n).map fun k => { tlb0 with va := 4096 * k, pa := 4096 * (p + k) } })]
    fe := { FrontEnd.reset with iregions := rs } }
def ask (s : State) (g : Group) : Nat × Nat := (s.pin 0 (g.issuing fr (.pin (so 6))) (pinReq g fr (so 6))).2
/-- A second cache extent, in slice 1. -/
def exTwo : List Extent := ten.extents ++ [{ kind := 1, policy := 0, span := 0, first := 1, sbase := 0, units := 16, obase := 0 }]
/-- What a PIN sees of its pages, in the terms of the statement: the pages that translate, and whether all do. -/
def asks (s : State) (g : Group) (x : Nat × Nat) (ps : Nat) (ok : Bool) : Bool :=
  let r := s.pinPages 0 (g.issuing fr (.pin (so 6))) 0 (pinReq g fr (so 6)).pages
  decide (ask s g = x) && r.2.1.length == ps && r.2.2 == ok && !(s.pin 0 (g.issuing fr (.pin (so 6))) (pinReq g fr (so 6))).1.stall
theorem witness_ContractWords_accepts :
    asks (wldPins 1 0 1 [] [(0, 1)] ten.extents (grPin 0 1 0)) (grPin 0 1 0) (0, 0) 1 true
    ∧ pinSees (wldPins 1 0 1 [] [(0, 1)] ten.extents (grPin 0 1 0)) (grPin 0 1 0)
    ∧ (wldPins 1 0 1 [] [(0, 1)] ten.extents (grPin 0 1 0)).cacheUnits 0 ≠ 0
    ∧ globalBody (ptrA (grPin 0 1 0) fr (so 6)) = some 0 := by
  unfold pinSees
  refine ⟨?_, ⟨⟨⟨rfl, ?_, ?_, ?_⟩, ?_, ?_, ?_, ?_⟩, ?_⟩, ?_, ?_⟩ <;> decide +kernel
theorem witness_ContractWords_refuses :
    asks (wldPins 1 (2 ^ 20) 1 [] [(0, 1)] ten.extents (grPin 0 1 0)) (grPin 0 1 0) (2, 1) 1 true
    ∧ asks (wldPins 1 0 2 [ctr 4096 true] [(0, 1)] ten.extents (grPin 0 2 0)) (grPin 0 2 0) (2, 2) 1 false
    ∧ asks (wldPins 1 0 1 [] [(0, 1)] ten.extents (grPin 0 2 0)) (grPin 0 2 0) (2, 3) 1 false
    ∧ asks (wldPins 13 0 1 [] [(0, 1)] ten.extents (grPin 0 13 0)) (grPin 0 13 0) (1, 0) 13 true
    ∧ asks (wldPins 13 0 1 [] [(0, 1)] exTwo (grPin 0 13 0)) (grPin 0 13 0) (1, 1) 13 true := by
  refine ⟨?_, ?_, ?_, ?_, ?_⟩ <;> decide +kernel
/-- A WATCH of the word 5 at 256, with target t. -/
def wldWatch (t : Nat) : State :=
  { wld grM with mem := Memory.writeN (Memory.writeN [] 0 (leBytes 8 256 ++ leBytes 8 0 ++ leBytes 8 t ++ leBytes 4 14)) 256 [5] }
theorem witness_ArmAndPush_watch :
    ((armSaw (wldWatch 5)).map fun x => (x.2.1.kind, x.2.2.segs, x.2.1.malformed false, x.1.readHomeNat 256 8, x.2.1.target, x.1.stall))
      = some (2, [(256, 8)], false, 5, 5, false)
    ∧ ((armSaw (wldWatch 6)).map fun x => (x.2.1.kind, x.2.2.segs, x.2.1.malformed false, x.1.readHomeNat 256 8, x.2.1.target, x.1.stall))
      = some (2, [(256, 8)], false, 5, 6, false) := by
  refine ⟨?_, ?_⟩ <;> decide +kernel
/-- What a table of n equal entries holds. -/
theorem find_range' {α : Type} (x : α) (n : Nat) : ∀ a k, a ≤ k → k < a + n → Tab.find ((List.range' a n).map fun j => (j, x)) k = some x := by
  induction n with
  | zero => intro a k h h'; omega
  | succ n ih =>
    intro a k h h'
    rw [List.range'_succ, List.map_cons, Tab.find]
    by_cases e : a = k
    · rw [if_pos e]
    · rw [if_neg e]; exact ih (a + 1) k (by omega) (by omega)
/-- A machine none of whose entries on die 0 is FREE. -/
def wldFull : State := { wldSeg 256 4 with trigs := (List.range' 0 1024).map fun k => (k, tg 1 3) }
theorem witness_ArmAndPush_full : (∀ k < 1024, (wldFull.trig (1024 * 0 + k)).state ≠ 0)
    ∧ ((armSaw wldFull).map fun x => (x.2.2.segs, (x.1.sliceOf 256).getD 0 / 64, x.2.1.malformed false, x.1.stall)) = some ([(256, 4)], 0, false, false) := by
  refine ⟨fun k h => ?_, ?_⟩
  · have e : wldFull.trig (1024 * 0 + k) = tg 1 3 := by
      show Tab.get _ _ _ = _
      unfold Tab.get
      rw [show wldFull.trigs = (List.range' 0 1024).map fun j => (j, tg 1 3) from rfl, find_range' _ _ _ _ (by omega) (by omega)]
      rfl
    rw [e]; decide
  · decide +kernel
/-- What an ARM packet whose block's bytes are at B000H sees: whether its pointers translate, and its block. -/
def pkSaw (bytes : List Byte) : Option (Bool × Bool × Bool × Bool × Bool) :=
  let s := { wldPA 0xB000 with mem := Memory.writeN wldTask.mem 0xB000 bytes }
  match (begunIn s 0 0).readFe 0 0 [0] (BitVec.ofNat 64 0xB000) 128 with
  | (s1, .ok bs) =>
    let b := armBlkOf bs
    let r := s1.armLocate (fun s tags need x => s.locateFe 0 0 tags need x) b
    some (r.2.range.isSome, r.2.bar.isSome, b.malformed true, b.badQueue r.1 0, decide (b.kind = 2 ∧ b.target ≤ r.1.readHomeNat 0xE000 8))
  | _ => none
def watchBytes (t : Nat) : List Byte := leBytes 8 0xE000 ++ leBytes 8 0 ++ leBytes 8 t ++ leBytes 4 6
theorem witness_PacketArms_cases : pkSaw armBytes = some (false, false, false, false, false)
    ∧ pkSaw (zeros 128) = some (false, false, true, false, false)
    ∧ pkSaw (leBytes 8 0xE000 ++ leBytes 8 4 ++ leBytes 8 4 ++ leBytes 4 9 ++ leBytes 4 5) = some (false, false, false, true, false)
    ∧ pkSaw (leBytes 8 (2 ^ 40) ++ armBytes.drop 8) = some (true, false, false, false, false)
    ∧ pkSaw (armBytes ++ zeros 4 ++ leBytes 8 (2 ^ 40)) = some (false, true, false, false, false)
    ∧ pkSaw (watchBytes 0) = some (false, false, false, false, true) ∧ pkSaw (watchBytes 9) = some (false, false, false, false, false) := by
  refine ⟨?_, ?_, ?_, ?_, ?_, ?_, ?_⟩ <;> decide +kernel
/-- WAIT packets that are met as they begin or wait on. -/
theorem witness_PacketWaits_unmet : Beginning (wldP (pkWait (2 ^ 63))) 0 0 5 (pkWait (2 ^ 63))
    ∧ (waitBegin (begunIn (wldP (pkWait (2 ^ 63))) 0 0) { pkWait (2 ^ 63) with begun := true }).stall = (wldP (pkWait (2 ^ 63))).stall
    ∧ (wldP (pkWaiting (2 ^ 63) 0)).packet 0 0 = some (pkWaiting (2 ^ 63) 0)
    ∧ (wldP (pkWaiting (2 ^ 63) 0)).readHomeNat 0x8000 8 < (pkWaiting (2 ^ 63) 0).field 0x18 8 := by
  refine ⟨beginning_wldP _ _ rfl rfl (by decide) rfl, ?_, ?_, ?_⟩ <;> decide +kernel
/-- What the checks of a RESUME answer for an object's bytes: its form, the refusal of its names and table, the detail of its limits,
whether its segments' count is good, and whether a read waits. -/
def resSaw (bytes : List Byte) : Option (Bool × Option (Nat × Nat) × Option Nat × Bool × Bool) :=
  let x := { wldResG 7 gridR [] 0 with mem := Memory.writeN pageTab 0x8000 bytes }
  match (begunIn x 0 0).readFe 0 0 [0] 0x8000 256 with
  | (s1, .ok bs) =>
    let r := s1.launchForm { pkResG 7 with begun := true } bs
    let es := r.2.toOption.getD []
    some (objFormatOk (objOf bs) (objExtra bs) && (objOf bs).kind != 1, match r.2 with | .error e => some e | .ok _ => none,
      match checkObj bs with | .error d => some d | .ok _ => none, segCountOk (objOf bs) es (es.map segOfBytes),
      (resumeRun (begunIn x 0 0) { pkResG 7 with begun := true }).stall)
  | _ => none
/-- Bytes with some of them replaced, from byte k on. -/
def withAt (bs : List Byte) (k : Nat) (new : List Byte) : List Byte := bs.take k ++ new ++ bs.drop (k + new.length)
/-- A team's object and a slalom's; no object; a segment table outside the tenant's memory, a reserved byte of an entry set, a feature
that is none, and an entry that names core 0 twice. -/
theorem witness_GridsResumed_form : resSaw teamHdr = some (true, none, none, true, false)
    ∧ (resSaw (zeros 256)).map (fun x => (x.1, x.2.2.2.2)) = some (false, false)
    ∧ resSaw (slHdr ++ slSeg 0 ++ zeros 8) = some (true, none, none, true, false)
    ∧ resSaw (withAt slHdr 0x60 (leBytes 8 0x40000000) ++ slSeg 0 ++ zeros 8) = some (true, some (2, 0), none, true, false)
    ∧ resSaw (slHdr ++ withAt (slSeg 0) 63 [1] ++ zeros 8) = some (true, some (3, 1), none, true, false)
    ∧ resSaw (withAt slHdr 0x11 [4] ++ slSeg 0 ++ zeros 8) = some (true, none, some 2, true, false)
    ∧ resSaw (slHdr ++ withAt (slSeg 0) 12 [2, 0, 0, 0, 0, 0, 0, 0] ++ zeros 8) = some (true, none, none, false, false) := by
  refine ⟨?_, ?_, ?_, ?_, ?_, ?_, ?_⟩ <;> decide +kernel
/-- MIGCMD of the page of a SIZE at src, to dst, whose leaf is at a; and the machine with such a leaf. -/
def migW (size src dst a : Nat) : BitVec 384 :=
  BitVec.ofNat 384 (size + 2 ^ 31 + src * 2 ^ 64 + dst * 2 ^ 128 + a * 2 ^ 192 + 0x10000 * 2 ^ 256)
/-- A group of 16 entries with CONT, which map 64 KiB from 40000H. -/
def contMem : Memory := Memory.writeN [] 0x5000 ((List.range 16).flatMap fun k => leBytes 8 (0x4003F + 0x1000 * k))
def stCont : State := { stMine with mem := contMem }
def stLeaf : State := { stMine with mem := leafMem }
theorem witness_PagesMigrate_maps : LeafMaps stLeaf 0x5000 0x20000 0 ∧ LeafMaps stCont 0x5000 0x40000 4
    ∧ ¬ LeafMaps stLeaf 0x5000 0x21000 0 ∧ ¬ LeafMaps stCont 0x5000 0x40000 0 ∧ frameOk 0x20000 = true ∧ frameOk (2 ^ 62) = false := by
  unfold LeafMaps
  refine ⟨?_, ?_, ?_, ?_, ?_, ?_⟩ <;> decide +kernel
/-- The commands' fields: an accepted one of 4 KiB and one of 64 KiB; SIZE 3; a frame not aligned; a frame of no memory. -/
theorem witness_PagesMigrate_fields :
    (migW 0 0x20000 0x30000 0x5000).getLsbD 31 = true ∧ (migW 1 0x40000 0x50000 0x5000).getLsbD 31 = true
    ∧ (migW 3 0 0 0).getLsbD 31 = true ∧ (migW 1 0x41000 0x50000 0x5000).getLsbD 31 = true
    ∧ bits (migW 1 0x40000 0x50000 0x5000) 1 0 = 1 ∧ bits (migW 1 0x40000 0x50000 0x5000) 127 64 = 0x40000 ∧ bits (migW 1 0x40000 0x50000 0x5000) 255 192 = 0x5000
    ∧ 0x40000 % (4096 * 2 ^ 4) = 0 ∧ bits (migW 3 0 0 0) 1 0 = 3 ∧ bits (migW 1 0x41000 0x50000 0x5000) 127 64 % (4096 * 2 ^ 4) ≠ 0
    ∧ bits (migW 0 (2 ^ 62) 0x30000 0x5000) 127 64 = 2 ^ 62
    ∧ stLeaf.isOwner 1 = true ∧ stLeaf.recovering = false ∧ stLeaf.fe.migs.length < 16
    ∧ 16 ≤ ({ stLeaf with fe := { stLeaf.fe with migs := (List.range 16).map fun k => (k, mg 0 []) } } : State).fe.migs.length
    ∧ ({ stLeaf with fe := { stLeaf.fe with migs := [(0, mg 0 []), (2, mg 0 [])] } } : State).mig 1 = none := by
  refine ⟨?_, ?_, ?_, ?_, ?_, ?_, ?_, ?_, ?_, ?_, ?_, ?_, ?_, ?_, ?_, ?_⟩ <;> decide +kernel
theorem witness_BiasFlips_during : ({ stMine with fe := { stMine.fe with flip := some flipT } } : State).fe.flip.isSome = true
    ∧ ({ stMine with fe := { stMine.fe with flip := some flipT } } : State).isOwner 1 = true
    ∧ ({ stMine with fe := { stMine.fe with flip := some flipT } } : State).recovering = false := by decide +kernel
/-- A port that has replayed n flits that it receives. -/
def stRinkIn (n : Nat) : State := { stMine with plat := { Platform.reset with ports := [(3, { up := true, replays := 2, replaysIn := n })] } }
theorem witness_RinkLinks_in : ((stRinkIn 16).port 3).up = true ∧ ((stRinkIn 16).port 3).replaysIn = 16 ∧ ((stRinkIn 4).port 3).replaysIn ≠ 16
    ∧ 32 ≤ 32 ∧ (stDown.port (19 % 16)).up = false ∧ 16 ≤ 16
    ∧ (rinkRequest (stRink 4) 3 8 5 (.atom 0 false 4 1)).stall = (stRink 4).stall
    ∧ (rinkRequest (stRink 4) 3 8 6 (.read 4)).stall = (stRink 4).stall := by decide +kernel
/-- An image that the checks accept, which rest on open values of the part (log 10), is one that recovery boots. -/
theorem witness_FirmwareUpdates_recovery (s : State) (bs : List Byte) (hh : imageHeadOk bs = true)
    (hs : sigOk Config.vendorKey.1 Config.vendorKey.2 (bs.take 0x80) ((bs.drop 0x80).take 512) = true)
    (hd : (sha512 ((bs.drop imageHead).take (imageLength bs))).toNat = fieldAt bs 0x10 64) (hv : s.plat.fusedSvn ≤ imageSvn bs) :
    s.verifyImage bs = 0 := by simp [State.verifyImage, hh, hs, hd, Nat.not_lt.2 hv]
theorem witness_FirmwareUpdates_done : (withFw (some (0x10000, 0x401))).plat.bad = []
    ∧ (fwDone (withFw (some (0x10000, 0x401))) true).stall = (withFw (some (0x10000, 0x401))).stall := by decide +kernel
/-- Layers that change: into retention, out of it, and off. -/
def lay (a b : Nat) : Layer := { state := a, target := b, ends := some 9 }
theorem witness_Debugs_targets :
    (∀ x ∈ [(0, 1), (1, 0), (0, 2), (2, 0)], ((stRd (lay x.1 x.2) none).layer (0 / 64) (layerOfByte (2048 * 4096))).target = x.2
        ∧ ((stRd (lay x.1 x.2) none).dbgExtent 0 (2048 * 4096)).isSome = true)
    ∧ (stRd (lay 0 1) (some 1)).fe.dbgRead = some (0, 2048 * 4096, 1)
    ∧ (1 ≤ 1 ∧ (lay 0 1).target ≠ 2 ∧ ((lay 0 1).state ≠ 0 ∨ 1 = 1 ∧ (lay 0 1).target ≠ 0))
    ∧ ¬ (1 ≤ 1 ∧ Layer.active.target ≠ 2 ∧ (Layer.active.state ≠ 0 ∨ 1 = 1 ∧ Layer.active.target ≠ 0))
    ∧ (stRd Layer.active (some 1)).badAt (storeAddr 0 (2048 * 4096)) = false
    ∧ ((stRd (lay 2 2) (some 0)).layer (0 / 64) (layerOfByte (2048 * 4096))).state = 2 := by
  refine ⟨?_, rfl, ?_, ?_, ?_, ?_⟩ <;> decide +kernel
/-- The same machine with no request waiting at slice 0. -/
def wldAdd : State := { wldQ (tg 2 1) [] with slices := [(0, { slMiss with misses := [] })] }
theorem witness_ActionsRun_add : wldAdd.trig 5 = tg 2 1 ∧ wldAdd.wakeFor 0 0 = none ∧ wldAdd.plat.bad = []
    ∧ wldAdd.homeSlice (128 * ((tg 2 1).bar / 128)) = some 0 ∧ (wldAdd.storeLine 0 ((tg 2 1).bar / 128)).isSome = true
    ∧ wldAdd.reached (tg 2 1).bar = true ∧ wldAdd.flipping (tg 2 1).bar = false
    ∧ (wldAdd.homeAdd (tg 2 1).tenant (tg 2 1).bar (if (tg 2 1).barw32 = true then 4 else 8) (tg 2 1).addend.toNat).stall = wldAdd.stall := by
  refine ⟨rfl, ?_, rfl, ?_, ?_, ?_, ?_, ?_⟩ <;> decide +kernel
/-- A SEND to a ring of core 0 behind one to another ring of that core, which is full. -/
def grSendTwo : Group :=
  { grM with
    flags := [(0, 2)]
    ops := [{ id := 3, flag := 0, kind := .send 20 [0] 2048 4 0x3000000000000100 true [(256, 4)] (some [9]) 0 }, { id := 4, flag := 0, kind := kSend (some [1, 2, 3, 4]) }] }
theorem witness_SendDeliver_behind : grSendTwo.op 4 = some { id := 4, flag := 0, kind := kSend (some [1, 2, 3, 4]) }
    ∧ (grSendTwo.opsBefore 4).map (fun e => e.id) = [3] ∧ (2048 : Nat) ≠ 512
    ∧ (stRing grSendTwo 0).ringSlots grSendTwo 0 512 = some 2 ∧ (stRing grSendTwo 0).group 0 = some grSendTwo := by
  refine ⟨rfl, ?_, ?_, ?_, rfl⟩ <;> decide +kernel
/-- A group that began to drain while one fragment slept and another waited for a flag, which has fallen since. -/
def grDr : Group :=
  { grSl with draining := true, frags := [{ frLow with wait := .sleep 90000 }, { frHigh with wait := .flags 1 }], nextFrag := 2 }
def stDr : State := slHbm { stSl with groups := [(0, grDr)] }
theorem witness_SwapsHappen_draining : stDr.group 0 = some grDr ∧ stDr.swappable 0 grDr = true ∧ stDr.drainBegins 0 grDr = false
    ∧ stDr.stopped grDr = false ∧ grDr.uiDue = false ∧ grDr.allFlagsClear = true ∧ grDr.ops = [] ∧ stDr.swapRoom (coreOf 0) grDr.budget = true
    ∧ (swapOut stDr 0).stall = stDr.stall := by
  refine ⟨rfl, ?_, ?_, ?_, ?_, ?_, rfl, ?_, ?_⟩ <;> decide +kernel

/-! ## Decoding: for each constructor, a word written out field by field from the manual's encoding -/

/-- The sequencer, barriers and traps (R61, R126). -/
theorem test_decode_control :
    (decodeWord 0x0000000000000E00).toOption = some (.nop (fo 0 (.v 0) (.v 0)))
    ∧ (decodeWord 0x09FFFFF000001602).toOption = some (.bra { fo 0 (.v 0) (.imm 4194302) with guard := ⟨3, true⟩ })
    ∧ (decodeWord 0x0000000004000E04).toOption = some (.brx (fo 0 (.v 4) (.v 0)))
    ∧ (decodeWord 0x0800002800010E06).toOption = some (.call (fo 8 (.v 0) (.imm 5)))
    ∧ (decodeWord 0x420000000400CE08).toOption = some (.callx { fo 6 (.s 4) (.v 0) with x := 1 })
    ∧ (decodeWord 0x0000000006000E0A).toOption = some (.ret (fo 0 (.v 6) (.v 0)))
    ∧ (decodeWord 0x000000000000040C).toOption = some (.exit { fo 0 (.v 0) (.v 0) with guard := ⟨2, false⟩ })
    ∧ (decodeWord 0x0000000000000E0E).toOption = some (.regang (fo 0 (.v 0) (.v 0)))
    ∧ (decodeWord 0x0000004805006E10).toOption = some (.regroup (fo 3 (.v 5) (.v 9)))
    ∧ (decodeWord 0x0000000000008E12).toOption = some (.elect (fo 4 (.v 0) (.v 0)))
    ∧ (decodeWord 0x0800010000002E14).toOption = some (.claim (fo 1 (.v 0) (.imm 32)))
    ∧ (decodeWord 0x0400003800004E16).toOption = some (.giveback (fo 2 (.v 0) (.s 7)))
    ∧ (decodeWord 0x080000180000AE18).toOption = some (.bararv (fo 5 (.v 0) (.imm 3)))
    ∧ (decodeWord 0x000000000000CE1A).toOption = some (.barwt (fo 6 (.v 0) (.v 0)))
    ∧ (decodeWord 0x040000480000EE1C).toOption = some (.barsyn (fo 7 (.v 0) (.s 9)))
    ∧ (decodeWord 0x0000000000000E1E).toOption = some (.yield (fo 0 (.v 0) (.v 0)))
    ∧ (decodeWord 0x08001F4000000E20).toOption = some (.sleep (fo 0 (.v 0) (.imm 1000)))
    ∧ (decodeWord 0x0800401800000E22).toOption = some (.waitf (fo 0 (.v 0) (.imm 2051)))
    ∧ (decodeWord 0x0000000013010E24).toOption = some (.rdsr (fo 8 (.v 19) (.v 0)))
    ∧ (decodeWord 0x020000000301AE26).toOption = some (.wrsr (fo 13 (.s 3) (.v 0)))
    ∧ (decodeWord 0x0800026800000E28).toOption = some (.trap (fo 0 (.v 0) (.imm 77)))
    ∧ (decodeWord 0x0800000000000E2A).toOption = some (.tretResume (fo 0 (.v 0) (.imm 0)))
    ∧ (decodeWord 0x0800000800000E2A).toOption = some (.tretSkip (fo 0 (.v 0) (.imm 1)))
    ∧ (decodeWord 0x0800001000000E2A).toOption = some (.tretKill (fo 0 (.v 0) (.imm 2)))
    ∧ (decodeWord 0x0800020000000E2C).toOption = some (.causeclr (fo 0 (.v 0) (.imm 64)))
    ∧ (decodeWord 0x880000480000AE2E).toOption = some (.tmask { fo 5 (.v 0) (.imm 9) with x := 2 })
    ∧ (decodeWord 0x0800000800000E30).toOption = some (.uimask (fo 0 (.v 0) (.imm 1)))
    ∧ (decodeWord 0x0000000000000E32).toOption = some (.uret (fo 0 (.v 0) (.v 0)))
    ∧ (decodeWord 0x0800006000000E34).toOption = some (.bkpt (fo 0 (.v 0) (.imm 12))) := by decide +kernel
/-- Integer words (R61, R202). -/
theorem test_decode_integer :
    (decodeWord 0x09FFFFD802002E40).toOption = some (.iadd (fo 1 (.v 2) (.imm 4194299)))
    ∧ (decodeWord 0x0200401802002E42).toOption = some (.isub { fo 1 (.s 2) (.v 3) with c := 1 })
    ∧ (decodeWord 0x000DC01802002E44).toOption = some (.iaddx { fo 1 (.v 2) (.v 3) with c := 55 })
    ∧ (decodeWord 0x440F801802002E46).toOption = some (.isubx { fo 1 (.v 2) (.s 3) with c := 62, x := 1 })
    ∧ (decodeWord 0x8000003004004E48).toOption = some (.imul { fo 2 (.v 4) (.v 6) with x := 2 })
    ∧ (decodeWord 0x0000001802002E4A).toOption = some (.imulh (fo 1 (.v 2) (.v 3)))
    ∧ (decodeWord 0x4000003805004E4C).toOption = some (.imulw { fo 2 (.v 5) (.v 7) with x := 1 })
    ∧ (decodeWord 0x0001001802002E4E).toOption = some (.imad { fo 1 (.v 2) (.v 3) with c := 4 })
    ∧ (decodeWord 0x0002003805004E50).toOption = some (.imadw { fo 2 (.v 5) (.v 7) with c := 8 })
    ∧ (decodeWord 0x4000001802002E52).toOption = some (.imin { fo 1 (.v 2) (.v 3) with x := 1 })
    ∧ (decodeWord 0xA000004006008E54).toOption = some (.imax { fo 4 (.s 6) (.s 8) with x := 2, uni := true })
    ∧ (decodeWord 0x0000000002002E56).toOption = some (.iabs (fo 1 (.v 2) (.v 0)))
    ∧ (decodeWord 0x0001001802002E58).toOption = some (.isad { fo 1 (.v 2) (.v 3) with c := 4 })
    ∧ (decodeWord 0xC001001802002E5A).toOption = some (.idot4 { fo 1 (.v 2) (.v 3) with c := 4, x := 3 })
    ∧ (decodeWord 0x8001001802002E5C).toOption = some (.idot2 { fo 1 (.v 2) (.v 3) with c := 4, x := 2 })
    ∧ (decodeWord 0x4000001802002E5E).toOption = some (.and { fo 1 (.v 2) (.v 3) with x := 1 })
    ∧ (decodeWord 0xC000003004004E60).toOption = some (.or { fo 2 (.v 4) (.v 6) with x := 3 })
    ∧ (decodeWord 0x6800004802002E62).toOption = some (.xor { fo 1 (.s 2) (.imm 9) with x := 1, uni := true })
    ∧ (decodeWord 0x403A001802002E64).toOption = some (.lut3 { fo 1 (.v 2) (.v 3) with c := 232, x := 1 })
    ∧ (decodeWord 0xC000003804004E66).toOption = some (.shl { fo 2 (.v 4) (.v 7) with x := 3 })
    ∧ (decodeWord 0x4800002802002E68).toOption = some (.shr { fo 1 (.v 2) (.imm 5) with x := 1 })
    ∧ (decodeWord 0x0000001802002E6A).toOption = some (.sar (fo 1 (.v 2) (.v 3)))
    ∧ (decodeWord 0x4001001802002E6C).toOption = some (.shf { fo 1 (.v 2) (.v 3) with c := 4, x := 1 })
    ∧ (decodeWord 0x0000001802002E6E).toOption = some (.bfe (fo 1 (.v 2) (.v 3)))
    ∧ (decodeWord 0x4001001802002E70).toOption = some (.bfi { fo 1 (.v 2) (.v 3) with c := 4, x := 1 })
    ∧ (decodeWord 0xC000000002002E72).toOption = some (.popc { fo 1 (.v 2) (.v 0) with x := 3 })
    ∧ (decodeWord 0x4000000002002E74).toOption = some (.clz { fo 1 (.v 2) (.v 0) with x := 1 })
    ∧ (decodeWord 0x4000000003002E76).toOption = some (.ctz { fo 1 (.v 3) (.v 0) with x := 1 })
    ∧ (decodeWord 0x4000000002002E78).toOption = some (.brev { fo 1 (.v 2) (.v 0) with x := 1 })
    ∧ (decodeWord 0x4000001802002E7A).toOption = some (.bsel { fo 1 (.v 2) (.v 3) with x := 1 })
    ∧ (decodeWord 0x4014802802006E7C).toOption = some (.icmp { fo 3 (.v 2) (.v 5) with c := 82, x := 1 })
    ∧ (decodeWord 0x4002C01802002E7E).toOption = some (.sel { fo 1 (.v 2) (.v 3) with c := 11, x := 1 })
    ∧ (decodeWord 0x4000000002002E80).toOption = some (.mov { fo 1 (.v 2) (.v 0) with x := 1 })
    ∧ (decodeWord 0x0800003800008E82).toOption = some (.movi (fo 4 (.v 0) (.imm 7)))
    ∧ (decodeWord 0x2800004800008E84).toOption = some (.movhi { fo 4 (.s 0) (.imm 9) with uni := true })
    ∧ (decodeWord 0x0001801802002E86).toOption = some (.plop { fo 1 (.v 2) (.v 3) with c := 6 })
    ∧ (decodeWord 0x0000000003012E88).toOption = some (.p2s (fo 9 (.v 3) (.v 0)))
    ∧ (decodeWord 0x0200000009006E8A).toOption = some (.s2p (fo 3 (.s 9) (.v 0))) := by decide +kernel
/-- Floating words (R61, R208). -/
theorem test_decode_float :
    (decodeWord 0x0004C01802002EA0).toOption = some (.fadd { fo 1 (.v 2) (.v 3) with c := 19 })
    ∧ (decodeWord 0x0900000802002EA2).toOption = some (.fsub (fo 1 (.v 2) (.imm 2097153)))
    ∧ (decodeWord 0x0000001802002EA4).toOption = some (.fmul (fo 1 (.v 2) (.v 3)))
    ∧ (decodeWord 0x8001001802002EA6).toOption = some (.ffma { fo 1 (.v 2) (.v 3) with c := 4, x := 2 })
    ∧ (decodeWord 0x0000001802002EA8).toOption = some (.fmin (fo 1 (.v 2) (.v 3)))
    ∧ (decodeWord 0x0001401802002EAA).toOption = some (.fmax { fo 1 (.v 2) (.v 3) with c := 5 })
    ∧ (decodeWord 0x0001C0180200AEAC).toOption = some (.fcmp { fo 5 (.v 2) (.v 3) with c := 7 })
    ∧ (decodeWord 0x0001400002002EAE).toOption = some (.frnd { fo 1 (.v 2) (.v 0) with c := 5 })
    ∧ (decodeWord 0x0000000002002EB0).toOption = some (.fclass (fo 1 (.v 2) (.v 0)))
    ∧ (decodeWord 0x0000001802002EB2).toOption = some (.fcpys (fo 1 (.v 2) (.v 3)))
    ∧ (decodeWord 0x0000001802002EB4).toOption = some (.fscale (fo 1 (.v 2) (.v 3)))
    ∧ (decodeWord 0x4000001802002EB6).toOption = some (.hadd2 { fo 1 (.v 2) (.v 3) with x := 1 })
    ∧ (decodeWord 0x0000001802002EB8).toOption = some (.hsub2 (fo 1 (.v 2) (.v 3)))
    ∧ (decodeWord 0x0807FFF802002EBA).toOption = some (.hmul2 (fo 1 (.v 2) (.imm 65535)))
    ∧ (decodeWord 0xC001001802002EBC).toOption = some (.hfma2 { fo 1 (.v 2) (.v 3) with c := 4, x := 3 })
    ∧ (decodeWord 0x0000001802002EBE).toOption = some (.hmin2 (fo 1 (.v 2) (.v 3)))
    ∧ (decodeWord 0x0000001802002EC0).toOption = some (.hmax2 (fo 1 (.v 2) (.v 3)))
    ∧ (decodeWord 0x0000C0180200AEC2).toOption = some (.hcmp2 { fo 5 (.v 2) (.v 3) with c := 3 })
    ∧ (decodeWord 0x0000003004004EC4).toOption = some (.dadd (fo 2 (.v 4) (.v 6)))
    ∧ (decodeWord 0x0000003004004EC6).toOption = some (.dsub (fo 2 (.v 4) (.v 6)))
    ∧ (decodeWord 0x0010003004004EC8).toOption = some (.dmul { fo 2 (.v 4) (.v 6) with c := 64 })
    ∧ (decodeWord 0x0002003004004ECA).toOption = some (.dfma { fo 2 (.v 4) (.v 6) with c := 8 })
    ∧ (decodeWord 0x0000003004004ECC).toOption = some (.dmin (fo 2 (.v 4) (.v 6)))
    ∧ (decodeWord 0x0000003004004ECE).toOption = some (.dmax (fo 2 (.v 4) (.v 6)))
    ∧ (decodeWord 0x001440300400EED0).toOption = some (.dcmp { fo 7 (.v 4) (.v 6) with c := 81 }) := by decide +kernel
/-- Lane exchange, functions and conversions (R61, R217, R243, R247). -/
theorem test_decode_lanes :
    (decodeWord 0x0001001802002EE0).toOption = some (.lperm { fo 1 (.v 2) (.v 3) with c := 4 })
    ∧ (decodeWord 0x0000C00002012EE2).toOption = some (.pqry { fo 9 (.v 2) (.v 0) with c := 3 })
    ∧ (decodeWord 0x0000000005004EE4).toOption = some (.peer (fo 2 (.v 5) (.v 0)))
    ∧ (decodeWord 0x000B800002002EE6).toOption = some (.fold { fo 1 (.v 2) (.v 0) with c := 46 })
    ∧ (decodeWord 0x0012400002002EE8).toOption = some (.scan { fo 1 (.v 2) (.v 0) with c := 73 })
    ∧ (decodeWord 0x4000000004004EEA).toOption = some (.compact { fo 2 (.v 4) (.v 0) with x := 1 })
    ∧ (decodeWord 0x0400004802002EEC).toOption = some (.bcast (fo 1 (.v 2) (.s 9)))
    ∧ (decodeWord 0x1000000003004F00).toOption = some (.rcp { fo 2 (.v 3) (.v 0) with fs := true })
    ∧ (decodeWord 0x4000000004004F02).toOption = some (.rsq { fo 2 (.v 4) (.v 0) with x := 1 })
    ∧ (decodeWord 0x0000C00002002F04).toOption = some (.sqrt { fo 1 (.v 2) (.v 0) with c := 3 })
    ∧ (decodeWord 0x0200000002002F06).toOption = some (.exp2 (fo 1 (.s 2) (.v 0)))
    ∧ (decodeWord 0x0000000002002F08).toOption = some (.log2 (fo 1 (.v 2) (.v 0)))
    ∧ (decodeWord 0x0000000002002F0A).toOption = some (.sin (fo 1 (.v 2) (.v 0)))
    ∧ (decodeWord 0x0000000002002F0C).toOption = some (.cos (fo 1 (.v 2) (.v 0)))
    ∧ (decodeWord 0x0000000002002F0E).toOption = some (.tanh (fo 1 (.v 2) (.v 0)))
    ∧ (decodeWord 0x0000000002002F10).toOption = some (.erf (fo 1 (.v 2) (.v 0)))
    ∧ (decodeWord 0x4000001802002F12).toOption = some (.f2i { fo 1 (.v 2) (.v 3) with x := 1 })
    ∧ (decodeWord 0x0000040005004F14).toOption = some (.i2f (fo 2 (.v 5) (.v 128)))
    ∧ (decodeWord 0x0002482802002F16).toOption = some (.f2f { fo 1 (.v 2) (.v 261) with c := 9 })
    ∧ (decodeWord 0x00000C0002002F18).toOption = some (.cvpk2 (fo 1 (.v 2) (.v 384)))
    ∧ (decodeWord 0x0000140004002F1A).toOption = some (.cvpk4 (fo 1 (.v 4) (.v 640)))
    ∧ (decodeWord 0x0000010003008F1C).toOption = some (.unpk (fo 4 (.v 3) (.v 32)))
    ∧ (decodeWord 0x0000080003004F1E).toOption = some (.bfpq (fo 2 (.v 3) (.v 256)))
    ∧ (decodeWord 0x0000080004006F20).toOption = some (.bfpx (fo 3 (.v 4) (.v 256)))
    ∧ (decodeWord 0x0001800003008F22).toOption = some (.e2mxd { fo 4 (.v 3) (.v 0) with c := 6 }) := by decide +kernel
/-- Matrix, trigger and slalom words (R61, R276, R386, R420). -/
theorem test_decode_units :
    (decodeWord 0x0000C08008002F40).toOption = some (.mmah { fo 1 (.v 8) (.v 16) with c := 3 })
    ∧ (decodeWord 0x0200008004004F42).toOption = some (.mmaq8 (fo 2 (.s 4) (.v 16)))
    ∧ (decodeWord 0x0000008008004F44).toOption = some (.mmaq6 (fo 2 (.v 8) (.v 16)))
    ∧ (decodeWord 0x0000008008004F46).toOption = some (.mmaq4 (fo 2 (.v 8) (.v 16)))
    ∧ (decodeWord 0x0000008008004F48).toOption = some (.mmai8 (fo 2 (.v 8) (.v 16)))
    ∧ (decodeWord 0x0048008008004F4A).toOption = some (.mmabfp { fo 2 (.v 8) (.v 16) with c := 288 })
    ∧ (decodeWord 0x0001002809006F4C).toOption = some (.msca { fo 3 (.v 9) (.v 5) with c := 4 })
    ∧ (decodeWord 0x0000800008006F4E).toOption = some (.maccld { fo 3 (.v 8) (.v 0) with c := 2 })
    ∧ (decodeWord 0x0202000006006F4E).toOption = some (.maccldScratch { fo 3 (.s 6) (.v 0) with c := 8 })
    ∧ (decodeWord 0x0000000003010F50).toOption = some (.maccst (fo 8 (.v 3) (.v 0)))
    ∧ (decodeWord 0x400200000300CF50).toOption = some (.maccstScratch { fo 6 (.v 3) (.v 0) with c := 8, x := 1 })
    ∧ (decodeWord 0x0808001800000F52).toOption = some (.maccz (fo 0 (.v 0) (.imm 65539)))
    ∧ (decodeWord 0x0800002800000F54).toOption = some (.mfence (fo 0 (.v 0) (.imm 5)))
    ∧ (decodeWord 0x0400001800028F56).toOption = some (.mwait (fo 20 (.v 0) (.s 3)))
    ∧ (decodeWord 0x080000100002AF58).toOption = some (.mxstat (fo 21 (.v 0) (.imm 2)))
    ∧ (decodeWord 0x020000000800CFB0).toOption = some (.armac (fo 6 (.s 8) (.v 0)))
    ∧ (decodeWord 0x0200000005010FB2).toOption = some (.disarm (fo 8 (.s 5) (.v 0)))
    ∧ (decodeWord 0x0200000005018FB4).toOption = some (.acrd (fo 12 (.s 5) (.v 0)))
    ∧ (decodeWord 0x0A001FF80400EFB6).toOption = some (.taskq (fo 7 (.s 4) (.imm 1023)))
    ∧ (decodeWord 0x0A00003008000FC0).toOption = some (.leap (fo 0 (.s 8) (.imm 6)))
    ∧ (decodeWord 0x0200005008000FC0).toOption = some (.leapReg (fo 0 (.s 8) (.v 10)))
    ∧ (decodeWord 0x0204000002028FC2).toOption = some (.send { fo 20 (.s 2) (.v 0) with c := 16 })
    ∧ (decodeWord 0x1A0005F803028FC4).toOption = some (.segrep { fo 20 (.s 3) (.imm 191) with fs := true }) := by decide +kernel
/-- Memory and store words (R66, R67). -/
theorem test_decode_memory :
    (decodeWord 0x0000BFF80800CF60).toOption = some (.ldl { mo .b4 6 (.v 8) with c := 2047 })
    ∧ (decodeWord 0x0400402808006F62).toOption = some (.stl { mo .b2 3 (.s 8) with c := 5 })
    ∧ (decodeWord 0x0024C0000800CF64).toOption = some (.ldc { mo .b8 6 (.v 8) with ord := .acquire, scope := .cluster })
    ∧ (decodeWord 0x0026002808006F66).toOption = some (.stc { mo .b1 3 (.v 8) with c := 5, ord := .release, scope := .cluster })
    ∧ (decodeWord 0x0182802802002F68).toOption = some (.atoml { mo .b4 1 (.v 2) with c := 5, ord := .relaxed, tag := 3 })
    ∧ (decodeWord 0x0028C03004004F6A).toOption = some (.atomc { mo .b8 2 (.v 4) with c := 6, ord := .acqRel, scope := .cluster })
    ∧ (decodeWord 0x0004803002002F6C).toOption = some (.casl { mo .b4 1 (.v 2) with c := 6, ord := .acquire })
    ∧ (decodeWord 0x0604802802000F6E).toOption = some (.waita { mo .b4 0 (.s 2) with c := 5, ord := .acquire, tag := 4 })
    ∧ (decodeWord 0x0101400008040F80).toOption = some (.ldg { mo .b32 32 (.v 8) with tag := 2 })
    ∧ (decodeWord 0x0181006008FFEF82).toOption = some (.stg { mo .b16 2047 (.v 8) with c := 12, tag := 3 })
    ∧ (decodeWord 0x140080000800CF84).toOption = some (.lds { mo .b4 6 (.s 8) with fs := true })
    ∧ (decodeWord 0x0400804808002F86).toOption = some (.sts { mo .b4 1 (.s 8) with c := 9 })
    ∧ (decodeWord 0x0034802802002F88).toOption = some (.atomg { mo .b4 1 (.v 2) with c := 5, ord := .acquire, scope := .device })
    ∧ (decodeWord 0x00C2802802000F8A).toOption = some (.redg { mo .b4 0 (.v 2) with c := 5, ord := .relaxed, scope := .system, tag := 1 })
    ∧ (decodeWord 0x0032C04004004F8C).toOption = some (.casg { mo .b8 2 (.v 4) with c := 8, ord := .relaxed, scope := .device })
    ∧ (decodeWord 0x004A000000000F8E).toOption = some (.fence { mo .b1 0 (.v 0) with ord := .sc, scope := .system })
    ∧ (decodeWord 0x0434C03002000F90).toOption = some (.waitge { mo .b8 0 (.s 2) with c := 6, ord := .acquire, scope := .device })
    ∧ (decodeWord 0x0180003802000F92).toOption = some (.pref { mo .b1 0 (.v 2) with c := 7, tag := 3 })
    ∧ (decodeWord 0x0000003802000F94).toOption = some (.wbl1 { mo .b1 0 (.v 2) with c := 7 })
    ∧ (decodeWord 0x4000000000000F94).toOption = some (.wbl1All { mo .b1 0 (.v 0) with x := 1 })
    ∧ (decodeWord 0x0000000002000F96).toOption = some (.invl1 (mo .b1 0 (.v 2)))
    ∧ (decodeWord 0x4000000000000F96).toOption = some (.invl1All { mo .b1 0 (.v 0) with x := 1 })
    ∧ (decodeWord 0x0400004002028FA0).toOption = some (.pin { mo .b1 20 (.s 2) with c := 8 })
    ∧ (decodeWord 0x1400000002028FA2).toOption = some (.unpin { mo .b1 20 (.s 2) with fs := true })
    ∧ (decodeWord 0x550000B00C050FA4).toOption = some (.kvins { mo .b1 40 (.s 12) with c := 22, tag := 2, x := 1, fs := true })
    ∧ (decodeWord 0xC00000B000050FA6).toOption = some (.kvlook { mo .b1 40 (.v 0) with c := 22, x := 3 })
    ∧ (decodeWord 0x000000B000050FA8).toOption = some (.kvdrop { mo .b1 40 (.v 0) with c := 22 })
    ∧ (decodeWord 0x0400804002028FAA).toOption = some (.xpose { mo .b4 20 (.s 2) with c := 8 })
    ∧ (decodeWord 0x0400004802050FAC).toOption = some (.stqry { mo .b1 40 (.s 2) with c := 9 }) := by decide +kernel

/-- A paired word, and the header and memory words of the manual's worked examples (R52, R70, R86, R149, R251). -/
theorem test_decode_worked_examples :
    (decodeWord 0x0024034F00240203).toOption = some (.pairedWord { op := .iadd, d := 4, a := 9, pm := 0 } { op := .fmul, d := 13, a := 18, pm := 0 })
    ∧ (decodeHeader 0xC700000000120023).toOption = some { yld := false, seta := some 2, setb := none, waitmask := 0x002, len := 3 }
    ∧ (decodeWord 0x0000802802012F80).toOption = some (.ldg { mo .b4 9 (.v 2) with c := 5 })
    ∧ (decodeWord 0x000080600200CF82).toOption = some (.stg { mo .b4 6 (.v 2) with c := 12 })
    ∧ (decodeWord 0x080000280D018E40).toOption = some (.iadd (fo 12 (.v 13) (.imm 5)))
    ∧ (decodeWord 0x0100806004040F62).toOption = some (.stl { mo .b4 32 (.v 4) with c := 12, tag := 2 })
    ∧ (decodeWord 0x141280F80803CF68).toOption
        = some (.atoml { mo .b4 30 (.s 8) with c := 31, ord := .relaxed, scope := .team, fs := true })
    ∧ (decodeWord 0x4000140015028F16).toOption = some (.f2f { fo 20 (.v 21) (.v 0x280) with x := 1 }) := by decide +kernel

/-! ## Ill-formed terms, and words that the decoder refuses -/

/-- Headers (R53): no words, a SETA and a SETB above f11. -/
theorem test_ill_header : [({ yld := false, seta := none, setb := none, waitmask := 0, len := 0 } : Header),
    { yld := false, seta := some 12, setb := none, waitmask := 0, len := 1 },
    { yld := false, seta := none, setb := some 12, waitmask := 0, len := 1 }].all (fun h => !(Instr.clauseHeader h).wf) = true := by decide
/-- Paired words (R72, R73): equal banks of D, of A; an empty slot that names a register; a scalar above s127; a float modifier on an integer. -/
theorem test_ill_pair : [(({ op := .iadd, d := 4, a := 9, pm := 0 } : Slot), ({ op := .fmul, d := 8, a := 18, pm := 0 } : Slot)),
    ({ op := .iadd, d := 4, a := 9, pm := 0 }, { op := .fmul, d := 13, a := 17, pm := 0 }),
    ({ op := .nop, d := 1, a := 0, pm := 0 }, { op := .fmul, d := 13, a := 18, pm := 0 }),
    ({ op := .iadd, d := 4, a := 128, pm := 4 }, { op := .fmul, d := 13, a := 18, pm := 0 }),
    ({ op := .iadd, d := 4, a := 9, pm := 2 }, { op := .fmul, d := 13, a := 18, pm := 0 })].all
      (fun s => !(Instr.pairedWord s.1 s.2).wf) = true := by decide
/-- Format F (R62-R65, R77, R78): an unused D, A or B that is not zero; a misaligned D; a scalar above s127; a kind a field may not name; an
immediate where none is allowed, above its entry's bound, missing, or with FN; X and FN outside the entry; FS on a short word; U where it is not
allowed, and with a guard; a guard on REGANG; the entry's own condition. -/
theorem test_ill_formatF : [Instr.nop (fo 1 (.v 0) (.v 0)), .nop (fo 0 (.v 1) (.v 0)), .nop (fo 0 (.v 0) (.v 1)), .dadd (fo 1 (.v 2) (.v 4)),
    .iadd (fo 1 (.s 128) (.v 3)), .plop (fo 1 (.s 2) (.v 3)), .fclass (fo 1 (.v 2) (.imm 0)), .mfence (fo 0 (.v 0) (.imm 0x1000)), .bra (fo 0 (.v 0) (.v 0)),
    .iadd { fo 1 (.v 2) (.imm 3) with c := 1 }, .iabs { fo 1 (.v 2) (.v 0) with x := 1 }, .iadd { fo 1 (.v 2) (.v 3) with c := 2 },
    .iadd { fo 1 (.v 2) (.v 3) with fs := true }, .lperm { fo 1 (.s 2) (.s 3) with uni := true },
    .iadd { fo 1 (.s 2) (.s 3) with uni := true, guard := ⟨0, false⟩ }, .regang { fo 0 (.v 0) (.v 0) with guard := ⟨0, false⟩ },
    .wrsr (fo 0 (.s 0) (.v 0)), .maccld (fo 16 (.v 8) (.v 0)), .bararv (fo 16 (.v 0) (.imm 1)), .rdsr (fo 2 (.v 27) (.v 0)),
    .mmah (fo 0 (.v 4) (.v 16)), .f2i (fo 1 (.v 2) (.s 0)), .armac (fo 5 (.s 8) (.v 0)), .send { fo 20 (.s 2) (.v 0) with c := 17 }].all
      (fun i => !i.wf) = true := by decide +kernel
/-- Format M (R66-R69, R78): a misaligned D, data operand, pointer pair; a scalar pointer that is a vector, or a pointer where none is; SIZE, ORD, TAG and X
outside the entry; a SCOPE with ORD plain; U where it is not allowed, or with a guard; FS on FENCE; the entry's own condition. -/
theorem test_ill_formatM : [Instr.ldg (mo .b8 1 (.v 2)), .stg { mo .b8 0 (.v 2) with c := 1 }, .ldg (mo .b4 1 (.v 3)), .ldg (mo .b4 1 (.s 127)),
    .pin { mo .b1 20 (.v 2) with c := 8 }, .fence { mo .b1 0 (.v 2) with ord := .sc }, .atomg { mo .b2 1 (.v 2) with c := 5, ord := .relaxed },
    .ldg { mo .b4 1 (.v 2) with ord := .release }, .ldc { mo .b4 1 (.v 2) with tag := 1 }, .ldg { mo .b4 1 (.v 2) with x := 1 },
    .ldg { mo .b4 1 (.v 2) with scope := .team }, .pref { mo .b1 0 (.s 2) with uni := true },
    .ldg { mo .b4 1 (.s 2) with uni := true, guard := ⟨0, false⟩ }, .fence { mo .b1 0 (.v 0) with ord := .sc, fs := true },
    .redg { mo .b4 0 (.v 2) with c := 5, ord := .relaxed, x := 2, tag := 3 }, .pref { mo .b1 1 (.v 2) with c := 1 },
    .unpin { mo .b1 20 (.s 2) with c := 1 }, .kvlook { mo .b1 42 (.v 0) with c := 22 }].all
      (fun i => !i.wf) = true := by decide +kernel
/-- What the decoder refuses, by name: a reserved opcode, operands that break an entry, the pair of the worked example with equal banks, a pair
opcode that is reserved, a header without its tag, and too few bytes. -/
theorem test_decoder_refuses :
    (match decodeWord 0x000000000000003E with | .error (.reservedOpcode 0x1F) => true | _ => false) = true
    ∧ (match decodeWord 0x0000000000002E00 with | .error (.badOperands 0) => true | _ => false) = true
    ∧ (match decodeWord 0x0024020F00240203 with | .error .badPair => true | _ => false) = true
    ∧ (match decodeWord 0x000000000000002D with | .error .badPair => true | _ => false) = true
    ∧ (match decodeHeader 0xC600000000100001 with | .error .badHeader => true | _ => false) = true
    ∧ (match decode [1, 2, 3] with | .error .short => true | _ => false) = true := by decide +kernel

/-! ## Single steps -/

/-- The scalar n after a word with scalars xs. -/
def outS (i : Instr) (xs : Tab W32) (n : Nat) : Option W32 :=
  match exec i (st { gr with regs := { gr.regs with s := xs } }) with
  | .next t => (t.group 0).map fun g => g.regs.readS n
  | _ => none
/-- A word on scalars s2 and s3 to s20, with X and C. -/
def us (x : BitVec 2) (c : BitVec 11) : FOp := { fo 20 (.s 2) (.s 3) with uni := true, x := x, c := c }
/-- R203: addition wraps, and saturates with SAT, signed and unsigned. -/
theorem test_iadd : outS (.iadd (us 0 0)) [(2, 0x7FFFFFFF), (3, 1)] 20 = some 0x80000000
    ∧ outS (.iadd (us 0 1)) [(2, 0x7FFFFFFF), (3, 1)] 20 = some 0x7FFFFFFF
    ∧ outS (.iadd (us 1 1)) [(2, 0xFFFFFFFF), (3, 2)] 20 = some 0xFFFFFFFF
    ∧ outS (.iadd { us 0 0 with b := .imm 0x3FFFFF }) [(2, 5)] 20 = some 4 := by decide +kernel
/-- R203: the operands of a subtraction in order; the most negative value; a shift by the width; the high product. -/
theorem test_integer : outS (.isub (us 0 0)) [(2, 5), (3, 7)] 20 = some 0xFFFFFFFE
    ∧ outS (.iabs { us 0 0 with b := .s 0 }) [(2, 0x80000000)] 20 = some 0x80000000
    ∧ outS (.shl (us 1 0)) [(2, 3), (3, 32)] 20 = some 0 ∧ outS (.sar (us 0 0)) [(2, 0x80000000), (3, 99)] 20 = some 0xFFFFFFFF
    ∧ outS (.imulh (us 0 0)) [(2, 0xFFFFFFFF), (3, 2)] 20 = some 0xFFFFFFFF
    ∧ outS (.imulh (us 1 0)) [(2, 0xFFFFFFFF), (3, 2)] 20 = some 1
    ∧ outS (.clz { us 1 0 with b := .s 0 }) [(2, 0)] 20 = some 32 := by decide +kernel
/-- R205: LUT3 as d ? a : b and as the manual's second example; BFE signed past the width; a BSEL nibble that writes zero. -/
theorem test_bitwise : outS (.lut3 (us 1 0xCA)) [(2, 0x12345678), (3, 0x9ABCDEF0), (20, 0xFFFF0000)] 20 = some 0x1234DEF0
    ∧ outS (.lut3 (us 1 0xE8)) [(2, 0xF0F0F0F0), (3, 0xFF00FF00), (20, 0xFFFF0000)] 20 = some 0xFFF0F000
    ∧ outS (.bfe (us 0 0)) [(2, 0x80000000), (3, 0x081C)] 20 = some 0xFFFFFFF8
    ∧ outS (.bsel (us 1 0)) [(2, 0x33221100), (3, 0x8214), (20, 0xDDCCBBAA)] 20 = some 0x002211AA := by decide +kernel
/-- R208, R231: 1 + 2 in FP32; FFMA keeps the exact product of the manual's division, whose remainder is -2^-25. -/
theorem test_float : outS (.fadd (us 0 0)) [(2, 0x3F800000), (3, 0x40000000)] 20 = some 0x40400000
    ∧ outS (.ffma { us 1 0 with a := .s 4, b := .s 5, c := 6 }) [(4, 0x40400000), (5, 0x3EAAAAAB), (6, 0x3F800000)] 20 = some 0xB3000000
    ∧ outS (.ffma { us 0 0 with a := .s 4, b := .s 5, c := 5 }) [(4, 0xB3000000), (5, 0x3EAAAAAB)] 20 = some 0x3EAAAAAB := by decide +kernel
/-- R251: the manual's five values to E4M3, with and without saturation, and to E2M1. -/
def five : Group :=
  { gr with regs := { gr.regs with p := [(0, 31)], v := [(2016, 0x3F800000), (2017, 0x3E99999A), (2018, 0x43E80000), (2019, 0x43FA0000), (2020, 0xBA83126F)] } }
def conv (x : BitVec 2) (cv : BitVec 11) : List Nat :=
  (effF2f { fo 20 (.v 21) (.v cv) with x := x, guard := ⟨0, false⟩ } five fr).v.map fun w => w.2.2.toNat
theorem test_f2f : conv 0 0x280 = [0x38, 0x2A, 0x7E, 0x7F, 0x81] ∧ conv 1 0x280 = [0x38, 0x2A, 0x7E, 0x7E, 0x81]
    ∧ conv 0 0x400 = [2, 1, 7, 7, 8] := by decide +kernel
/-- The manual's translation of 40_0009_0400H for ASID 17 (R452-R455): the 2 MiB page that the core's TLB keeps. -/
def stWalk : State :=
  { stMine with
    fe := { stMine.fe with asidTab := 0x100000, iregions := [(0, BitVec.ofNat 128 (1 + 15 * 2 ^ 94))] }
    tenants := [(3, { TenantSt.empty with tcfg := BitVec.ofNat 256 (17 * 2 ^ 160 + 2 ^ 176 + 2 ^ 192), bound := true })]
    mem := [(0x100110, 0x01), (0x100114, 0x02), (0x100118, 3), (0x200000000, 0x01), (0x200000001, 0x10), (0x200000004, 2), (0x200001000, 0x01),
      (0x200001001, 0x20), (0x200001004, 2), (0x200002800, 0x01), (0x200002801, 0x30), (0x200002804, 2), (0x200003000, 0x0F), (0x200003002, 0x60),
      (0x200003003, 0x40), (0x200003004, 2)] }
theorem test_page_walk :
    (match exec (.pageWalk 0 17 (0x4000090400 / 4096)) stWalk with
      | .next t => (t.core 0).tlb.map fun e => (e.asid, e.va, e.pa, e.size)
      | _ => []) = [(17, 0x4000000000, 0x240600000, 2 ^ 21)] := by decide +kernel
/-- The manual's peer address: offset 2_4000_1000H of the aperture, window 9, frame 12 (R470). -/
theorem test_export : ({ stMine with fe := { stMine.fe with exports := [(9, BitVec.ofNat 64 (12 * 2 ^ 30 + 3))] } } : State).exportAt 0x240001000 0 true
    = some 0x300001000 := by decide +kernel

end Sys2Proof.Tests
end

section
/-! SUPPORT. What the static check of an entry says of immediates and of U (R62), and the type's width in registers (R65). -/
namespace Sys2Proof

theorem FOp.w_pos (o : FOp) : 0 < o.w := by unfold FOp.w; split <;> decide

/-- An immediate leaves FN zero. -/
theorem Shape.fn_of_isImm_of_ok {sh : Shape} {o : FOp} (h : sh.ok o = true) (hb : o.b.isImm = true) : o.fn = 0 := by
  by_cases hc : o.c = 0#11
  · simp [FOp.fn, hc]
  · cases hB : o.b with
    | imm x => cases hI : sh.imm <;> simp [Shape.ok, hB, hI, hc] at h
    | v n => simp [hB, SrcB.isImm] at hb
    | s n => simp [hB, SrcB.isImm] at hb
/-- U is zero where the entry does not admit it. -/
theorem Shape.uni_of_not_u_of_ok {sh : Shape} {o : FOp} (h : sh.ok o = true) (hu : sh.u = false) : o.uni = false := by
  cases huni : o.uni with
  | false => rfl
  | true => simp [Shape.ok, hu, huni] at h

end Sys2Proof
end

section
/-! SUPPORT. What the registers hold after the writes of a word that acts at issue: read after write for vector registers,
scalars and predicates, operands of several registers, and the effects that write D (R63, R64, R81, R198-R200). -/
namespace Sys2Proof.Machine
open Sys2Proof.Claims

/-! ## One write -/

/-- A vector register of a lane after one write; `96 * n + l` is its place in the table of written registers. -/
theorem Regs.readV_writeV (r : Regs) (n i m l : Nat) (x : W32) :
    (r.writeV m i x).readV n l = if 96 * m + i = 96 * n + l then x else r.readV n l := by
  unfold Regs.readV Regs.writeV
  by_cases h : 96 * m + i = 96 * n + l
  · simp [h]
  · simp only [Tab.find_put_ne _ _ _ _ (Ne.symm h), if_neg h]

theorem Regs.readS_writeS (r : Regs) (n m : Nat) (x : W32) :
    (r.writeS m x).readS n = if m = n then x else r.readS n := by
  unfold Regs.readS Regs.writeS
  by_cases h : m = n
  · simp [h]
  · simp only [Tab.find_put_ne _ _ _ _ (Ne.symm h), if_neg h]

theorem getLsbD_laneBit (i l : Nat) : (laneBit i).getLsbD l = (decide (l < 96) && decide (i = l)) := by
  rw [laneBit, BitVec.getLsbD_ofNat, Nat.testBit_two_pow]

@[simp] theorem Regs.readP_seven (r : Regs) : r.readP 7 = allLanes := if_pos rfl

/-- A predicate bit after a write of one lane of one predicate. -/
theorem Regs.readP_writeP (r : Regs) {n l : Nat} (hn : n ≠ 7) (hl : l < 96) (m i : Nat) (b : Bool) :
    ((r.writeP m i b).readP n).getLsbD l = if m = n ∧ i = l then b else (r.readP n).getLsbD l := by
  by_cases hm : m = n
  · subst hm
    have hput : (r.writeP m i b).readP m = if b then r.readP m ||| laneBit i else r.readP m &&& ~~~ laneBit i := by
      simp [Regs.writeP, Regs.readP, hn]
    have hbit : (laneBit i).getLsbD l = decide (i = l) := by rw [getLsbD_laneBit, decide_eq_true hl, Bool.true_and]
    rw [hput]
    by_cases hi : i = l
    · subst hi
      cases b <;> simp [hbit, hl, -BitVec.getLsbD_eq_getElem]
    · cases b <;> simp [hbit, hl, hi, -BitVec.getLsbD_eq_getElem]
  · rw [if_neg (fun h => hm h.1)]
    unfold Regs.writeP
    split
    · rfl
    · simp only [Regs.readP, if_neg hn, Tab.find_put_ne _ _ _ _ (Ne.symm hm)]

/-! ## A list of writes -/

/-- What is read after a list of writes, where every write that touches what is read leaves `x` there: it is `x` where some
write touches it, or where it was `x` before. -/
theorem foldl_read_of_agree {ρ ω β : Type} (wr : ρ → ω → ρ) (rd : ρ → β) (hit : ω → Prop) (x : β)
    (hmiss : ∀ r w, ¬ hit w → rd (wr r w) = rd r) (ws : List ω) (hval : ∀ w ∈ ws, hit w → ∀ r, rd (wr r w) = x) (r : ρ)
    (h : rd r = x ∨ ∃ w ∈ ws, hit w) : rd (ws.foldl wr r) = x := by
  induction ws generalizing r with
  | nil => simpa using h
  | cons w ws ih =>
    refine ih (fun v hv => hval v (List.mem_cons_of_mem _ hv)) (wr r w) ?_
    by_cases hw : hit w
    · exact .inl (hval w List.mem_cons_self hw r)
    · rw [hmiss r w hw]
      simpa [hw] using h

/-- The registers after the writes of an effect, in the order in which `applyEff` makes them. -/
def Eff.after (e : Eff) (r : Regs) : Regs := writePs (writeSs (writeVs r e.v) e.s) e.p

/-- `writePs` is its writes, but for the list of registers that show an error. -/
theorem readP_writePs (r : Regs) (ws : List (Nat × Nat × Bool)) (n : Nat) :
    (writePs r ws).readP n = (ws.foldl (fun r w => r.writeP w.1 w.2.1 w.2.2) r).readP n := by
  unfold writePs
  dsimp only
  split <;> rfl

/-- Predicate writes keep what a write of one predicate and an end of errors keep. -/
theorem writePs_keeps {γ : Type} (p : Regs → γ) (hp : ∀ (r : Regs) t, p { r with p := t } = p r)
    (hb : ∀ (r : Regs) t, p { r with bad := t } = p r) (r : Regs) (ws : List (Nat × Nat × Bool)) :
    p (writePs r ws) = p r := by
  have hfold : p (ws.foldl (fun r w => r.writeP w.1 w.2.1 w.2.2) r) = p r := by
    refine foldl_keeps p _ (fun r w => ?_) ws r
    unfold Regs.writeP
    split
    · rfl
    · exact hp _ _
  unfold writePs
  dsimp only
  split
  · exact hfold
  · rw [hb, hfold]

/-- Scalar writes leave vector registers alone. -/
theorem readV_writeSs (r : Regs) (ws : List (Nat × W32)) (n l : Nat) : (writeSs r ws).readV n l = r.readV n l :=
  foldl_keeps (fun r : Regs => r.readV n l) _ (fun _ _ => by split <;> rfl) ws r

/-- An effect without writes leaves the registers as they were. -/
theorem Eff.after_of_no_writes {e : Eff} (hv : e.v = []) (hs : e.s = []) (hp : e.p = []) (r : Regs) : e.after r = r := by
  unfold Eff.after writePs
  rw [hv, hs, hp]
  dsimp only [writeVs, writeSs, List.foldl_nil]
  split
  · rfl
  · have hkeep : (List.range 32).all (fun _ => false) = false := by decide
    simp only [List.any_nil, hkeep, Bool.not_false, Bool.or_true, List.filter_eq_self.mpr (fun _ _ => rfl)]

/-- A vector register that an effect writes holds the value on which its writes agree. -/
theorem Eff.readV_after {e : Eff} {n l : Nat} {x : W32} (r : Regs)
    (hval : ∀ w ∈ e.v, 96 * w.1 + w.2.1 = 96 * n + l → w.2.2 = x) (hex : (n, l, x) ∈ e.v) :
    (e.after r).readV n l = x := by
  unfold Eff.after
  rw [writePs_keeps (fun r : Regs => r.readV n l) (fun _ _ => rfl) (fun _ _ => rfl), readV_writeSs]
  refine foldl_read_of_agree _ (fun r : Regs => r.readV n l) (fun w => 96 * w.1 + w.2.1 = 96 * n + l) x
    (fun r w hw => ?_) e.v (fun w hmem hw r => ?_) r (.inr ⟨_, hex, rfl⟩)
  · rw [Regs.readV_writeV, if_neg hw]
  · rw [Regs.readV_writeV, if_pos hw, hval w hmem hw]

/-- A scalar below the activity mask that an effect writes holds the value on which its writes agree. -/
theorem Eff.readS_after {e : Eff} {n : Nat} {x : W32} (r : Regs) (hn : n < 125)
    (hval : ∀ w ∈ e.s, w.1 = n → w.2 = x) (hex : (n, x) ∈ e.s) : (e.after r).readS n = x := by
  unfold Eff.after
  rw [writePs_keeps (fun r : Regs => r.readS n) (fun _ _ => rfl) (fun _ _ => rfl)]
  refine foldl_read_of_agree _ (fun r : Regs => r.readS n) (fun w => w.1 = n) x
    (fun r w hw => ?_) e.s (fun w hmem hw r => ?_) _ (.inr ⟨_, hex, rfl⟩)
  · split
    · rfl
    · rw [Regs.readS_writeS, if_neg hw]
  · rw [if_neg (by omega), Regs.readS_writeS, if_pos hw, hval w hmem hw]

/-- A predicate bit that an effect writes holds the value on which its writes agree; p7 takes none (R63). -/
theorem Eff.readP_after {e : Eff} {n l : Nat} {b : Bool} (r : Regs) (hn : n ≠ 7) (hl : l < 96)
    (hval : ∀ w ∈ e.p, w.1 = n → w.2.1 = l → w.2.2 = b) (hex : (n, l, b) ∈ e.p) :
    ((e.after r).readP n).getLsbD l = b := by
  unfold Eff.after
  rw [readP_writePs]
  refine foldl_read_of_agree _ (fun r : Regs => (r.readP n).getLsbD l) (fun w => w.1 = n ∧ w.2.1 = l) b
    (fun r w hw => ?_) e.p (fun w hmem hw r => ?_) _ (.inr ⟨_, hex, rfl, rfl⟩)
  · rw [Regs.readP_writeP _ hn hl, if_neg hw]
  · rw [Regs.readP_writeP _ hn hl, if_pos hw, hval w hmem hw.1 hw.2]

/-! ## Operands of several registers (R64) -/

/-- The number that `k` words make from word `n` on, low word lowest: what `readVk` and `readSk` share. -/
def joinWords (rd : Nat → W32) (n : Nat) : Nat → Nat
  | 0 => 0
  | k + 1 => (rd n).toNat + 2 ^ 32 * joinWords rd (n + 1) k

theorem readVk_eq_joinWords (g : Group) (n i k : Nat) : readVk g n i k = joinWords (fun m => g.regs.readV m i) n k := by
  induction k generalizing n with
  | zero => rfl
  | succ k ih => simp only [readVk, joinWords, ih]
theorem readSk_eq_joinWords (g : Group) (f : Frag) (n k : Nat) : readSk g f n k = joinWords (readS g f) n k := by
  induction k generalizing n with
  | zero => rfl
  | succ k ih => simp only [readSk, joinWords, ih]

theorem joinWords_lt (rd : Nat → W32) (n k : Nat) : joinWords rd n k < 2 ^ (32 * k) := by
  induction k generalizing n with
  | zero => simp [joinWords]
  | succ k ih =>
    have hlow := (rd n).isLt
    have hrest := ih (n + 1)
    rw [joinWords, Nat.mul_succ, Nat.add_comm, Nat.pow_add]
    omega

/-- Words that hold the digits of `x` make `x`, as far as they reach. -/
theorem joinWords_of_digits (rd : Nat → W32) (n x k : Nat)
    (h : ∀ j < k, rd (n + j) = BitVec.ofNat 32 (x / 2 ^ (32 * j))) : joinWords rd n k = x % 2 ^ (32 * k) := by
  induction k generalizing n x with
  | zero => simp [joinWords, Nat.mod_one]
  | succ k ih =>
    have hlow : rd n = BitVec.ofNat 32 x := by simpa using h 0 (Nat.succ_pos k)
    have hrest : joinWords rd (n + 1) k = x / 2 ^ 32 % 2 ^ (32 * k) := ih (n + 1) (x / 2 ^ 32) fun j hj => by
      rw [Nat.div_div_eq_div_mul, ← Nat.pow_add, show n + 1 + j = n + (j + 1) by omega,
        show 32 + 32 * j = 32 * (j + 1) by omega]
      exact h (j + 1) (by omega)
    rw [joinWords, hrest, hlow, BitVec.toNat_ofNat, Nat.mul_succ, Nat.add_comm (32 * k), Nat.pow_add, Nat.mod_mul]

/-- The writes of a value of `k` registers: its digits, in rising registers. -/
theorem mem_wordsOf (w : Nat × W32) (n x k : Nat) :
    w ∈ wordsOf n x k ↔ ∃ j < k, w = (n + j, BitVec.ofNat 32 (x / 2 ^ (32 * j))) := by
  induction k generalizing n x with
  | zero => simp [wordsOf]
  | succ k ih =>
    have hdigit (j : Nat) : x / 2 ^ 32 / 2 ^ (32 * j) = x / 2 ^ (32 * (j + 1)) := by
      rw [Nat.div_div_eq_div_mul, ← Nat.pow_add, Nat.mul_succ, Nat.add_comm 32]
    simp only [wordsOf, List.mem_cons, ih, Nat.exists_lt_succ_left, hdigit, Nat.mul_zero, Nat.pow_zero, Nat.div_one,
      Nat.add_zero, Nat.add_assoc, Nat.add_comm 1]

theorem opA_lt (g : Group) (f : Frag) (o : FOp) (k i : Nat) : opA g f o k i < 2 ^ (32 * k) := by
  unfold opA
  split
  · rw [readVk_eq_joinWords]; exact joinWords_lt _ _ _
  · rw [readSk_eq_joinWords]; exact joinWords_lt _ _ _

/-- An integer B operand of at least one register lies below the bound of its registers. -/
theorem opB_intImm_lt (g : Group) (f : Frag) (o : FOp) {k : Nat} (hk : 0 < k) (i : Nat) :
    opB g f o (intImm o) k i < 2 ^ (32 * k) := by
  unfold opB
  split
  · rw [readVk_eq_joinWords]; exact joinWords_lt _ _ _
  · rw [readSk_eq_joinWords]; exact joinWords_lt _ _ _
  · next x _ =>
    unfold intImm
    split
    · exact (x.signExtend (32 * k)).isLt
    · exact Nat.lt_of_lt_of_le x.isLt (Nat.pow_le_pow_right (by decide) (by omega))

/-! ## Lanes -/

theorem mem_laneList {m : Lanes} {i : Nat} : i ∈ laneList m ↔ i < 96 ∧ m.getLsbD i = true := by
  simp [laneList]
/-- Lanes are listed in increasing order. -/
theorem pairwise_laneList (m : Lanes) : (laneList m).Pairwise (· < ·) := List.pairwise_lt_range.filter _
@[simp] theorem laneList_zero : laneList 0 = [] := by decide
theorem length_laneList_le (m : Lanes) : (laneList m).length ≤ 96 :=
  Nat.le_trans (List.length_filter_le _ _) (Nat.le_of_eq List.length_range)

/-- An Enabled lane is live (R81). -/
theorem getLsbD_liveLanes_of_mem_enabled {g : Group} {f : Frag} {gd : Guard} {i : Nat}
    (h : i ∈ laneList (enabled g f gd)) : (liveLanes f).getLsbD i = true := by
  have hen := (mem_laneList.mp h).2
  rw [enabled, BitVec.getLsbD_and, Bool.and_eq_true] at hen
  exact hen.1

/-- The first of a rising list is its least. -/
theorem head_le_of_pairwise_lt {ls : List Nat} {a j : Nat} (hp : ls.Pairwise (· < ·)) (ha : ls.head? = some a)
    (hj : j ∈ ls) : a ≤ j := by
  cases ls with
  | nil => simp at hj
  | cons b bs =>
    obtain rfl : b = a := by simpa using ha
    obtain rfl | hj := List.mem_cons.mp hj
    · exact Nat.le_refl _
    · exact Nat.le_of_lt ((List.pairwise_cons.mp hp).1 j hj)

/-! ## Effects on D -/

/-- A result that fits `k` registers is what D holds once `dEff` has been applied (WriteD of R81), in every lane that acts. -/
theorem opD_dEff {g h : Group} {f : Frag} {o : FOp} {k : Nat} {res : Nat → Nat} (hregs : h.regs = (dEff g f o k res).after g.regs)
    (hs : o.uni = true → o.d.toNat + k ≤ 125) {l : Nat} (hl : l ∈ actLanes g f o) (hlt : res l < 2 ^ (32 * k)) :
    opD h f o k l = res l := by
  rw [← Nat.mod_eq_of_lt hlt]
  unfold opD
  unfold dEff at hregs
  unfold actLanes at hl
  split <;> rename_i hu
  · rw [if_pos hu] at hregs hl
    obtain rfl : l = 0 := by simpa using hl
    rw [readSk_eq_joinWords]
    refine joinWords_of_digits _ _ _ _ fun j hj => ?_
    have hlow : o.d.toNat + j < 125 := by have := hs hu; omega
    rw [readS, if_neg (by omega), hregs]
    refine Eff.readS_after _ hlow (fun w hw hn => ?_) ((mem_wordsOf _ _ _ _).mpr ⟨j, hj, rfl⟩)
    obtain ⟨j', -, rfl⟩ := (mem_wordsOf _ _ _ _).mp hw
    obtain rfl : j' = j := by simpa using hn
    rfl
  · rw [if_neg hu] at hregs hl
    rw [readVk_eq_joinWords]
    refine joinWords_of_digits _ _ _ _ fun j hj => ?_
    rw [hregs]
    refine Eff.readV_after _ (fun w hw hn => ?_) ?_
    · simp only [List.mem_flatMap, vWrites, List.mem_map, mem_wordsOf] at hw
      obtain ⟨i, hi, _, ⟨j', -, rfl⟩, rfl⟩ := hw
      have hi96 := (mem_laneList.mp hi).1
      have hl96 := (mem_laneList.mp hl).1
      obtain ⟨rfl, rfl⟩ : j' = j ∧ i = l := by dsimp only at hn; omega
      rfl
    · simp only [List.mem_flatMap, vWrites, List.mem_map, mem_wordsOf]
      exact ⟨l, hl, _, ⟨j, hj, rfl⟩, rfl⟩

/-- Predicate D of an Enabled lane holds the truth value of `pEff`. -/
theorem readP_pEff {g h : Group} {f : Frag} {o : FOp} {res : Nat → Bool} (hregs : h.regs = (pEff g f o res).after g.regs)
    (hu : o.uni = false) (hd : o.d.toNat ≠ 7) {l : Nat} (hl : l ∈ laneList (enabled g f o.guard)) :
    (h.regs.readP o.d.toNat).getLsbD l = res l := by
  rw [pEff, if_neg (by simp [hu])] at hregs
  rw [hregs]
  refine Eff.readP_after _ hd (mem_laneList.mp hl).1 (fun w hw _ hwl => ?_) (List.mem_map.mpr ⟨l, hl, rfl⟩)
  obtain ⟨i, -, rfl⟩ := List.mem_map.mp hw
  exact congrArg res hwl

/-- Under U = 1 scalar D holds 1 or 0 after `pEff`. -/
theorem readS_pEff {g h : Group} {f : Frag} {o : FOp} {res : Nat → Bool} (hregs : h.regs = (pEff g f o res).after g.regs)
    (hu : o.uni = true) (hd : o.d.toNat < 125) : h.regs.readS o.d.toNat = if res 0 = true then 1 else 0 := by
  rw [pEff, if_pos hu] at hregs
  rw [hregs]
  exact Eff.readS_after _ hd (by simp) (by simp)

/-! ## A word that acts at issue -/

/-- Release of deferred entries leaves the registers alone (R97). -/
theorem Group.releaseIdle_regs (g : Group) (now : Nat) (ks : List Nat) : (g.releaseIdle now ks).regs = g.regs := by
  refine foldl_keeps Group.regs _ (fun g k => ?_) ks g
  split
  · rfl
  · unfold Group.releaseYoungest; split <;> rfl
/-- An exit of lanes leaves the registers alone (R94). -/
theorem Group.exitLanes_regs (g : Group) (now : Nat) (f : Frag) (lanes : Lanes) :
    (g.exitLanes now f lanes).regs = g.regs := by
  unfold Group.exitLanes
  dsimp only
  rw [Group.releaseIdle_regs, apply_ite Group.regs]
  exact ite_self _
theorem Group.raiseFp_regs (g : Group) (fpmode : W32) (fl : BitVec 5) : (g.raiseFp fpmode fl).regs = g.regs :=
  foldl_keeps Group.regs (fun g c => g.record c { eaddr := 0, detail := 0 }) (fun _ _ => rfl) (fpCauses fpmode fl) _

/-- Whatever becomes of its fragment, a group's registers after a word are those after the word's effect (R198-R200). -/
theorem applyEff_regs (now : Nat) (g : Group) (f : Frag) (e : Eff) : (applyEff now g f e).regs = e.after g.regs := by
  unfold applyEff
  dsimp only
  split
  · rw [Group.exitLanes_regs, Group.setFrag_regs, Group.raiseFp_regs]; rfl
  · rw [Group.setFrag_regs, Group.raiseFp_regs]; rfl

/-! Operands and effects on D read the registers alone, so that what issue notes in the group does not change them. -/

@[simp] theorem readVk_issuing (g : Group) (f : Frag) (i : Instr) (n l k : Nat) :
    readVk (g.issuing f i) n l k = readVk g n l k := by simp [readVk_eq_joinWords]
@[simp] theorem readSk_issuing (g : Group) (f e : Frag) (i : Instr) (n k : Nat) :
    readSk (g.issuing f i) e n k = readSk g e n k := by
  have hread : readS (g.issuing f i) e = readS g e := by funext m; simp [readS]
  simp [readSk_eq_joinWords, hread]
@[simp] theorem opA_issuing (g : Group) (f e : Frag) (i : Instr) (o : FOp) (k l : Nat) :
    opA (g.issuing f i) e o k l = opA g e o k l := by simp [opA]
@[simp] theorem opB_issuing (g : Group) (f e : Frag) (i : Instr) (o : FOp) (t : ImmT) (k l : Nat) :
    opB (g.issuing f i) e o t k l = opB g e o t k l := by simp [opB]
@[simp] theorem enabled_issuing (g : Group) (f e : Frag) (i : Instr) (gd : Guard) :
    enabled (g.issuing f i) e gd = enabled g e gd := by simp [enabled, guardLanes]
@[simp] theorem dEff_issuing (g : Group) (f e : Frag) (i : Instr) (o : FOp) (k : Nat) (res : Nat → Nat) :
    dEff (g.issuing f i) e o k res = dEff g e o k res := by simp [dEff]
@[simp] theorem pEff_issuing (g : Group) (f e : Frag) (i : Instr) (o : FOp) (res : Nat → Bool) :
    pEff (g.issuing f i) e o res = pEff g e o res := by simp [pEff]
@[simp] theorem withCombine_issuing (g : Group) (f : Frag) (i : Instr) (o : FOp) (l : Nat) (r : Bool) :
    withCombine (g.issuing f i) o l r = withCombine g o l r := by simp [withCombine]

/-- A word that acts at issue through one effect completes, and leaves the registers that its effect makes of the group as
it stood, where its effect takes no notice of what issue itself notes in the group. -/
theorem aluWord_regs {i : Instr} {s : State} {gk : Nat} {g : Group} {f : Frag} (eff : Group → Frag → Eff)
    (hat : AtIssue i s gk g f) (heff : eff (g.issuing f i) f = eff g f) :
    ∃ h, (aluWord i s eff).group gk = some h ∧ h.regs = (eff g f).after g.regs := by
  refine ⟨applyEff s.clock (g.issuing f i) f (eff (g.issuing f i) f), ?_, ?_⟩
  · rw [aluWord_runs eff hat.sel hat.legal hat.range hat.sound, State.taintV_group, State.group_setGroup]
  · rw [applyEff_regs, Group.issuing_regs, heff]

end Sys2Proof.Machine
end

section
/-! SUPPORT. The comparison, selection and lane-exchange words of the vector engine (R206, R220, R223). -/
namespace Sys2Proof.Machine
open Sys2Proof.Claims

/-! ## ICMP and SEL (R206) -/

/-- Either source of an integer word fits the registers of its type, so that D loses nothing of the one that is chosen. -/
theorem chosen_lt (g : Group) (f : Frag) (o : FOp) (c : Bool) (l : Nat) :
    (if c = true then opA g f o o.w l else opB g f o (intImm o) o.w l) < 2 ^ (32 * o.w) := by
  cases c with
  | false => exact opB_intImm_lt _ _ _ o.w_pos _
  | true => exact opA_lt _ _ _ _ _

/-- Settles O10: `pEff` leaves the condition of ICMP in predicate or scalar D, and `dEff` leaves in D the source that SEL
chooses. -/
theorem compareSetsPredicate : Obligations.CompareSetsPredicate := by
  constructor
  case left =>
    intro o s gk g f hwf hat
    obtain ⟨h, hgroup, hregs⟩ := aluWord_regs (effIcmp o) hat (by simp [effIcmp])
    refine ⟨_, h, rfl, hgroup, Shape.fn_of_isImm_of_ok hwf, fun hu => ⟨Regs.readP_seven _, fun hd l hl => ?_⟩,
      fun hu hd => ?_⟩
    · exact readP_pEff hregs hu hd hl
    · exact readS_pEff hregs hu hd
  case right =>
    intro o s gk g f _ hat hd
    obtain ⟨h, hgroup, hregs⟩ := aluWord_regs (effSel o) hat (by simp [effSel])
    exact ⟨_, h, rfl, hgroup, fun l hl => opD_dEff hregs hd hl (chosen_lt _ _ _ _ _)⟩

/-! ## PEER (R220) -/

/-- The Enabled lanes whose A equals that of lane `l` bit for bit. -/
def peerLanes (g : Group) (f : Frag) (o : FOp) (l : Nat) : List Nat :=
  (laneList (enabled g f o.guard)).filter fun j => opA g f o o.wx j == opA g f o o.wx l

/-- A lane is its own peer. -/
theorem mem_peerLanes_self {g : Group} {f : Frag} {o : FOp} {l : Nat} (hl : l ∈ laneList (enabled g f o.guard)) :
    l ∈ peerLanes g f o l := List.mem_filter.mpr ⟨hl, by simp⟩
theorem length_peerLanes_le (g : Group) (f : Frag) (o : FOp) (l : Nat) : (peerLanes g f o l).length ≤ 96 :=
  Nat.le_trans (List.length_filter_le _ _) (length_laneList_le _)

/-- Each write of PEER is the leader or the count of one Enabled lane. -/
theorem mem_effPeer_v {g : Group} {f : Frag} {o : FOp} {w : Nat × Nat × W32} :
    w ∈ (effPeer o g f).v ↔ ∃ i ∈ laneList (enabled g f o.guard),
      w = (o.d.toNat, i, BitVec.ofNat 32 ((peerLanes g f o i).head?.getD i))
      ∨ w = (o.d.toNat + 1, i, BitVec.ofNat 32 (peerLanes g f o i).length) := by
  simp only [effPeer, List.mem_flatMap, List.mem_cons, List.not_mem_nil, or_false]
  rfl

/-- The leader of an Enabled lane's peers is in D after PEER. -/
theorem readV_leader_effPeer {g : Group} {f : Frag} {o : FOp} {l : Nat} (r : Regs)
    (hl : l ∈ laneList (enabled g f o.guard)) :
    ((effPeer o g f).after r).readV o.d.toNat l = BitVec.ofNat 32 ((peerLanes g f o l).head?.getD l) := by
  refine Eff.readV_after r (fun w hw hkey => ?_) (mem_effPeer_v.mpr ⟨l, hl, .inl rfl⟩)
  have hl96 := (mem_laneList.mp hl).1
  obtain ⟨i, hi, rfl | rfl⟩ := mem_effPeer_v.mp hw <;> have hi96 := (mem_laneList.mp hi).1 <;> dsimp only at hkey
  · obtain rfl : i = l := by omega
    rfl
  · omega

/-- The number of an Enabled lane's peers is in the register after D. -/
theorem readV_count_effPeer {g : Group} {f : Frag} {o : FOp} {l : Nat} (r : Regs)
    (hl : l ∈ laneList (enabled g f o.guard)) :
    ((effPeer o g f).after r).readV (o.d.toNat + 1) l = BitVec.ofNat 32 (peerLanes g f o l).length := by
  refine Eff.readV_after r (fun w hw hkey => ?_) (mem_effPeer_v.mpr ⟨l, hl, .inr rfl⟩)
  have hl96 := (mem_laneList.mp hl).1
  obtain ⟨i, hi, rfl | rfl⟩ := mem_effPeer_v.mp hw <;> have hi96 := (mem_laneList.mp hi).1 <;> dsimp only at hkey
  · omega
  · obtain rfl : i = l := by omega
    rfl

/-- PEER's leader is the lowest peer, and its count is the number of peers: both fit a register. -/
theorem peerLeadersAndCounts : PeerLeadersAndCounts := by
  intro o s gk g f _ hat
  obtain ⟨h, hgroup, hregs⟩ := aluWord_regs (effPeer o) hat (by simp [effPeer])
  refine ⟨_, h, rfl, hgroup, fun l hl => ?_⟩
  have hself := mem_peerLanes_self hl
  obtain ⟨a, ha⟩ : ∃ a, (peerLanes g f o l).head? = some a := ⟨_, List.head?_eq_some_head (List.ne_nil_of_mem hself)⟩
  have ha96 : a < 96 := (mem_laneList.mp (List.mem_filter.mp (List.mem_of_head? ha)).1).1
  have hleader : (h.regs.readV o.d.toNat l).toNat = a := by
    rw [hregs, readV_leader_effPeer _ hl, ha, Option.getD_some, BitVec.toNat_ofNat, Nat.mod_eq_of_lt (by omega)]
  have hcount : (h.regs.readV (o.d.toNat + 1) l).toNat = (peerLanes g f o l).length := by
    have hle := length_peerLanes_le g f o l
    rw [hregs, readV_count_effPeer _ hl, BitVec.toNat_ofNat, Nat.mod_eq_of_lt (by omega)]
  refine ⟨by rw [hleader]; exact ha, fun j hj => ?_, hcount⟩
  rw [hleader]
  exact head_le_of_pairwise_lt ((pairwise_laneList _).filter _) ha hj

/-! ## BCAST (R223) -/

/-- The lane that BCAST sends: the lowest Enabled lane under FN = 1, and else the one that B names. -/
def bcastLane (g : Group) (f : Frag) (o : FOp) : Nat :=
  if o.fn = 1 then (laneList (enabled g f o.guard)).headD 0 else opB g f o .zext 1 0

/-- What BCAST sends: the value of its source lane, or 0 where that is past lane 95 or not live. -/
def bcastVal (g : Group) (f : Frag) (o : FOp) : Nat :=
  if bcastLane g f o < 96 ∧ (liveLanes f).getLsbD (bcastLane g f o) = true then opA g f o o.wx (bcastLane g f o) else 0

theorem bcastVal_lt (g : Group) (f : Frag) (o : FOp) : bcastVal g f o < 2 ^ (32 * o.wx) := by
  unfold bcastVal
  split
  · exact opA_lt _ _ _ _ _
  · exact Nat.two_pow_pos _

/-- With an Enabled lane, BCAST's source lane exists, and its effect is that value in every Enabled lane. -/
theorem effBcast_eq {g : Group} {f : Frag} {o : FOp} {l : Nat} (hl : l ∈ laneList (enabled g f o.guard)) :
    effBcast o g f = dEff g f o o.wx fun _ => bcastVal g f o := by
  unfold effBcast bcastVal bcastLane
  cases hls : laneList (enabled g f o.guard) with
  | nil => simp [hls] at hl
  | cons a ls => by_cases hfn : o.fn = 1 <;> simp [hfn]

/-- With no Enabled lane a result in D of a word on lanes writes nothing. -/
theorem after_dEff_of_enabled_zero {g : Group} {f : Frag} {o : FOp} (hu : o.uni = false)
    (hz : enabled g f o.guard = 0) (k : Nat) (res : Nat → Nat) (r : Regs) : (dEff g f o k res).after r = r := by
  rw [dEff, if_neg (by simp [hu]), hz, laneList_zero]
  exact Eff.after_of_no_writes rfl rfl rfl r

/-- BCAST names no scalar destination (R217): U is zero. -/
theorem uni_of_bcast_wf {o : FOp} (hwf : (Instr.bcast o).wf = true) : o.uni = false := Shape.uni_of_not_u_of_ok hwf rfl

/-- BCAST writes the source lane's value, or 0, in every Enabled lane, and nothing where there is none. -/
theorem broadcastFromOneLane : BroadcastFromOneLane := by
  intro o s gk g f hwf hat
  have hu := uni_of_bcast_wf hwf
  obtain ⟨h, hgroup, hregs⟩ := aluWord_regs (effBcast o) hat (by simp [effBcast])
  refine ⟨_, h, rfl, hgroup, fun hz => ?_, fun l hl => ?_⟩
  · rw [hregs]
    exact after_dEff_of_enabled_zero hu hz _ _ _
  · rw [effBcast_eq hl] at hregs
    have hact : l ∈ actLanes g f o := by simpa [actLanes, hu] using hl
    exact opD_dEff hregs (by simp [hu]) hact (bcastVal_lt g f o)

/-- Settles O11, by the peers of each lane and the lane that is sent. -/
theorem peerAndBroadcast : Obligations.PeerAndBroadcast := ⟨peerLeadersAndCounts, broadcastFromOneLane⟩

end Sys2Proof.Machine
end
